-- ==== Sys2Proof/Word.lean ====
section
/-!
DEFINITION. Sys2Proof/Word.lean: the word types of the KX8 (R2, R4, R57).
-/

namespace Sys2Proof

/-- One byte of memory. -/
abbrev Byte := BitVec 8

/-- A g register, an h register, a control register: 64 bits (R57). -/
abbrev Word := BitVec 64

/-- An instruction word (R228), or one 32-bit lane of a v register (R291). -/
abbrev Word32 := BitVec 32

/-- A p register: one bit per lane (R57, R233). -/
abbrev Mask := BitVec 16

/-- A v register: 16 lanes of 32 bits, lane `l` in bits 32l+31 : 32l (R291). -/
abbrev Vec := BitVec 512

/-- A 6-bit register field of an instruction word, numbered as R231 numbers it: 0 to 55 a register,
56 to 63 a distance operand in a source, 63 the discard in a destination. -/
abbrev Fld := BitVec 6

end Sys2Proof
end

