-- ==== Sys2Proof/Machine/Bits.lean ====
section
/-!
DEFINITION. Sys2Proof/Machine/Bits.lean: bit fields, byte lists and lanes: little-endian order (R4), sign extension
(R241), the 16 lanes of a v register (R291).
-/

namespace Sys2Proof.Machine

/-- `SignExtend(x, n)` of R241 for a field of its own width. -/
def sext64 {n : Nat} (x : BitVec n) : Word :=
  x.signExtend 64

/-- Bits hi:lo of a word as a number. -/
def field (w : Word) (hi lo : Nat) : Nat :=
  w.toNat / 2 ^ lo % 2 ^ (hi + 1 - lo)

/-- A number as a word, shifted to bit `lo`. -/
def at_ (lo : Nat) (v : Nat) : Word :=
  BitVec.ofNat 64 (v * 2 ^ lo)

/-- A bit of a word as a number. -/
def bitAt (lo : Nat) (b : Bool) : Word :=
  if b then BitVec.ofNat 64 (2 ^ lo) else 0

/-- Replace bits hi:lo. -/
def setField (w : Word) (hi lo v : Nat) : Word :=
  let mask : Word := BitVec.ofNat 64 ((2 ^ (hi + 1 - lo) - 1) * 2 ^ lo)
  (w &&& ~~~mask) ||| (BitVec.ofNat 64 (v * 2 ^ lo) &&& mask)

/-- The number that bytes stand for, lowest address first (R4). -/
def natOfBytes : List Byte → Nat
  | [] => 0
  | b :: bs => b.toNat + 256 * natOfBytes bs

/-- The `n` bytes of a number, lowest address first (R4). -/
def bytesOfNat : (n v : Nat) → List Byte
  | 0, _ => []
  | n + 1, v => BitVec.ofNat 8 v :: bytesOfNat n (v / 256)

/-- The eight bytes of a word. -/
def bytesOfWord (w : Word) : List Byte :=
  bytesOfNat 8 w.toNat

/-- A word of at most eight bytes. -/
def wordOfBytes (bs : List Byte) : Word :=
  BitVec.ofNat 64 (natOfBytes bs)

/-- Lane `l` of a v register (R291). -/
def lane (v : Vec) (l : Nat) : Word32 :=
  v.extractLsb' (32 * l) 32

/-- The number whose 32-bit digits are `f 0` to `f (n − 1)`. -/
def natOfLanes (f : Nat → Word32) : Nat → Nat
  | 0 => 0
  | n + 1 => natOfLanes f n + (f n).toNat * 2 ^ (32 * n)

/-- The v register of 16 lanes. -/
def vecOf (f : Nat → Word32) : Vec :=
  BitVec.ofNat 512 (natOfLanes f 16)

/-- Byte `k` of a v register (R304). -/
def vbyte (v : Vec) (k : Nat) : Byte :=
  v.extractLsb' (8 * k) 8

/-- The number whose bytes are `f 0` to `f (n − 1)`. -/
def natOfVbytes (f : Nat → Byte) : Nat → Nat
  | 0 => 0
  | n + 1 => natOfVbytes f n + (f n).toNat * 2 ^ (8 * n)

/-- The v register of 64 bytes. -/
def vecOfBytes (f : Nat → Byte) : Vec :=
  BitVec.ofNat 512 (natOfVbytes f 64)

/-- The 16-bit mask of a predicate on lanes. -/
def maskOf (f : Nat → Bool) : Mask :=
  BitVec.ofNat 16 ((List.range 16).foldl (fun acc l => if f l then acc + 2 ^ l else acc) 0)

/-- The number of 1 bits in the low `n` bits. -/
def popcount (v : Nat) : Nat → Nat
  | 0 => 0
  | n + 1 => v % 2 + popcount (v / 2) n

/-- The position of the lowest 1 bit, `n` when there is none below it. -/
def lowestOne (v : Nat) : Nat → Nat
  | 0 => 0
  | n + 1 => if v % 2 = 1 then 0 else 1 + lowestOne (v / 2) n

/-- n rounded up to a multiple of k. -/
def roundUpTo (k n : Nat) : Nat :=
  (n + k - 1) / k * k

end Sys2Proof.Machine
end

