-- ==== Sys2Proof/Machine/Hash.lean ====
section
/-!
DEFINITION. Sys2Proof/Machine/Hash.lean: SHAKE256, which R407 names for the digests of the attestation report. The spec gives the
function by its name alone; what it computes is FIPS 202's (PRESUMED, log entry 10).
-/

namespace Sys2Proof.Machine

open Sys2Proof

/-- Lane (x, y) of a Keccak state of 25 lanes. -/
def keccakLane (a : List Word) (x y : Nat) : Word := a.getD (x % 5 + 5 * (y % 5)) 0

/-- A state given lane by lane. -/
def keccakOf (f : (x y : Nat) → Word) : List Word :=
  (List.range 25).map fun i => f (i % 5) (i / 5)

/-- The rotation of each lane. -/
def keccakRot : List Nat :=
  [0, 1, 62, 28, 27, 36, 44, 6, 55, 20, 3, 10, 43, 25, 39, 41, 45, 15, 21, 8, 18, 2, 61, 56, 14]

/-- The constants of the 24 rounds. -/
def keccakConst : List Word :=
  [0x0000000000000001, 0x0000000000008082, 0x800000000000808A, 0x8000000080008000, 0x000000000000808B, 0x0000000080000001,
   0x8000000080008081, 0x8000000000008009, 0x000000000000008A, 0x0000000000000088, 0x0000000080008009, 0x000000008000000A,
   0x000000008000808B, 0x800000000000008B, 0x8000000000008089, 0x8000000000008003, 0x8000000000008002, 0x8000000000000080,
   0x000000000000800A, 0x800000008000000A, 0x8000000080008081, 0x8000000000008080, 0x0000000080000001, 0x8000000080008008]

/-- One round: the columns' parities, the lanes turned and moved, the rows' combination, the round's constant. -/
def keccakRound (a : List Word) (rc : Word) : List Word :=
  let col : List Word := (List.range 5).map fun x => (List.range 5).foldl (fun w y => w ^^^ keccakLane a x y) 0
  let a1 := keccakOf fun x y =>
    keccakLane a x y ^^^ col.getD ((x + 4) % 5) 0 ^^^ (col.getD ((x + 1) % 5) 0).rotateLeft 1
  let b := keccakOf fun x y =>
    (keccakLane a1 (x + 3 * y) x).rotateLeft (keccakRot.getD ((x + 3 * y) % 5 + 5 * x) 0)
  keccakOf fun x y =>
    keccakLane b x y ^^^ (~~~(keccakLane b (x + 1) y) &&& keccakLane b (x + 2) y) ^^^ (if x = 0 ∧ y = 0 then rc else 0)

/-- The permutation. -/
def keccakF (a : List Word) : List Word := keccakConst.foldl keccakRound a

/-- A block of 136 bytes taken into the state. -/
def keccakAbsorb (a : List Word) (block : List Byte) : List Word :=
  keccakF ((List.range 25).map fun i => a.getD i 0 ^^^ wordOfBytes ((block.drop (8 * i)).take 8))

/-- Bytes with the padding of SHAKE256, up to a multiple of 136. -/
def shakePad (l : List Byte) : List Byte :=
  let n := 135 - l.length % 136
  if n = 0 then l ++ [0x9F] else l ++ [0x1F] ++ List.replicate (n - 1) 0 ++ [0x80]

/-- The blocks of padded bytes taken in, one after another. -/
def shakeAbsorb : (n : Nat) → List Word → List Byte → List Word
  | 0, a, _ => a
  | n + 1, a, l => shakeAbsorb n (keccakAbsorb a (l.take 136)) (l.drop 136)

/-- The SHAKE256 digest of bytes: 32 bytes (R407). -/
def shake256 (l : List Byte) : List Byte :=
  let p := shakePad l
  ((shakeAbsorb (p.length / 136) (List.replicate 25 0) p).take 4).flatMap bytesOfWord

end Sys2Proof.Machine
end

