-- ==== Sys2Proof/Config.lean ====
section
/-!
DEFINITION. Sys2Proof/Config.lean: what the spec leaves to the implementation or to the world outside, as constants with
no body: nothing in Lean can evaluate them, so a claim holds whatever they are (DESIGN CHOICE, log entries 4, 9 and 10).
-/

namespace Sys2Proof.Config

/-- How many cycles beyond the next one the `n`-th piece of asynchronous work takes (DESIGN CHOICE, log entry 4). -/
opaque delay : Nat → Nat

/-- The `n`-th value the spec leaves open (DESIGN CHOICE, log entry 9). -/
opaque freeWord : Nat → Word

/-- What the endpoint's ATS answers for a space, a host address and a read or a write at the `n`-th asking: a host address, or no
access (DESIGN CHOICE, log entry 10). -/
opaque atsAnswer : (n sid va : Nat) → (write : Bool) → Option Nat

/-- Whether the host has enabled PASID at the endpoint (R149; DESIGN CHOICE, log entry 10). -/
opaque hostPasid : Bool

/-- Whether the host has enabled AtomicOp completion at the endpoint (R323; DESIGN CHOICE, log entry 10). -/
opaque hostAtomics : Bool

/-- Whether an XMSS signature over these bytes verifies under a key (DESIGN CHOICE, log entry 10). -/
opaque xmssVerify : (key : List Byte) → (bytes signature : List Byte) → Bool

/-- The attestation signature over these bytes with one-time index `n` (DESIGN CHOICE, log entry 10). -/
opaque xmssSign : (n : Nat) → (bytes : List Byte) → List Byte

/-- A sensor of island `n` read for the `k`-th time: temperature and voltage (DESIGN CHOICE, log entry 10). -/
opaque sensor : (k n : Nat) → BitVec 32

/-- The firmware image in the module boot flash (DESIGN CHOICE, log entry 10). -/
opaque bootFlash : List Byte

/-- Whether the signature of a firmware image verifies against the fused key, and the version it carries (DESIGN CHOICE, log entry 10). -/
opaque firmwareSigned : (image : List Byte) → Bool
opaque firmwareVersion : (image : List Byte) → BitVec 32

/-- The fused rollback counter (R405; DESIGN CHOICE, log entry 10). -/
opaque fusedCounter : Nat

/-- The bytes of ROM, and those of a firmware image that are Brewhouse (R405, R407; DESIGN CHOICE, log entry 10). -/
opaque rom : List Byte
opaque brewhouse : (image : List Byte) → List Byte

/-- Where Brewhouse places the code and the data of the image of a partition (DESIGN CHOICE, log entry 10). -/
opaque bootCode : Nat → Nat
opaque bootData : Nat → Nat

end Sys2Proof.Config
end

