-- ==== Sys2Proof/Machine/Table.lean ====
section
/-!
DEFINITION. Sys2Proof/Machine/Table.lean: finite tables by number, the form in which registers, cores, dies and memory
are held: a list of (key, value) pairs whose keys rise strictly. `set` keeps a table that has a default value free of
entries equal to it, so that equal contents are equal lists.
-/

namespace Sys2Proof.Machine

/-- A table from numbers to values. -/
abbrev FMap (α : Type) := List (Nat × α)

/-- The entry of a key. -/
def FMap.find? {α : Type} : FMap α → Nat → Option α
  | [], _ => none
  | (k', v) :: m, k => if k = k' then some v else FMap.find? m k

/-- The value of a key, or the default of the table. -/
def FMap.get {α : Type} (d : α) (m : FMap α) (k : Nat) : α :=
  (m.find? k).getD d

/-- The table with the entry of a key replaced or put in its place. -/
def FMap.put {α : Type} : FMap α → Nat → α → FMap α
  | [], k, v => [(k, v)]
  | (k', v') :: m, k, v =>
    if k < k' then (k, v) :: (k', v') :: m
    else if k = k' then (k, v) :: m
    else (k', v') :: FMap.put m k v

/-- The table without a key. -/
def FMap.erase {α : Type} (m : FMap α) (k : Nat) : FMap α :=
  List.filter (fun e => e.1 != k) m

/-- Write a key of a table whose unlisted keys read as `d`. -/
def FMap.set {α : Type} [DecidableEq α] (d : α) (m : FMap α) (k : Nat) (v : α) : FMap α :=
  if v = d then m.erase k else m.put k v

/-- Keys rise strictly, each above `lo` when one is given. -/
def FMap.sortedFrom {α : Type} : Option Nat → FMap α → Bool
  | _, [] => true
  | none, (k, _) :: m => FMap.sortedFrom (some k) m
  | some lo, (k, _) :: m => decide (lo < k) && FMap.sortedFrom (some k) m

/-- The canonical form of a table with a default: keys rise strictly and no entry equals the default. -/
def FMap.wf {α : Type} [DecidableEq α] (d : α) (m : FMap α) : Bool :=
  FMap.sortedFrom none m && m.all (fun e => decide (e.2 ≠ d))

end Sys2Proof.Machine
end

