-- ==== Sys2Proof/Syntax.lean ====
section
/-!
DEFINITION. Sys2Proof/Syntax.lean: the rows of the opcode table, one constructor each: rows 0 to 209 are the
instructions a word decodes to, rows 210 to 309 the machine's own events. What an event brings (an address,
a message, a written value) is an Ev, which the machine holds while the event is carried out.
-/

namespace Sys2Proof

/-- The stall count and the predicate field of a first word (R229). -/
structure Hdr where
  stall : BitVec 3
  pred  : BitVec 3
deriving DecidableEq, Repr

/-- The signed and equality conditions of CMP, CMPI and VCMP (R244, R247). -/
inductive Cond
  | eq | ne | lt | le
deriving DecidableEq, Repr

/-- The unsigned conditions of CMP and CMPI (R244). -/
inductive UCond
  | ltu | leu
deriving DecidableEq, Repr

/-- An access size, or an index scale of 1, 2, 4 or 8 (R244). -/
inductive Size
  | b | h | w | d
deriving DecidableEq, Repr

/-- The sizes of LD.u (R244). -/
inductive USize3
  | b | h | w
deriving DecidableEq, Repr

/-- The tests of BRP (R244). -/
inductive PTest
  | any | all | none
deriving DecidableEq, Repr

/-- The dispositions of ERET (R267). -/
inductive Disp
  | resume | restart | abort
deriving DecidableEq, Repr

/-- SCOPE (R230). -/
inductive Scope
  | co | cl | die | pkg | pod | sys
deriving DecidableEq, Repr

/-- ORD of an atomic (R230). -/
inductive Ord4
  | none | acq | rel | ar
deriving DecidableEq, Repr

/-- ORD of FENCE, where 0 is refused (R247). -/
inductive Ord3
  | acq | rel | ar
deriving DecidableEq, Repr

/-- RND (R38). -/
inductive Rnd
  | rne | rtz | rdn | rup | dyn
deriving DecidableEq, Repr

/-- The lane types an FMT of column T selects (R292). -/
inductive LaneT
  | f32 | i32
deriving DecidableEq, Repr

/-- The operations of VRED (R299). -/
inductive RedOp
  | add | min | max
deriving DecidableEq, Repr

/-- A block extent: BROWS and BCOLS (R234). -/
structure Block where
  rows1 : BitVec 3
  cols1 : BitVec 3
deriving DecidableEq, Repr

/-- The levels of GBARV (R244). -/
inductive GbLevel
  | cl | stk | pkg
deriving DecidableEq, Repr

/-- The OPSEL codes of SUSP (R333). -/
inductive SuspOp
  | add | mul | fma | mm | mmacc | exp2 | red | cvt | scal
deriving DecidableEq, Repr

/-- Who makes a management write (R409 to R411): a master outside, by its id (0x01 the host function,
0x80 + DA an I3C controller), or the trap-mode code of a partition, by a request of one context. -/
inductive Master
  | outside (id : BitVec 8)
  | part (p core ctx : Nat)
deriving DecidableEq, Repr

/-- A 32-byte command of four words (R409, R411). -/
structure Cmd4 where
  w0 : Word
  w1 : Word
  w2 : Word
  w3 : Word
deriving DecidableEq, Repr

/-- A message in flight: the two header words of R66, the payload, and the capability a code message
carries outside both (R67). `own` marks a message the device makes itself, whose INF the receiver
writes (R413); `xfer` a copy-unit event, whose AUX CPY.XID shows (R361); `launch` is the kernel that a LAUNCH sends it for
(R85). -/
structure Msg where
  w0      : Word
  w1      : Word
  payload : List Byte
  cap     : Word := 0
  own     : Bool := false
  xfer    : Bool := false
  launch  : Option Nat := none
deriving DecidableEq, Repr

/-- One context of the package: logical core id and context number (R15). -/
structure CtxId where
  core : Nat
  ctx  : Nat
deriving DecidableEq, Repr

/-- A wait-chain probe (R79): where it was sent from, where it arrives and the wait the edge recorded there,
the highest context passed, the hop count, and whether any edge so far was a FORCE. -/
structure Probe where
  src      : CtxId
  srcSince : Nat
  at_      : CtxId
  atSince  : Nat
  high     : CtxId
  hops     : Nat
  force    : Bool
deriving DecidableEq, Repr

/-- What a request from outside asks for (R161, R165, R201). -/
inductive ExtOp
  | read (n : Nat)
  | write (data : List Byte)
  | atomic (op : Nat) (dbl : Bool) (b c : Word)
  | message (m : Msg)
deriving DecidableEq, Repr

/-- A request that enters through a link port, the host endpoint or the storage port. -/
structure ExtReq where
  addr : Nat
  op   : ExtOp
deriving DecidableEq, Repr

/-- A matrix command that MCMD sends to another cluster (R365): its four words and the command word, the
capability, and who pushed it. -/
structure McmdMsg where
  words : List Word
  cmd   : Word
  cap   : Word
  src   : CtxId
  inf   : Bool
deriving DecidableEq, Repr

/-- What an event brings. Each event's constructor says which fields it reads: `unit`, `sub` and `num` number
the things it is about, `w0` and `w1` are words, the rest is what its name says. -/
structure Ev where
  who   : Master := .outside 1
  unit  : Nat := 0
  sub   : Nat := 0
  num   : Nat := 0
  w0    : Word := 0
  w1    : Word := 0
  flag  : Bool := false
  data  : List Byte := []
  cmd   : Cmd4 := ⟨0, 0, 0, 0⟩
  msg   : Msg := { w0 := 0, w1 := 0, payload := [] }
  probe : Probe := ⟨⟨0, 0⟩, 0, ⟨0, 0⟩, 0, ⟨0, 0⟩, 0, false⟩
  req   : ExtReq := ⟨0, .read 0⟩
  mcmd  : McmdMsg := ⟨[], 0, 0, ⟨0, 0⟩, false⟩
deriving DecidableEq, Repr

/-- One constructor per row of the opcode table. -/
inductive Instr

  /-- ADD (R276). Writes ga + gb modulo 2^64 to gd. -/
  | add (h : Hdr) (d a b : Fld)
  /-- SUB (R276). Writes ga − gb modulo 2^64 to gd. -/
  | sub (h : Hdr) (d a b : Fld)
  /-- MUL (R276). Writes bits 63:0 of ga × gb to gd. -/
  | mul (h : Hdr) (d a b : Fld)
  /-- MOV (R287). Copies ga to gd. -/
  | mov (h : Hdr) (d a : Fld)
  /-- MULH (R276). Writes the high 64 bits of the signed or unsigned 128-bit product, as the function bit
  selects. -/
  | mulh (h : Hdr) (u : Bool) (d a b : Fld)
  /-- DIV (R277). Divides ga by gb, signed or unsigned, rounding toward zero, without ever trapping. -/
  | div (h : Hdr) (u : Bool) (d a b : Fld)
  /-- REM (R277). Writes the remainder of ga divided by gb, signed or unsigned, with the sign of the
  dividend. -/
  | rem (h : Hdr) (u : Bool) (d a b : Fld)
  /-- MIN (R278). Writes the smaller of ga and gb, compared signed or unsigned. -/
  | min (h : Hdr) (u : Bool) (d a b : Fld)
  /-- MAX (R278). Writes the larger of ga and gb, compared signed or unsigned. -/
  | max (h : Hdr) (u : Bool) (d a b : Fld)
  /-- AND (R279). Writes the bitwise AND of ga and gb. -/
  | and (h : Hdr) (d a b : Fld)
  /-- OR (R279). Writes the bitwise OR of ga and gb. -/
  | or (h : Hdr) (d a b : Fld)
  /-- XOR (R279). Writes the bitwise XOR of ga and gb. -/
  | xor (h : Hdr) (d a b : Fld)
  /-- ANDN (R279). Writes ga AND NOT gb. -/
  | andn (h : Hdr) (d a b : Fld)
  /-- SHL (R281). Shifts ga left by gb[5:0]. -/
  | shl (h : Hdr) (d a b : Fld)
  /-- SHR (R281). Shifts ga right logically by gb[5:0]. -/
  | shr (h : Hdr) (d a b : Fld)
  /-- SAR (R281). Shifts ga right arithmetically by gb[5:0]. -/
  | sar (h : Hdr) (d a b : Fld)
  /-- ROL (R281). Rotates ga left by gb[5:0]. -/
  | rol (h : Hdr) (d a b : Fld)
  /-- SHL_IMM (R281). Shifts ga left by IMM6. -/
  | shlImm (h : Hdr) (d a : Fld) (n : BitVec 6)
  /-- SHR_IMM (R281). Shifts ga right logically by IMM6. -/
  | shrImm (h : Hdr) (d a : Fld) (n : BitVec 6)
  /-- SAR_IMM (R281). Shifts ga right arithmetically by IMM6. -/
  | sarImm (h : Hdr) (d a : Fld) (n : BitVec 6)
  /-- ROL_IMM (R281). Rotates ga left by IMM6. -/
  | rolImm (h : Hdr) (d a : Fld) (n : BitVec 6)
  /-- POPC (R283). Writes the number of 1 bits in ga. -/
  | popc (h : Hdr) (d a : Fld)
  /-- CLZ (R283). Writes the number of leading zero bits of ga. -/
  | clz (h : Hdr) (d a : Fld)
  /-- CTZ (R283). Writes the number of trailing zero bits of ga. -/
  | ctz (h : Hdr) (d a : Fld)
  /-- SEXT (R283). Sign-extends the low w bits of ga, where IMM6 holds w − 1. -/
  | sext (h : Hdr) (d a : Fld) (w1 : BitVec 6)
  /-- CMP (R285). Compares ga with gb under eq, ne, lt or le and writes all 16 bits of a predicate. -/
  | cmp (h : Hdr) (c : Cond) (d a b : Fld)
  /-- CMP_UNSIGNED (R285). Compares ga with gb unsigned under ltu or leu and writes a predicate. -/
  | cmpUnsigned (h : Hdr) (c : UCond) (d a b : Fld)
  /-- CMPI (R285). Compares ga with a sign-extended IMM6 under eq, ne, lt or le and writes a predicate. -/
  | cmpi (h : Hdr) (c : Cond) (d a : Fld) (imm : BitVec 6)
  /-- CMPI_UNSIGNED (R285). Compares ga with a zero-extended IMM6 under ltu or leu and writes a predicate. -/
  | cmpiUnsigned (h : Hdr) (c : UCond) (d a : Fld) (imm : BitVec 6)
  /-- ADDI (R276). Adds a sign-extended IMM6 to ga. -/
  | addi (h : Hdr) (d a : Fld) (imm : BitVec 6)
  /-- ADDI_XW (R276). Adds a sign-extended IMM32 to ga, in the two-word XW form. -/
  | addiXw (h : Hdr) (d a : Fld) (imm : BitVec 32)
  /-- LEA (R288). Writes ga + gb × scale modulo 2^64 and makes no check. -/
  | lea (h : Hdr) (sc : Size) (d a b : Fld)
  /-- LEAW (R289). Computes ga + gb × scale and traps when the base or the result lies outside the base's
  window. -/
  | leaw (h : Hdr) (sc : Size) (d a b : Fld)
  /-- FSHL (R282). Writes the high word of ga:gb shifted left by gc[5:0]. -/
  | fshl (h : Hdr) (d a b c : Fld)
  /-- FSHR (R282). Writes the low word of ga:gb shifted right by gc[5:0]. -/
  | fshr (h : Hdr) (d a b c : Fld)
  /-- SEL (R286). Writes ga when the predicate masked by LMASK is non-zero, and gb otherwise. -/
  | sel (h : Hdr) (d a b c : Fld)
  /-- LOP3 (R280). Applies an 8-bit truth table bit by bit to ga, gb and gc. -/
  | lop3 (h : Hdr) (d a b c : Fld) (tt : BitVec 8)
  /-- EXTR (R284). Zero-extends a field of ga given by its position and width. -/
  | extr (h : Hdr) (d a : Fld) (pos w1 : BitVec 6)
  /-- INS (R284). Inserts the low bits of ga into a field of gd. -/
  | ins (h : Hdr) (d a : Fld) (pos w1 : BitVec 6)
  /-- MOVI (R287). Writes a sign-extended IMM32 to gd. -/
  | movi (h : Hdr) (d : Fld) (imm : BitVec 32)
  /-- LI64 (R287). Writes IMM32 × 2^32 + ga[31:0] to gd. -/
  | li64 (h : Hdr) (d a : Fld) (imm : BitVec 32)
  /-- BR (R252). Branches unconditionally by OFF18. -/
  | br (h : Hdr) (off : BitVec 18)
  /-- CALL (R252). Branches by OFF18 and writes the link address to g55. -/
  | call (h : Hdr) (off : BitVec 18)
  /-- BRZ (R252). Branches by OFF12 when ga is zero. -/
  | brz (h : Hdr) (a : Fld) (off : BitVec 12)
  /-- BRNZ (R252). Branches by OFF12 when ga is non-zero. -/
  | brnz (h : Hdr) (a : Fld) (off : BitVec 12)
  /-- LOOP (R254). Pushes a hardware loop whose count is ga[31:0] and whose exit lies at OFF12. -/
  | loop (h : Hdr) (a : Fld) (off : BitVec 12)
  /-- FORK (R259). Splits the lanes in pa into a child context bound through the local deque. -/
  | fork (h : Hdr) (a : Fld) (off : BitVec 12)
  /-- BRP (R252). Branches by OFF12 when the predicate, masked by LMASK, meets the any, all or none test. -/
  | brp (h : Hdr) (t : PTest) (a : Fld) (off : BitVec 12)
  /-- JMPR (R252). Jumps to the address held in ga. -/
  | jmpr (h : Hdr) (a : Fld)
  /-- CALLR (R252). Jumps to the address held in ga and writes the link address to gd. -/
  | callr (h : Hdr) (d a : Fld)
  /-- RET (R253). Returns to the address in ga, and ends a closure evaluation when the return matches its
  entry. -/
  | ret (h : Hdr) (a : Fld)
  /-- JOIN (R261). Arrives at a JOIN word, and either ends the activation or queues the continuation. -/
  | join (h : Hdr) (a : Fld)
  /-- LOOPI (R254). Pushes a hardware loop whose count is an immediate. -/
  | loopi (h : Hdr) (n1 : BitVec 14) (off : BitVec 12)
  /-- RPT (R258). Starts a repeat frame that captures a number of instructions and replays them with a
  stride. -/
  | rpt (h : Hdr) (len1 : BitVec 4) (stride : BitVec 6) (count1 : BitVec 8)
  /-- END (R262). Ends the activation, makes the context Dormant and frees its inbox slot. -/
  | endAct (h : Hdr)
  /-- YIELD (R263). Keeps the context Ready but places it last in the round-robin. -/
  | yield (h : Hdr)
  /-- NOP (R265). Does nothing beyond its issue slot. -/
  | nop
  /-- TLBINV (R272). In trap mode, removes from every translation cache each leaf of a space that maps the
  range. -/
  | tlbinv (h : Hdr) (c a b : Fld)
  /-- SLEEP (R264). Waits until a cycle count expires, a message arrives or a wake comes. -/
  | sleep (h : Hdr) (d a : Fld)
  /-- PREEMPT (R271). In trap mode, saves a target context to its SAVE.BASE image. -/
  | preempt (h : Hdr) (d a : Fld)
  /-- CSAVE (R271). In trap mode, saves a target context to the image at gb. -/
  | csave (h : Hdr) (d a b : Fld)
  /-- CREST (R271). In trap mode, restores the image at gb into a Dormant or Saved context. -/
  | crest (h : Hdr) (d a b : Fld)
  /-- TAGEN (R270). Sets EN of a handler-table entry. -/
  | tagen (h : Hdr) (n : BitVec 6)
  /-- TAGCLR (R270). Clears EN of a handler-table entry. -/
  | tagclr (h : Hdr) (n : BitVec 6)
  /-- ERET (R267). Leaves trap mode with the Resume, Restart or Abort disposition. -/
  | eret (h : Hdr) (n : Disp)
  /-- TRAP (R266). Raises the SOFTWARE cause 0x020 + n. -/
  | trap (h : Hdr) (n : BitVec 5)
  /-- HINT (R248). Executes as a NOP whatever its fields hold. -/
  | hint (stall : BitVec 3) (n : BitVec 4) (imm : BitVec 26)
  /-- CSRR (R268). Reads a control register into gd. -/
  | csrr (h : Hdr) (d : Fld) (n : BitVec 12)
  /-- CSRW (R268). Writes a control register from ga and returns its old value. -/
  | csrw (h : Hdr) (d a : Fld) (n : BitVec 12)
  /-- CSRS (R268). Sets bits of a control register from ga and returns its old value. -/
  | csrs (h : Hdr) (d a : Fld) (n : BitVec 12)
  /-- CSRC (R268). Clears bits of a control register from ga and returns its old value. -/
  | csrc (h : Hdr) (d a : Fld) (n : BitVec 12)
  /-- LD (R313). Loads one element from ga + IMM6, or one window element through a format window. -/
  | ld (h : Hdr) (sz : Size) (d a : Fld) (imm : BitVec 6)
  /-- LD_U (R313). Loads one element with zero extension from ga + IMM6. -/
  | ldU (h : Hdr) (sz : USize3) (d a : Fld) (imm : BitVec 6)
  /-- ST (R313). Stores one element to ga + IMM6. -/
  | st (h : Hdr) (sz : Size) (d a : Fld) (imm : BitVec 6)
  /-- LD_INDEXED (R313). Loads one element from ga + gb × size. -/
  | ldIndexed (h : Hdr) (sz : Size) (d a b : Fld)
  /-- ST_INDEXED (R313). Stores one element to ga + gb × size. -/
  | stIndexed (h : Hdr) (sz : Size) (d a b : Fld)
  /-- LD_XI (R313). Loads one element at a large signed offset, in the XI form. -/
  | ldXi (h : Hdr) (sz : Size) (d a : Fld) (imm : BitVec 26)
  /-- LD_U_XI (R313). Loads one zero-extended element at a large signed offset, in the XI form. -/
  | ldUXi (h : Hdr) (sz : USize3) (d a : Fld) (imm : BitVec 26)
  /-- ST_XI (R313). Stores one element at a large signed offset, in the XI form. -/
  | stXi (h : Hdr) (sz : Size) (d a : Fld) (imm : BitVec 26)
  /-- VLD (R314). Loads the 16 lanes of a v register as one access. -/
  | vld (h : Hdr) (d a : Fld) (imm : BitVec 6)
  /-- VST (R314). Stores the 16 lanes of a v register as one access. -/
  | vst (h : Hdr) (d a : Fld) (imm : BitVec 6)
  /-- VLD_XI (R314). Loads a v register at a large signed offset, in the XI form. -/
  | vldXi (h : Hdr) (d a : Fld) (imm : BitVec 26)
  /-- VST_XI (R314). Stores a v register at a large signed offset, in the XI form. -/
  | vstXi (h : Hdr) (d a : Fld) (imm : BitVec 26)
  /-- MSGVLD (R346). Reads payload words of the activation's own message into active lanes. -/
  | msgvld (h : Hdr) (d a : Fld) (imm : BitVec 6)
  /-- MSGLD (R346). Reads 8 payload bytes of the activation's own message. -/
  | msgld (h : Hdr) (d a : Fld) (imm : BitVec 6)
  /-- WDSET (R325). Writes a window descriptor after checking it. -/
  | wdset (h : Hdr) (a : Fld) (n : BitVec 3)
  /-- WDGET (R325). Reads a window descriptor into gd. -/
  | wdget (h : Hdr) (d : Fld) (n : BitVec 3)
  /-- PREF (R324). Prepares one line for reading or writing without any access or fault. -/
  | pref (h : Hdr) (w : Bool) (a : Fld) (imm : BitVec 6)
  /-- LDA (R318). Loads one raw element as an acquire at SCOPE. -/
  | lda (h : Hdr) (sz : Size) (scope : Scope) (d a : Fld)
  /-- STREL (R318). Stores one raw element as a release at SCOPE. -/
  | strel (h : Hdr) (sz : Size) (scope : Scope) (d a : Fld)
  /-- FENCE (R319). Orders the context's accesses at SCOPE in the class that ORD selects. -/
  | fence (h : Hdr) (scope : Scope) (ord : Ord3)
  /-- AMO_ADD (R320). Atomically adds gb to the element and returns the old value. -/
  | amoAdd (h : Hdr) (dbl : Bool) (scope : Scope) (ord : Ord4) (d a b : Fld)
  /-- AMO_AND (R320). Atomically ANDs gb into the element and returns the old value. -/
  | amoAnd (h : Hdr) (dbl : Bool) (scope : Scope) (ord : Ord4) (d a b : Fld)
  /-- AMO_OR (R320). Atomically ORs gb into the element and returns the old value. -/
  | amoOr (h : Hdr) (dbl : Bool) (scope : Scope) (ord : Ord4) (d a b : Fld)
  /-- AMO_XOR (R320). Atomically XORs gb into the element and returns the old value. -/
  | amoXor (h : Hdr) (dbl : Bool) (scope : Scope) (ord : Ord4) (d a b : Fld)
  /-- AMO_MIN (R320). Atomically keeps the signed or unsigned minimum of the element and gb. -/
  | amoMin (h : Hdr) (u dbl : Bool) (scope : Scope) (ord : Ord4) (d a b : Fld)
  /-- AMO_MAX (R320). Atomically keeps the signed or unsigned maximum of the element and gb. -/
  | amoMax (h : Hdr) (u dbl : Bool) (scope : Scope) (ord : Ord4) (d a b : Fld)
  /-- AMO_SWP (R320). Atomically swaps gb into the element and returns the old value. -/
  | amoSwp (h : Hdr) (dbl : Bool) (scope : Scope) (ord : Ord4) (d a b : Fld)
  /-- AMOCAS (R321). Compares the element with gb, writes gc when they are equal, and returns the old
  value. -/
  | amocas (h : Hdr) (dbl : Bool) (scope : Scope) (ord : Ord4) (d a b c : Fld)
  /-- AMOFADD (R322). Atomically adds an FP32 value to an FP32 element with one rounding. -/
  | amofadd (h : Hdr) (rnd : Rnd) (scope : Scope) (ord : Ord4) (d a b : Fld)
  /-- VLDS (R315). Loads a block of lanes at a stride of gb bytes. -/
  | vlds (h : Hdr) (bk : Block) (d a b : Fld)
  /-- VSTS (R315). Stores a block of lanes at a stride of gb bytes. -/
  | vsts (h : Hdr) (bk : Block) (d a b : Fld)
  /-- VGATH (R316). Loads each active lane from its own address in ascending lane order, and records
  progress on a fault. -/
  | vgath (h : Hdr) (d a b : Fld)
  /-- VSCAT (R316). Stores each active lane to its own address in ascending lane order, and records
  progress on a fault. -/
  | vscat (h : Hdr) (d a b : Fld)
  /-- HLD (R328). Loads a handle from a slot, passes it through the barrier and heals the slot. -/
  | hld (h : Hdr) (d a : Fld) (imm : BitVec 6)
  /-- HST (R328). Stores a healed handle to a slot, reporting the overwritten handle while Marking. -/
  | hst (h : Hdr) (d a : Fld) (imm : BitVec 6)
  /-- HRD (R331). Reads one element of a VALUE or BYTES object through a handle. -/
  | hrd (h : Hdr) (d a : Fld) (imm : BitVec 6)
  /-- HWR (R331). Writes one element of a VALUE or BYTES object through a handle. -/
  | hwr (h : Hdr) (d a : Fld) (imm : BitVec 6)
  /-- HVLD (R331). Loads lanes of an object's data through a handle. -/
  | hvld (h : Hdr) (d a : Fld) (imm : BitVec 6)
  /-- HVST (R331). Stores lanes into an object's data through a handle. -/
  | hvst (h : Hdr) (d a : Fld) (imm : BitVec 6)
  /-- HRD_XI (R331). Reads one element through a handle at a large offset, in the XI form. -/
  | hrdXi (h : Hdr) (d a : Fld) (imm : BitVec 26)
  /-- HWR_XI (R331). Writes one element through a handle at a large offset, in the XI form. -/
  | hwrXi (h : Hdr) (d a : Fld) (imm : BitVec 26)
  /-- HVLD_XI (R331). Loads lanes through a handle at a large offset, in the XI form. -/
  | hvldXi (h : Hdr) (d a : Fld) (imm : BitVec 26)
  /-- HVST_XI (R331). Stores lanes through a handle at a large offset, in the XI form. -/
  | hvstXi (h : Hdr) (d a : Fld) (imm : BitVec 26)
  /-- ALLOC (R330). Allocates a VALUE or BYTES object at the region's TOP from a header template. -/
  | alloc (h : Hdr) (d a b : Fld)
  /-- HMOV (R329). Writes the healed target of ha into hd. -/
  | hmov (h : Hdr) (d a : Fld)
  /-- HKIND (R329). Writes the KIND, SPK and PCNT of the final target header. -/
  | hkind (h : Hdr) (d a : Fld)
  /-- HEQ (R329). Sets a predicate when two healed handles name the same object. -/
  | heq (h : Hdr) (d a b : Fld)
  /-- PIN (R332). Increments PCNT of the target and returns its generic header address. -/
  | pin (h : Hdr) (d a : Fld)
  /-- UNPIN (R332). Decrements PCNT of the target as a release at .pkg. -/
  | unpin (h : Hdr) (a : Fld)
  /-- FORCE (R124). Demands a thunk's value: it returns a VALUE, waits on a blackhole, or claims and
  evaluates a THUNK. -/
  | force (h : Hdr) (d a : Fld)
  /-- FORCENB (R336). Returns the value without waiting or claiming, and reports through a predicate
  whether it was a VALUE. -/
  | forcenb (h : Hdr) (d a b : Fld)
  /-- DONE (R354). Contributes a status word for the epoch to the completion tree, as final or not. -/
  | done (h : Hdr) (final : Bool) (a : Fld)
  /-- SPARK (R132). Places a thunk in the core's Sparge queue and sets SPK. -/
  | spark (h : Hdr) (a : Fld)
  /-- UPD (R338). Writes a result into a thunk that the context holds as a blackhole, and wakes its
  waiters. -/
  | upd (h : Hdr) (a b : Fld)
  /-- EVAC (R339). Starts the evacuation plan of a region, or reports a refusal through the predicate. -/
  | evac (h : Hdr) (d a b : Fld)
  /-- SUSP (R334). Allocates a tile-operation thunk within quota, or evaluates it strictly. -/
  | susp (h : Hdr) (op : SuspOp) (d a b c : Fld) (fmt : BitVec 5) (rnd : Rnd) (sat : Bool) (lrows lcols : BitVec 3)
  /-- SUSPC (R334). Allocates a closure thunk within quota, or runs the closure strictly. -/
  | suspc (h : Hdr) (d a b c : Fld) (fmt : BitVec 5) (n : BitVec 2) (lrows lcols : BitVec 3)
  /-- SEND (R344). Sends a normal message and stalls until it is accepted. -/
  | send (h : Hdr) (a b : Fld)
  /-- SENDNB (R344). Makes one attempt to send a normal message and reports acceptance through a
  predicate. -/
  | sendnb (h : Hdr) (d a b : Fld)
  /-- SEND_RK (R344). Sends a ranked message and stalls until it is accepted. -/
  | sendRk (h : Hdr) (a b : Fld)
  /-- SENDNB_RK (R344). Makes one attempt to send a ranked message. -/
  | sendnbRk (h : Hdr) (d a b : Fld)
  /-- SENDC (R345). Sends a code message that carries a capability from the context's capability table. -/
  | sendc (h : Hdr) (d a b : Fld) (cap : BitVec 5)
  /-- RKTOP (R347). Reads one rank of a ranked store, with its count and its arrivals. -/
  | rktop (h : Hdr) (d a b : Fld)
  /-- RKCLR (R348). Empties a ranked store and sets its arrival count to 0. -/
  | rkclr (h : Hdr) (a : Fld)
  /-- PMTRET (R350). Returns an incoming shuttle slot to its sender as a release at .pkg. -/
  | pmtret (h : Hdr) (a : Fld)
  /-- PMTCNT (R350). Reads SHT.STAT into gd. -/
  | pmtcnt (h : Hdr) (d : Fld)
  /-- PMTSND (R349). Takes the lowest Held shuttle slot and pushes a copy into it. -/
  | pmtsnd (h : Hdr) (d a b : Fld)
  /-- TOKSND (R351). Makes one attempt to send a token message whose AUX is the token id. -/
  | toksnd (h : Hdr) (d a b : Fld)
  /-- ADMIT (R182). Admits the activation's token into an expert buffer, or classifies it, as one
  indivisible action. -/
  | admitTok (h : Hdr) (d b : Fld)
  /-- REFUSE (R183). Replies refused, or duplicate when the token was already admitted. -/
  | refuse (h : Hdr) (d a b : Fld)
  /-- KVH_RING (R353). Mixes a key and returns its ring point and home core. -/
  | kvhRing (h : Hdr) (d a : Fld)
  /-- KVH_LOC (R172). Probes the home table for a key and reports a hit or a miss. -/
  | kvhLoc (h : Hdr) (d a b : Fld)
  /-- BARINIT (R99). Binds a named barrier to the kernel and sets EXPECT. -/
  | barinit (h : Hdr) (a : Fld) (n : BitVec 6)
  /-- BARARV (R98). Arrives at a named barrier and returns GEN from before the arrival. -/
  | bararv (h : Hdr) (d : Fld) (n : BitVec 6)
  /-- BARWAIT (R356). Waits until the GEN of a named barrier differs from the token. -/
  | barwait (h : Hdr) (a : Fld) (n : BitVec 6)
  /-- BARTRY (R356). Sets a predicate when the GEN of a named barrier differs from the token. -/
  | bartry (h : Hdr) (d a : Fld) (n : BitVec 6)
  /-- BARARVW (R356). Arrives at a named barrier and waits out its generation. -/
  | bararvw (h : Hdr) (n : BitVec 6)
  /-- GBWAIT (R357). Waits until the GEN of a kernel-scope barrier differs from the token. -/
  | gbwait (h : Hdr) (a : Fld) (n : BitVec 2)
  /-- GBTRY (R357). Tests the GEN of a kernel-scope barrier against the token. -/
  | gbtry (h : Hdr) (d a : Fld) (n : BitVec 2)
  /-- GBARV (R357). Arrives at a kernel-scope barrier at level .cl, .stk or .pkg and returns GEN. -/
  | gbarv (h : Hdr) (lvl : GbLevel) (d : Fld) (n : BitVec 2)
  /-- MRPUSH (R363). Marks the TAIL tile of a matrix ring full. -/
  | mrpush (h : Hdr) (d a : Fld)
  /-- MRHEAD (R363). Reads the tile count, COUNT, TAIL and HEAD of a ring. -/
  | mrhead (h : Hdr) (d a : Fld)
  /-- MPOLL (R367). Reads the status of a held job and releases its id once the job has completed. -/
  | mpoll (h : Hdr) (d a b : Fld)
  /-- MWAIT (R367). Waits until a held job completes, then returns its status and releases its id. -/
  | mwait (h : Hdr) (d a : Fld)
  /-- MJOB (R365). Pushes a matrix job, stalling for room, and returns its id. -/
  | mjob (h : Hdr) (d a : Fld)
  /-- MJOBNB (R365). Makes one attempt to push a matrix job. -/
  | mjobnb (h : Hdr) (d a b : Fld)
  /-- MACLD (R367). Queues a load of an accumulator block from memory. -/
  | macld (h : Hdr) (d a b : Fld)
  /-- MACST (R367). Queues a store of an accumulator block to memory. -/
  | macst (h : Hdr) (d a b : Fld)
  /-- MCMD (R365). Sends a job command with a capability to another cluster's matrix engine. -/
  | mcmd (h : Hdr) (d a b : Fld) (cap : BitVec 5)
  /-- MRSET (R362). Sets or unsets one of the core's matrix rings from a descriptor. -/
  | mrset (h : Hdr) (r : BitVec 2) (imm : BitVec 32)
  /-- CPY (R370). Pushes a copy request, stalling while the FIFO is full. -/
  | cpy (h : Hdr) (d a : Fld)
  /-- CPYNB (R370). Makes one attempt to push a copy request. -/
  | cpynb (h : Hdr) (d a b : Fld)
  /-- CPPOLL (R371). Reads the status of a transfer event once it has occurred. -/
  | cppoll (h : Hdr) (d a b : Fld)
  /-- CPWAIT (R371). Waits until a transfer event occurs. -/
  | cpwait (h : Hdr) (d a : Fld)
  /-- HALO (R373). Pushes up to four byte runs to neighbouring clusters without stalling. -/
  | halo (h : Hdr) (d a : Fld)
  /-- HALOCNT (R373). Reads the halo counters and subtracts the fields of ga from them. -/
  | halocnt (h : Hdr) (d a : Fld)
  /-- FXFER (R374). Queues a strided fabric transfer named by a descriptor. -/
  | fxfer (h : Hdr) (d a b : Fld)
  /-- FXA2A (R374). Queues a transposing all-to-all named by a descriptor. -/
  | fxa2a (h : Hdr) (d a b : Fld)
  /-- VADD (R295). Adds FP32 lanes with one rounding. -/
  | vadd (h : Hdr) (bk : Block) (rnd : Rnd) (d a b : Fld)
  /-- VSUB (R295). Subtracts FP32 lanes with one rounding. -/
  | vsub (h : Hdr) (bk : Block) (rnd : Rnd) (d a b : Fld)
  /-- VMUL (R295). Multiplies FP32 lanes with one rounding. -/
  | vmul (h : Hdr) (bk : Block) (rnd : Rnd) (d a b : Fld)
  /-- VFMA (R295). Performs a fused multiply-add into vd with one rounding. -/
  | vfma (h : Hdr) (bk : Block) (rnd : Rnd) (d a b : Fld)
  /-- VCMP (R297). Compares lanes and writes predicate bits. -/
  | vcmp (h : Hdr) (c : Cond) (t : LaneT) (d a b : Fld)
  /-- VMIN (R298). Writes the lane minimum. -/
  | vmin (h : Hdr) (bk : Block) (t : LaneT) (d a b : Fld)
  /-- VMAX (R298). Writes the lane maximum. -/
  | vmax (h : Hdr) (bk : Block) (t : LaneT) (d a b : Fld)
  /-- VSEL (R298). Selects lanes from va or vb by predicate bits. -/
  | vsel (h : Hdr) (bk : Block) (d a b c : Fld)
  /-- VRED (R299). Reduces 16 lanes by add, min or max over the fixed tree. -/
  | vred (h : Hdr) (op : RedOp) (t : LaneT) (rnd : Rnd) (d a : Fld)
  /-- VDOT (R299). Reduces lane products over the fixed tree. -/
  | vdot (h : Hdr) (t : LaneT) (rnd : Rnd) (d a b : Fld)
  /-- VABS (R295). Clears the sign of each lane. -/
  | vabs (h : Hdr) (bk : Block) (d a : Fld)
  /-- VNEG (R295). Inverts the sign of each lane. -/
  | vneg (h : Hdr) (bk : Block) (d a : Fld)
  /-- VRCP (R296). Computes a correctly rounded reciprocal per lane. -/
  | vrcp (h : Hdr) (bk : Block) (rnd : Rnd) (d a : Fld)
  /-- VRSQ (R296). Computes a correctly rounded reciprocal square root per lane. -/
  | vrsq (h : Hdr) (bk : Block) (rnd : Rnd) (d a : Fld)
  /-- VSQRT (R296). Computes a correctly rounded square root per lane. -/
  | vsqrt (h : Hdr) (bk : Block) (rnd : Rnd) (d a : Fld)
  /-- VEXP2 (R296). Computes a correctly rounded 2^x per lane. -/
  | vexp2 (h : Hdr) (bk : Block) (rnd : Rnd) (d a : Fld)
  /-- VLOG2 (R296). Computes a correctly rounded log2 per lane. -/
  | vlog2 (h : Hdr) (bk : Block) (rnd : Rnd) (d a : Fld)
  /-- VMOV (R302). Copies lanes. -/
  | vmov (h : Hdr) (bk : Block) (d a : Fld)
  /-- VBCAST (R302). Broadcasts ga[31:0] to the active lanes. -/
  | vbcast (h : Hdr) (bk : Block) (d a : Fld)
  /-- VEXT (R302). Extracts one lane into gd. -/
  | vext (h : Hdr) (d a b : Fld)
  /-- VPERM (R302). Permutes lanes by the indices in vb. -/
  | vperm (h : Hdr) (bk : Block) (d a b : Fld)
  /-- VROT (R302). Rotates lanes by gb[3:0]. -/
  | vrot (h : Hdr) (bk : Block) (d a b : Fld)
  /-- VIADD (R300). Adds INT32 lanes, wrapping or saturating. -/
  | viadd (h : Hdr) (bk : Block) (sat : Bool) (d a b : Fld)
  /-- VISUB (R300). Subtracts INT32 lanes, wrapping or saturating. -/
  | visub (h : Hdr) (bk : Block) (sat : Bool) (d a b : Fld)
  /-- VIMUL (R300). Multiplies INT32 lanes, wrapping or saturating. -/
  | vimul (h : Hdr) (bk : Block) (sat : Bool) (d a b : Fld)
  /-- VIMAD (R300). Multiplies INT32 lanes and adds into vd. -/
  | vimad (h : Hdr) (bk : Block) (sat : Bool) (d a b : Fld)
  /-- VAND (R301). Writes the bitwise AND of lanes. -/
  | vand (h : Hdr) (bk : Block) (d a b : Fld)
  /-- VOR (R301). Writes the bitwise OR of lanes. -/
  | vor (h : Hdr) (bk : Block) (d a b : Fld)
  /-- VXOR (R301). Writes the bitwise XOR of lanes. -/
  | vxor (h : Hdr) (bk : Block) (d a b : Fld)
  /-- VSHL (R301). Shifts lanes left. -/
  | vshl (h : Hdr) (bk : Block) (d a b : Fld)
  /-- VSHR (R301). Shifts lanes right logically. -/
  | vshr (h : Hdr) (bk : Block) (d a b : Fld)
  /-- VFSHL (R301). Funnel-shifts lane pairs left. -/
  | vfshl (h : Hdr) (bk : Block) (d a b c : Fld)
  /-- VFSHR (R301). Funnel-shifts lane pairs right. -/
  | vfshr (h : Hdr) (bk : Block) (d a b c : Fld)
  /-- VPOPC (R301). Counts the 1 bits of each lane. -/
  | vpopc (h : Hdr) (bk : Block) (d a : Fld)
  /-- VCVT (R303). Converts each lane between formats with one rounding. -/
  | vcvt (h : Hdr) (bk : Block) (rnd : Rnd) (sat : Bool) (fmt src : BitVec 5) (d a : Fld)
  /-- VPACK (R304). Converts lanes and packs them into part q of vd. -/
  | vpack (h : Hdr) (bk : Block) (rnd : Rnd) (sat : Bool) (fmt : BitVec 5) (q : BitVec 2) (d a : Fld)
  /-- VUNPK (R304). Unpacks part q of va into 16 lanes exactly. -/
  | vunpk (h : Hdr) (bk : Block) (fmt : BitVec 5) (q : BitVec 2) (d a : Fld)
  /-- VSMAX (R306). Folds one score and its value row into a running softmax (m, l, o). -/
  | vsmax (h : Hdr) (rnd : Rnd) (d a b c : Fld)
  /-- VSMRG (R307). Merges two softmax partials. -/
  | vsmrg (h : Hdr) (rnd : Rnd) (d a b c : Fld)
  /-- VSCAL (R295). Scales each lane by 2^n with one rounding. -/
  | vscal (h : Hdr) (bk : Block) (rnd : Rnd) (d a b : Fld)
  /-- VLOP3 (R301). Applies a three-input truth table to each lane. -/
  | vlop3 (h : Hdr) (d a b c : Fld) (tt : BitVec 8)
  /-- RESULT_WRITEBACK (R235). A variable-latency result arrives and is written, which clears the
  interlock on its register. Its data: core in unit, ctx in sub. -/
  | resultWriteback
  /-- CORE_TABLE_WRITE (R21). An owner write of logical-to-physical core-table entries, checked for HOLD,
  busy contexts and conflicts. Its data: who, die in unit, slot in sub, v in w0. -/
  | coreTableWrite
  /-- HELD_MESSAGE_DELIVERY (R21). A message held in the HOLD ingress queue leaves it for the core and is
  matched. Its data: core in unit. -/
  | heldMessageDelivery
  /-- SPMOVE_START (R22). A write of GO to DIE.SPMOVE checks its conditions and starts moving a core's
  state to a spare. Its data: who, die in unit, v in w0. -/
  | spmoveStart
  /-- SPMOVE_DONE (R22). The spare move completes with STAT OK, or with FAULT. Its data: die in unit. -/
  | spmoveDone
  /-- MESSAGE_ACCEPT (R69). A message is accepted at its receiving core, takes a slot or a ranked place,
  and is matched to a handler-table entry. Its data: m in msg. -/
  | messageAccept
  /-- MESSAGE_BIND (R57). The arbiter binds one pending, enabled message to the lowest Dormant context and
  sets its starting state. Its data: core in unit. -/
  | messageBind
  /-- PRIORITY_PROMOTION (R61). A message pending for 4,096 cycles at one level is promoted one level. Its
  data: core in unit. -/
  | priorityPromotion
  /-- WAKE (R60). A wake reaches a context: a Waiting one becomes Ready, and a saving or saved one gets
  its pending-wake bit. Its data: core in unit, ctx in sub. -/
  | wake
  /-- DEQUE_BIND (R260). The newest record of the local deque is bound, making a FORK child or JOIN
  continuation Ready. Its data: core in unit. -/
  | dequeBind
  /-- PROBE_SEND (R79). A context Waiting for 4,096 cycles on FORCE or a barrier sends a wait-chain probe.
  Its data: core in unit, ctx in sub. -/
  | probeSend
  /-- PROBE_FORWARD (R79). A probe reaches a context, where it is forwarded, discarded, or found to have
  closed a cycle. Its data: p in probe. -/
  | probeForward
  /-- VICTIM_NOTICE (R80). A victim notice moves a Waiting context to Trapped and faults any barrier it
  waited on. Its data: core in unit, ctx in sub, since in num, force in flag. -/
  | victimNotice
  /-- TRAP_MODE_ENTRY (R218). In the cycle after a trap, the context enters trap mode at TRAP.VEC, or
  stays Trapped and a notice is sent. Its data: core in unit, ctx in sub. -/
  | trapModeEntry
  /-- SAVE_COMPLETE (R64). The context-save engine finishes writing an image, and the context becomes
  Saved or Dormant. Its data: core in unit, ctx in sub. -/
  | saveComplete
  /-- RESTORE_COMPLETE (R62). The context-save engine finishes restoring an image, and the context enters
  its recorded state, or Ready. Its data: core in unit, ctx in sub. -/
  | restoreComplete
  /-- CONTEXT_RESUME (R219). A management write of Resume to a context command register resumes a trapped
  activation. Its data: who, core in unit, ctx in sub. -/
  | contextResume
  /-- CONTEXT_RESTART (R219). A management write of Restart re-initialises a trapped activation from its
  message. Its data: who, core in unit, ctx in sub. -/
  | contextRestart
  /-- CONTEXT_ABORT (R219). A management write of Abort makes a trapped context Dormant and fails its
  blackholes. Its data: who, core in unit, ctx in sub. -/
  | contextAbort
  /-- KERNEL_LOAD (R84). The LOAD command checks the placement table and assigns contexts, entries,
  regions and segments. Its data: who, part in unit, cmd. -/
  | kernelLoad
  /-- KERNEL_LAUNCH (R85). The LAUNCH command sends one launch message to each core that a launch tag
  serves. Its data: who, part in unit, cmd. -/
  | kernelLaunch
  /-- KERNEL_ABORT (R82). The ABORT command returns a kernel's resources without completion. Its data:
  who, part in unit, cmd. -/
  | kernelAbort
  /-- KERNEL_PREEMPT (R223). The PREEMPTK command notifies the kernel's contexts and then saves the
  kernel. Its data: who, part in unit, cmd. -/
  | kernelPreempt
  /-- PREEMPT_GRACE_EXPIRE (R223). The grace count of PREEMPTK expires and saving begins. Its data: kid in
  unit. -/
  | preemptGraceExpire
  /-- KERNEL_SAVE_START (R223). Every notified context has left trap mode or ended, so saving of the
  kernel begins. Its data: kid in unit. -/
  | kernelSaveStart
  /-- KERNEL_SAVE_DONE (R223). The kernel's images, barriers, regions and matrix state are written, and
  the kernel becomes Preempted. Its data: kid in unit. -/
  | kernelSaveDone
  /-- KERNEL_RESUME (R223). The RESUME command restores a Preempted kernel and returns it to Running. Its
  data: who, part in unit, cmd. -/
  | kernelResume
  /-- KERNEL_DRAIN_DONE (R82). A Completing kernel's contexts are all Dormant and its slots free, so it
  goes to Done and its resources are returned. Its data: kid in unit. -/
  | kernelDrainDone
  /-- TREE_COMBINE (R87). A completion-tree node receives a child's combined message and forwards once all
  of its own inputs are present. Its data: kid in unit, node in sub. -/
  | treeCombine
  /-- KERNEL_BARRIER_COMBINE (R100). A kernel-scope arrival reaches the combining core, which sends the
  release once all arrivals of the generation are in. Its data: kid in unit, bar in sub, core in num. -/
  | kernelBarrierCombine
  /-- KERNEL_BARRIER_RELEASE (R100). A release reaches a member core, and its GEN increments. Its data:
  kid in unit, bar in sub, core in num. -/
  | kernelBarrierRelease
  /-- KILN_ACTIVATE (R108). The Kiln ACTIVATE command makes a Free region Active with COLOR 1 and TOP 0.
  Its data: die in unit, cmd. -/
  | kilnActivate
  /-- KILN_MARK (R110). The Kiln MARK command starts marking a region from a root list. Its data: die in
  unit, cmd. -/
  | kilnMark
  /-- KILN_EVAC (R111). The Kiln EVAC command fixes the evacuation plan of a region. Its data: die in
  unit, cmd. -/
  | kilnEvac
  /-- KILN_RELEASE (R114). The Kiln RELEASE command discards the forwarding table and returns an Evacuated
  region to Active. Its data: die in unit, cmd. -/
  | kilnRelease
  /-- KILN_FREE (R108). The Kiln FREE command makes a region Free when no object is pinned. Its data: die
  in unit, cmd. -/
  | kilnFree
  /-- MARK_DONE (R110). A mark ends, setting LIVEBYTES and SUSPUSED and sending the completion. Its data:
  die in unit. -/
  | markDone
  /-- KILN_SWEEP (R113). The Kiln itself claims and copies a planned object, and reports FAULT when the
  sweep leaves objects PLANNED. Its data: die in unit, region in sub. -/
  | kilnSweep
  /-- OBJECT_COPY_DONE (R113). The copy of a claimed object completes, MOVED is installed and the old
  header becomes a STUB. Its data: region in unit, granule in sub. -/
  | objectCopyDone
  /-- SPARK_RUN (R132). An idle core takes a spark from its Sparge queue and evaluates, abandons or
  fizzles it. Its data: core in unit. -/
  | sparkRun
  /-- MATMUL_EVAL_DONE (R125). A MATMUL thunk evaluation on the matrix engine completes and its flags are
  ORed in. Its data: core in unit, ctx in sub. -/
  | matmulEvalDone
  /-- THUNK_EVAL_END (R126). A built-in evaluation ends: the result is written, the header is released and
  the waiters are woken. Its data: core in unit, ctx in sub. -/
  | thunkEvalEnd
  /-- WALK_DONE (R147). A page-table walk returns a leaf, or a fault cause with its level. Its data: core
  in unit, ctx in sub, va in w0. -/
  | walkDone
  /-- PRI_RESPONSE (R149). A PRI page response arrives: Success retranslates, and any other response
  faults HOST_TRANSLATION. Its data: core in unit, ctx in sub, success in flag. -/
  | priResponse
  /-- ATS_INVALIDATE (R149). An ATS invalidation from the host removes cached host translations. Its data:
  sid in unit, va in sub, pages in num. -/
  | atsInvalidate
  /-- MIGRATION_COMMAND (R155). A migration command is taken, checked, and starts with MIG set by CAS. Its
  data: die in unit, cmd. -/
  | migrationCommand
  /-- MIGRATION_STREAM_DONE (R156). The last line is copied: the leaf is rewritten by CAS, the
  invalidation is started and the queue is redirected. Its data: die in unit, idx in sub. -/
  | migrationStreamDone
  /-- REDIRECT_NOTICE (R156). The new home receives the redirect notice and applies the queued requests in
  order. Its data: die in unit, idx in sub. -/
  | redirectNotice
  /-- STALE_REQUEST_FORWARD (R156). The old home forwards a request that came through a stale leaf and
  tells the requester to drop that leaf. Its data: core in unit, va in w0. -/
  | staleRequestForward
  /-- MIGRATION_INVALIDATION_DONE (R156). The invalidation completes, the page becomes Mapped and the
  completion message is sent. Its data: die in unit, idx in sub. -/
  | migrationInvalidationDone
  /-- LINK_TRAIN (R158). The TRAIN command moves a Down port to Training. Its data: who, port in unit. -/
  | linkTrain
  /-- LINK_QUIESCE (R158). The QUIESCE command stops new outgoing requests on a port. Its data: who, port
  in unit. -/
  | linkQuiesce
  /-- LINK_RESUME (R158). The RESUME command returns a Quiesced port to its earlier state. Its data: who,
  port in unit. -/
  | linkResume
  /-- LINK_ISOLATE (R158). The ISOLATE command is a failure that isolates a port. Its data: who, port in
  unit. -/
  | linkIsolate
  /-- LINK_DOWN (R158). The DOWN command moves an Isolated port to Down. Its data: who, port in unit. -/
  | linkDown
  /-- TRAINING_DONE (R158). Training ends with the port Up at full width or Degraded at reduced width. Its
  data: port in unit, lanes in sub. -/
  | trainingDone
  /-- TRAINING_TIMEOUT (R158). Training has not succeeded within 100 ms, and the port returns to Down. Its
  data: port in unit. -/
  | trainingTimeout
  /-- LINK_FAILURE (R158). Loss of signal or lock, or exhausted replay, isolates the port. Its data: port
  in unit, cause in num. -/
  | linkFailure
  /-- REPLAY_THRESHOLD (R158). The replay rate exceeds RTHR, and an Up port becomes Degraded. Its data:
  port in unit. -/
  | replayThreshold
  /-- LINK_REQUEST_TIMEOUT (R162). An outgoing request times out: the port is isolated and every other
  outstanding request aborts. Its data: port in unit, req in sub. -/
  | linkRequestTimeout
  /-- LINK_RESPONSE (R162). A response to an outgoing link request arrives and completes it. Its data:
  port in unit, req in sub, status in num, data. -/
  | linkResponse
  /-- INCOMING_REQUEST (R161). An incoming UALink request is resolved as a device message or a translated
  memory access. Its data: port in unit, r in req. -/
  | incomingRequest
  /-- WINDOW_OVERRUN (R164). A port cannot meet the visibility bound, so it sets OVR, sends an event and
  lifts the bound. Its data: port in unit. -/
  | windowOverrun
  /-- HOST_REQUEST (R201). A host-originated request arrives through the endpoint and is performed as a
  plain access. Its data: r in req. -/
  | hostRequest
  /-- STORAGE_DMA (R165). An SSD DMA request arrives at the storage port and is translated in its space.
  Its data: r in req. -/
  | storageDma
  /-- FABRIC_COMPLETION (R374). A fabric command completes, STAT is written as a release and the event is
  sent. Its data: die in unit. -/
  | fabricCompletion
  /-- KV_RING_INSTALL (R169). A write of KV.RING starts copying and checking a ring table into the die's
  ring store. Its data: who, die in unit, v in w0. -/
  | kvRingInstall
  /-- KV_RING_LOAD_DONE (R169). The ring table load ends, installing the new table or keeping the old one
  on FORM. Its data: die in unit. -/
  | kvRingLoadDone
  /-- SHUTTLE_CONFIGURE (R175). A write of SHT.OUT sets the channel and HELD, or is refused BUSY. Its
  data: who, die in unit, v in w0. -/
  | shuttleConfigure
  /-- SHUTTLE_DELIVERY (R176). At VISIBLE(.pkg), the pair die marks the slot Full and sends the delivery
  message. Its data: die in unit, slot in sub. -/
  | shuttleDelivery
  /-- MATRIX_JOB_START (R366). A queued job starts its MAC phase once its cluster holds a gust token. Its
  data: cluster in unit. -/
  | matrixJobStart
  /-- RING_TILE_TIMEOUT (R366). A job waits 1,048,576 cycles for a tile and completes with RING_STATE. Its
  data: cluster in unit. -/
  | ringTileTimeout
  /-- MATRIX_JOB_DONE (R366). A job retires: the result is converted and written, the tiles are popped and
  the status and event are produced. Its data: cluster in unit. -/
  | matrixJobDone
  /-- MCMD_ARRIVAL (R365). An MCMD command reaches its target engine and is queued, or discarded when its
  capability differs. Its data: cluster in unit, m in mcmd. -/
  | mcmdArrival
  /-- COPY_START (R369). A copy starts and reads its parameter block once. Its data: core in unit. -/
  | copyStart
  /-- COPY_SOURCE_FREE (R369). Every source read of a copy is done, and the SOURCE_FREE event occurs. Its
  data: core in unit. -/
  | copySourceFree
  /-- COPY_VISIBLE (R369). Every destination write is visible at VSCOPE, and the VISIBLE event occurs. Its
  data: core in unit. -/
  | copyVisible
  /-- HALO_ARRIVAL (R373). A halo run is written at the receiver, and the counter for its side increments
  as a release. Its data: core in unit, side in sub, addr in num, data. -/
  | haloArrival
  /-- MGMT_REQUEST (R409). A trap-mode SEND to tag 0xFFF is performed by Brewhouse on the partition's
  registers and is answered under MTAG. Its data: core in unit, ctx in sub, w0, w1. -/
  | mgmtRequest
  /-- ECC_CORRECTED (R224). A corrected SRAM error is counted in ERR.LOG. Its data: die in unit, unit code
  in w0, core in sub. -/
  | eccCorrected
  /-- ECC_UNCORRECTABLE (R224). An uncorrectable error poisons its 64 bits and is counted. Its data: die
  in unit, unit code in w0, core in sub, physical address in num. -/
  | eccUncorrectable
  /-- WATCHDOG_EXPIRE (R225). An activation exceeds 2^LIM Ready or Running cycles and traps WATCHDOG. Its
  data: core in unit, ctx in sub. -/
  | watchdogExpire
  /-- SYS_WDOG_WRITE (R225). A management write of SYS.WDOG sets LIM, or answers FORM for a value out of
  range. Its data: who, core in unit, v in w0. -/
  | sysWdogWrite
  /-- SLEEP_EXPIRE (R264). A SLEEP count expires and the context resumes with status 0. Its data: core in
  unit, ctx in sub. -/
  | sleepExpire
  /-- THERMAL_TRIP (R412). A sensor exceeds TLIM and the die's three islands stop. Its data: die in unit. -/
  | thermalTrip
  /-- SUPPLY_TRIP (R412). A supply leaves its band and the die stops. Its data: die in unit. -/
  | supplyTrip
  /-- PACKAGE_RESET (R405). A package reset runs ROM with every island other than 28–31 off. -/
  | packageReset
  /-- FIRMWARE_VERIFY (R405). ROM verifies the firmware signature and version, accepting it or failing the
  boot. Its data: image in data. -/
  | firmwareVerify
  /-- BREWHOUSE_GO (R406). A write of BH.GO makes Brewhouse check, load and launch each partition's image.
  Its data: who, v in w0. -/
  | brewhouseGo
  /-- ATTESTATION_SIGN (R407). A write of ATT.CTL := 1 signs an attestation report of the nonce into
  ATT.BUF. Its data: who, v in w0. -/
  | attestationSign
  /-- OWNERSHIP_CLAIM (R410). A write of OWN.CLAIM claims, hands over or releases ownership, or answers
  CONFLICT. Its data: who, v in w0. -/
  | ownershipClaim
  /-- ISLAND_WRITE (R402). A write of ISL.n sets FREQ, TLIM or STATE, or answers FORM or BUSY. Its data:
  who, n in unit, v in w0. -/
  | islandWrite
  /-- GUST_TOKENS_WRITE (R403). A write of PWR.GUST.d adds tokens at once or withdraws them as jobs
  retire. Its data: who, die in unit, v in w0. -/
  | gustTokensWrite
  /-- SPACE_LOAD (R142). A write of the die's space register applies MMU.SPACE and HEAP.RTBASE to every
  unit of the die. Its data: who, die in unit, v in w0. -/
  | spaceLoad
  /-- MGMT_VDM_REQUEST (R411). A PCIe vendor-defined request carries a management register access and
  returns data and status. Its data: write in flag, register address in w0, value in w1. -/
  | mgmtVdmRequest
  /-- I3C_TRANSFER (R411). An I3C private transfer carries a management register access. Its data: device
  address in num, write in flag, register address in w0, value in w1. -/
  | i3cTransfer
  /-- MGMT_REGISTER_WRITE (R411). A write of a management register that has no row of its own, checked for
  ownership and recorded in MGMT.STAT. Its data: who, register address in w0, value in w1. -/
  | mgmtRegisterWrite
  /-- TLBINV_COMPLETE (R272). A TLBINV completes once the walks begun before it have finished, and the
  issuing context, stalled until then, may issue again. Its data: core in unit, ctx in sub. -/
  | tlbinvComplete
  /-- ILLEGAL_INSTRUCTION (R242). Issue of a word in a reserved slot or SUB, or with a reserved field,
  traps ILLEGAL_INSTRUCTION, including the all-zero word. Its data: w0, w1. -/
  | illegalInstruction
  /-- INSTRUCTION_FETCH_FAULT (R243). A sequential fetch that faults in translation, or that runs past the
  installed code segment or a code payload, traps before any instruction is decoded. Its data: cause
  in num, level in sub, address in w0. -/
  | instructionFetchFault
deriving DecidableEq, Repr

end Sys2Proof
end

