-- ==== Sys2Proof/Machine/State.lean ====
section
/-!
DEFINITION. Sys2Proof/Machine/State.lean: the state of the whole package, as plain data, and the machine after reset.
Tables (FMap) hold what is there in numbers: an unlisted core, die, context or register is the default of its type,
which is its reset value. The numbers of the assumption log stand beside what the spec gives no value for.
-/

namespace Sys2Proof.Machine

/-! ### One context (R56 to R64) -/

/-- The nine states of a context (R56). -/
inductive CtxState
  | free | dormant | ready | running | waiting | trapped | saving | saved | restoring
deriving DecidableEq, Repr

/-- CTX.ACT without LMASK (R58): origin core, key, level, message kind and handler-table entry. -/
structure Act where
  orig  : Nat := 0
  key   : BitVec 16 := 0
  prio  : BitVec 2 := 0
  kind  : BitVec 2 := 0
  entry : Nat := 0
deriving DecidableEq, Repr

/-- One active hardware loop (R254). -/
structure Loop where
  start : Word
  exit  : Word
  rem   : Nat
deriving DecidableEq, Repr

/-- A repeat frame (R237, R258): what RPT gave, the captured instructions with their addresses, and where it is.
Capture goes on while `replay` is 0; a replay executes entry `pos`. -/
structure Frame where
  count  : Nat
  stride : Int
  len    : Nat
  caps   : List (Word × Instr)
  replay : Nat
  pos    : Nat
deriving DecidableEq, Repr

/-- What entering trap mode sets aside (R218, R232, R237, R256). -/
structure Aside where
  hist  : List Vec
  histEcc : List (Nat × Nat) := []
  loops : List Loop
  frame : Option Frame
deriving DecidableEq, Repr

/-- A fixed-latency write that a reader may still meet early (R235): the register, the counted position from which the
new value is seen, and the value before it. -/
structure Pend where
  cls     : Nat
  idx     : Nat
  readyAt : Nat
  old     : Vec
deriving DecidableEq, Repr

/-- A thunk that the context has claimed (R124, R136): its handle, the word 1 it had as a THUNK, whether UPD has written it
(R138), and, once the closure is called, the return address and the loops set aside (R253, R256). -/
structure Claim where
  handle  : Word
  op      : Word
  updated : Bool := false
  retPc   : Option Word := none
  loops   : List Loop := []
deriving DecidableEq, Repr

/-- The strict fallback of a SUSP or SUSPC (R334): the header and the operation its thunk would have had, the code offset,
the arguments and the region, and a closure's return address and loops. -/
structure Strict where
  word0  : Word
  op     : Word
  code   : Word
  args   : List Word
  region : Nat
  retPc  : Option Word := none
  loops  : List Loop := []
deriving DecidableEq, Repr

/-- What a context has under evaluation, the innermost first: the force chain (R124, R136) is its `claim`s; a `demand` is
a FORCE, SUSP or SUSPC that has begun, at its address, with the object it wants, whether a closure runs for it now, and the handle
registers that it heals when it completes or calls a closure, each with its old and its new handle (R116, R326); a `strict` is the
fallback of the demand below it. -/
inductive Chain
  | claim (c : Claim)
  | demand (pc root : Word) (called : Bool) (heals : List (Fld × Word × Word))
  | strict (x : Strict)
deriving DecidableEq, Repr

/-- Why a context is Waiting (R56): a handle whose object another context evaluates, a generation of a named or of a
kernel-scope barrier, a job, an event of a transfer, or a time. `dst` is the destination field of the instruction. -/
inductive WaitKind
  | force (handle : Word)
  | barrier (n : Nat) (token : BitVec 16)
  | kbarrier (n : Nat) (token : BitVec 16)
  | job (id : Nat) (dst : Fld)
  | copy (id : Nat) (dst : Fld)
  | sleep (until_ : Nat) (dst : Fld)
deriving DecidableEq, Repr

/-- A wait, the cycle it began (R79), and the header of the instruction that waits, which completes at the wake. -/
structure Wait where
  kind  : WaitKind
  since : Nat
  h     : Hdr
deriving DecidableEq, Repr

/-- What the answer to an off-package request becomes (R162, R313): a scalar result of `n` bytes, zero- or sign-extended;
nothing, for a store; the acceptance of a message sent to a peer (R344); one part of an instruction that asks for several and issues
again; or an element of a VSCAT, whose progress it is (R153, R317). -/
inductive Answer
  | scalar (n : Nat) (signed : Bool)
  | nothing
  | sent (nb : Bool)
  | element
  | progress (gprog : Word)
deriving DecidableEq, Repr

/-- A part of an access of several: element `k` at an address in the package, with its physical bytes while the action that checked them
lasts, or the request that asks a port for it. -/
inductive Part
  | here (k va : Nat) (pas : List Nat)
  | away (k port addr : Nat) (op : ExtOp)
deriving DecidableEq, Repr

/-- The parts of an access that goes beyond a port (R314, R315), all checked before the first was performed: those still to be
performed, in their order; what has been read, by part; and the flags raised. -/
structure Parts where
  todo  : List Part
  got   : FMap (List Byte)
  flags : BitVec 5
deriving DecidableEq, Repr

/-- The instruction that waits for an answer: its header, length and destination field, TRAP.CAUSE.ACC of its access (R217), and
whether it is an irrevocable effect (R221). -/
structure Waiter where
  h   : Hdr
  len : Nat
  d   : Fld
  acc : Nat
  ans : Answer
  eff : Bool := false
deriving DecidableEq, Repr

/-- A request for a page as it reached the home of a frame (R156): the space and page, and the leaf that gave it the frame, with
its level. -/
structure Passage where
  sid   : Nat
  page  : Nat
  level : Nat
  pte   : Word
deriving DecidableEq, Repr

/-- Why a Ready context is skipped by issue selection until an event clears it (R56, R113, R149, R156, R162, R272). `claimer`
is the handle of the access by which this context made the claim of the object that is copied; `frame` is the source frame of the
migration that queues the request. -/
inductive Stall
  | link (port req : Nat) (w : Waiter)
  | result (w : Waiter) (data : List Byte)
  | copy (region granule : Nat) (claimer : Option Word)
  | pri (req : Nat) (acc : Nat)
  | tlbinv
  | eval
  | migration (frame : Nat) (p : Passage)
  | save (h : Hdr) (d : Fld)
deriving DecidableEq, Repr

/-- A save or restore under way, or held until the context leaves trap mode (R222, R271): the context that asked, the
image's address and whether it is a virtual one, the state to return to. `ship` is the target of a home-execute shipping,
`acc`, `level` and `addr` the fault that ships (R63). -/
structure SaveReq where
  asker : Option CtxId := none
  image : Nat
  virt  : Bool := false
  prior : CtxState := .ready
  ship  : Option CtxId := none
  acc   : Nat := 0
  level : Nat := 0
  addr  : Word := 0
deriving DecidableEq, Repr

/-- A context (R56 to R64, R217). `start` keeps the header that its activation was bound with, for a Restart, and `startEcc`
its poisoned words; `gath` keeps what a VGATH that stalls has loaded for a discard; `ecc` names the poisoned bits of its
registers by class, number and 64-bit piece, `retry` is the cycle in which the timeout of a SEND that a peer has answered busy
expires (R344), and `histEcc` names those of its distance history by entry and piece (R224; log entry 48); `full` says that it is stalled on a full FIFO (R56).
Defaults are the values after package reset, zero for a register to which the spec gives none (DESIGN CHOICE, log entry 6);
binding writes those of R57. -/
structure Context where
  st          : CtxState := .free
  kernel      : Option Nat := none
  pc          : Word := 0
  g           : FMap Word := []
  v           : FMap Vec := []
  h           : FMap Word := []
  p           : FMap Mask := []
  inf         : Bool := true
  rm          : BitVec 2 := 0
  fflags      : BitVec 5 := 0
  schk        : Bool := true
  fdepthLim   : BitVec 16 := 4096
  fspill      : Word := 0
  gprog       : Word := 0
  lmask       : Mask := 0xFFFF
  act         : Act := {}
  loops       : List Loop := []
  frame       : Option Frame := none
  hist        : List Vec := []
  histEcc     : List (Nat × Nat) := []
  aside       : Option Aside := none
  trapMode    : Bool := false
  trapCause   : Word := 0
  trapPc      : Word := 0
  trapAddr    : Word := 0
  trapObj     : Word := 0
  cpyXid      : Word := 0
  win         : FMap Word := []
  chain       : List Chain := []
  effects     : Bool := false
  slot        : Option Nat := none
  pend        : List Pend := []
  dist        : Nat := 0
  notBefore   : Nat := 0
  yieldFor    : List Nat := []
  ir          : Option Instr := none
  replies     : List (List Byte) := []
  parts       : Option Parts := none
  retry       : Option Nat := none
  gath        : Vec := 0
  wait        : Option Wait := none
  stall       : Option Stall := none
  pendingWake : Bool := false
  saveReq     : Option SaveReq := none
  heldReqs    : List SaveReq := []
  jobs        : List Nat := []
  waiter      : Option CtxId := none
  forkChild   : Bool := false
  continued   : Bool := false
  reserved    : Bool := false
  noticed     : Bool := false
  busy        : Nat := 0
  image       : Option (Nat × Bool) := none
  start       : Word × Word := (0, 0)
  startEcc    : List (Nat × Nat × Nat) := []
  ecc         : List (Nat × Nat × Nat) := []
  full        : Bool := false
deriving DecidableEq, Repr

/-! ### One core (R14, R22) -/

/-- An inbox slot (R71): the message, when it was accepted, the handler-table entry and kernel it belongs to, its level
and when it was last promoted (R61), whether its activation has been bound, and which of its 64 bits are poisoned (R224): 0
and 1 are the header's words, and from 2 on the payload's. -/
structure Slot where
  msg      : Msg
  arrival  : Nat
  level    : BitVec 2
  since    : Nat
  entry    : Nat
  kernel   : Nat
  bound    : Bool
  ecc      : List Nat := []
deriving DecidableEq, Repr

/-- A message of a ranked store (R75, R76); `ecc` names its poisoned words as in `Slot` (R224). -/
structure Ranked where
  w0      : Word
  w1      : Word
  payload : List Byte
  ekey    : BitVec 16
  order   : Nat
  ecc     : List Nat := []
deriving DecidableEq, Repr

/-- A handler-table entry (R68, R70): its register image without EN and PEND, its kernel, the two bits, and for a ranked
entry the store, the arrivals since the last RKCLR, those of the cycle in which the last came with that cycle (R77), whether it has
fired, and the arrival cycle and level of R61. -/
structure TagEnt where
  word    : Word := 2
  kernel  : Nat := 0
  en      : Bool := false
  pend    : Bool := false
  store   : List Ranked := []
  count   : Nat := 0
  orders  : Nat := 0
  recent  : List (Nat × Msg) := []
  fired   : Bool := false
  arrival : Nat := 0
  level   : BitVec 2 := 0
  since   : Nat := 0
deriving DecidableEq, Repr

/-- A named barrier BAR.N.n (R95): its register fields and the kernel that bound it. -/
structure Bar where
  expect : BitVec 16 := 0
  arr    : BitVec 16 := 0
  gen    : BitVec 16 := 0
  amask  : BitVec 8 := 0
  state  : Nat := 0
  kernel : Option Nat := none
deriving DecidableEq, Repr

/-- A kernel-scope barrier BAR.G.n as one core sees it (R100): GEN, ARV with the level of that arrival and its place among the
outstanding ones (R357), whether a release that answers it is under way, and STATE as LOAD or the last release left it. -/
structure GBar where
  gen   : BitVec 16 := 0
  arv   : Bool := false
  lvl   : Nat := 0
  order : Nat := 0
  due   : Bool := false
  state : Nat := 1
deriving DecidableEq, Repr

/-- What a core holds for one kernel: SYS.GRP (R93), BAR.G.0 to 3 (R100). -/
structure KView where
  grp  : Word := 0
  gbar : FMap GBar := []
deriving DecidableEq, Repr

/-- A record of the local deque (R260): the reserved context, or the continuation of a JOIN. -/
structure DequeRec where
  ctx  : Nat
  join : Bool
deriving DecidableEq, Repr

/-- Who pushed an entry of the copy FIFO (R370): CPY or CPYNB, HALO, or PMTSND with its shuttle slot. -/
inductive CopyKind
  | cpy
  | halo
  | shuttle (slot : Nat)
deriving DecidableEq, Repr

/-- A copy in the FIFO or under way (R369, R370, R373): its words, what was captured at the push, the two words of its
parameter block, the status so far, and how far it is: queued, started, or with SOURCE_FREE past. `runs` are the halo runs
that have not arrived. -/
structure CopyReq where
  kind   : CopyKind
  words  : List Word
  id     : Nat
  ctx    : Nat
  inf    : Bool
  par    : List Word
  status : Word
  stage  : Nat
  runs   : Nat
deriving DecidableEq, Repr

/-- The events of a transfer, for CPPOLL and CPWAIT (R371). -/
structure CopyStat where
  id     : Nat
  ctx    : Nat
  free   : Option Word
  vis    : Option Word
deriving DecidableEq, Repr

/-- A translation-cache leaf (R147), and whether it is poisoned (R224). -/
structure TlbEnt where
  sid  : Nat
  page : Nat
  bits : Nat
  pte  : Word
  ecc  : Bool := false
deriving DecidableEq, Repr

/-- A core. -/
structure Core where
  ctxs    : FMap Context := []
  tags    : FMap TagEnt := []
  inbox   : FMap Slot := []
  hold    : List Msg := []
  drop    : Word := 0
  nanCnt  : BitVec 32 := 0
  ccap    : Word := 0
  caps    : FMap Word := []
  bars    : FMap Bar := []
  views   : FMap KView := []
  deque   : List DequeRec := []
  sparge  : List Word := []
  spk     : Word := 0
  htbase  : Word := 0
  expBase : Word := 0
  trapVec : Word := 0
  wdog    : BitVec 6 := 0
  copies  : List CopyReq := []
  copySeq : Nat := 0
  copyLog : List CopyStat := []
  haloCnt : FMap (BitVec 16) := []
  tlb     : List TlbEnt := []
  rr      : Nat := 7
  ceTimes : List Nat := []
deriving DecidableEq, Repr

/-! ### Engines, dies, ports -/

/-- A matrix ring (R362, R363): the descriptor and its counters. -/
structure Ring where
  desc    : BitVec 32 := 0
  tail    : Nat := 0
  head    : Nat := 0
  count   : Nat := 0
deriving DecidableEq, Repr

/-- What an engine command does (R365, R367, R125). -/
inductive EngKind
  | job | accLoad | accStore | matmul
deriving DecidableEq, Repr

/-- A command of the engine queue: its words, its id, and what was captured at the push. -/
structure EngCmd where
  kind    : EngKind
  words   : List Word
  cmd     : Word
  id      : Nat
  src     : CtxId
  inf     : Bool
  remote  : Bool
  started : Bool
  since   : Nat
  flags   : BitVec 5
  fault   : BitVec 9
deriving DecidableEq, Repr

/-- A matrix engine (R362 to R367, R403). -/
structure Engine where
  rings  : FMap Ring := []
  queue  : List EngCmd := []
  lastId : Nat := 0
  done   : FMap Word := []
  acc    : FMap Word32 := []
  gust   : Bool := false
  mxcap  : Word := 0
deriving DecidableEq, Repr

/-- A migration (R155 to R157). -/
structure Migration where
  cmd    : Cmd4
  leafAt : Nat
  leaf   : Word
  phase  : Nat
  poison : Bool
deriving DecidableEq, Repr

/-- A mark under way (R110): the space and the region, its command, the handles HST has reported, and the objects allocated since it
began, by granule and SIZE. -/
structure Marking where
  sid    : Nat
  region : Nat
  cmd    : Cmd4
  seen   : List Word
  fresh  : List (Nat × Nat)
deriving DecidableEq, Repr

/-- An evacuation of a region of a space, kept until RELEASE (R111 to R114): its table, the completion message's tag and core, the planned objects
that the sweep has not tried, those not moved yet, those on which the sweep's own copy has faulted, the bytes moved and kept, and whether
the completion was sent. -/
structure Evac where
  sid    : Nat
  region : Nat
  fwd    : Nat
  tag    : Nat
  core   : Nat
  todo   : List Nat
  left   : List Nat
  faults : List Nat := []
  moved  : Nat
  stayed : Nat
  sent   : Bool
deriving DecidableEq, Repr

/-- A fabric command (R374). -/
structure FabCmd where
  desc : Nat
  a2a  : Bool
  seq  : Nat
  src  : CtxId
  inf  : Bool
deriving DecidableEq, Repr

/-- A shuttle slot between PMTSND and PMTRET (R176). -/
structure Shuttle where
  aux  : Nat
  core : Nat
  len  : Nat
  inf  : Bool
  ctx  : Nat
deriving DecidableEq, Repr

/-- What a move of a core to a spare has copied (R22): the position it names, the core and the scratchpad as they were, by
offset. -/
structure Moved where
  pos    : Nat
  core   : Core
  pad    : FMap Byte
deriving DecidableEq, Repr

/-- A die: its core table, its registers and its engines' queues. `before` holds the states that the islands of a stopped die
had (R227), and `part` the words of 32-byte commands that are not complete (R411), by their offset. -/
structure Die where
  table    : FMap Word32 := []
  spmove   : Word := 0
  moved    : FMap Moved := []
  space    : Word := 0
  spaceNew : Word := 0
  rtbase   : Word := 0
  errLog   : Word := 0
  errThr   : Word := 0
  saveBase : Word := 0
  ring     : List (Word × Nat) := []
  ringLoad : Option Word := none
  shtOut   : Word := 0
  shtEvt   : Word := 0
  shtHeld  : BitVec 8 := 0
  shtInfl  : FMap Shuttle := []
  shtFull  : BitVec 8 := 0
  migs     : List Migration := []
  redirs   : FMap Nat := []
  kilnQ    : List Cmd4 := []
  marks    : List Marking := []
  evacs    : List Evac := []
  fabQ     : List FabCmd := []
  fabSeq   : Nat := 0
  tokens   : Option Nat := none
  tokHeld  : Nat := 0
  stopped  : Bool := false
  before   : List Nat := []
  part     : FMap Word := []
deriving DecidableEq, Repr

/-! ### Kernels (R82 to R100, R223) -/

/-- The states of a kernel that holds resources (R82). -/
inductive KState
  | loaded | launched | running | completing | preempted | done | aborted
deriving DecidableEq, Repr

/-- A core record (R83). -/
structure CoreRec where
  core : Nat
  ovf  : Nat
  nctx : Nat
deriving DecidableEq, Repr

/-- A tag record: its two words (R83). -/
structure TagRec where
  w0 : Word
  w1 : Word
deriving DecidableEq, Repr

/-- What a subtree of the completion tree has contributed (R87): the combined word, how many cores, the earliest and the
latest DONE with the lowest core at each, and whether any was final (R89). -/
structure Contrib where
  word      : Word32
  count     : Nat
  first     : Nat
  firstCore : Nat
  last      : Nat
  lastCore  : Nat
  final     : Bool
deriving DecidableEq, Repr

/-- A node of the completion tree in the current epoch: its own contribution, those received from children by record
number, and the one it has forwarded. -/
structure TreeNode where
  own  : Option Contrib := none
  kids : FMap Contrib := []
  out  : Option Contrib := none
deriving DecidableEq, Repr

/-- A kernel-scope barrier of a kernel (R100): the arrivals that have reached each combining core, by 4 × core + level, and whether it
is Faulted. -/
structure KBar where
  arrived : FMap (List Nat) := []
  fault   : Bool := false
deriving DecidableEq, Repr

/-- A PREEMPTK or RESUME under way, and what a Preempted kernel keeps for its RESUME (R223): the save area, the contexts
whose notice is not answered, the cycle of the command, those whose image is not written or read yet, those that this
command took, whether saving has begun, whether an image failed, and whether it is a RESUME. -/
structure KSave where
  area    : Nat
  notice  : List CtxId
  since   : Nat := 0
  images  : List CtxId := []
  taken   : List CtxId := []
  started : Bool := false
  failed  : Bool := false
  resume  : Bool := false
deriving DecidableEq, Repr

/-- A kernel: its partition and number (R409), its placement table (R83), its code and data, and its progress. -/
structure Kernel where
  part     : Nat
  num      : Nat
  state    : KState
  comb     : Nat
  pers     : Bool
  skewb    : Nat
  rptag    : Nat
  rpcore   : Nat
  eptag    : Nat
  regbase  : Nat
  regsize  : Nat
  cores    : List CoreRec
  tags     : List TagRec
  codeBase : Nat
  codeSize : Nat
  wins     : List Word
  launching : List Nat := []
  epoch    : Nat := 0
  tree     : FMap TreeNode := []
  bars     : FMap KBar := []
  save     : Option KSave := none
  complete : Option Word32 := none
deriving DecidableEq, Repr

/-- The five states of a port (R158). -/
inductive PortState
  | down | training | up | degraded | quiesced | isolated
deriving DecidableEq, Repr

/-- Who makes an access: a context, by the instruction that it issues, or an event, by its row and what it brings. -/
inductive Asker
  | ctx (i : CtxId)
  | event (row : Instr) (ev : Ev)
deriving DecidableEq, Repr

/-- A request that the home of a frame has queued (R156). -/
structure Held where
  asker : Asker
  p     : Passage
deriving DecidableEq, Repr

/-- What the home of a frame holds for a migration of it (R156, R157): where the frame is, or will be; whether it still streams; the
requests queued since, the oldest first; and the cycle in which the first of them had its turn. The record stands under the number of
the old frame until the queue is empty. -/
structure FrameHold where
  dest      : Nat
  streaming : Bool
  queue     : List Held
  turn      : Option Nat := none
deriving DecidableEq, Repr

/-- A PRI page request of a unit that is no core (R149): who asks for which page, the request, and the cause it has ended with and the
cycle. -/
structure PriAsk where
  asker  : Asker
  sid    : Nat
  page   : Nat
  req    : Nat
  failed : Option (Nat × Nat)
deriving DecidableEq, Repr

/-- The answer to a request that an event has made beyond a port (R162): the port and the address, its code (0 performed, else the cause
it ended with), and its bytes. -/
structure Brought where
  port : Nat
  addr : Nat
  code : Nat
  data : List Byte
deriving DecidableEq, Repr

/-- What the requests that an event makes beyond the ports have brought so far (R162): the answers in their order; the request that has
no answer yet, by port and number; and whether the event is tried again, or has been carried out. -/
structure Errand where
  asker : Asker
  got   : List Brought := []
  req   : Option (Nat × Nat) := none
  kept  : Bool := true
deriving DecidableEq, Repr

/-- An outgoing request that has no answer yet (R162), and the cycle in which its timeout expires. -/
structure LinkReq where
  id    : Nat
  src   : Asker
  addr  : Nat
  op    : ExtOp
  since : Nat
  due   : Nat
deriving DecidableEq, Repr

/-- A link port (R158 to R164): `lifted` holds the peers for which the window bound is lifted, `offsets` the clock offset of each peer
in nanoseconds as it was measured last, and `waiting` the requests of the host or of storage that a page under migration or a page
request holds up, in their order, each with the cycle it came. -/
structure Port where
  state   : PortState := .down
  before  : PortState := .down
  cerr    : Bool := false
  ovr     : Bool := false
  width   : BitVec 3 := 0
  tmo     : BitVec 16 := 100
  rthr    : BitVec 16 := 64
  replay  : BitVec 16 := 0
  inBase  : Word := 0
  inLim   : Word := 0
  trainAt : Nat := 0
  reqs    : List LinkReq := []
  nextReq : Nat := 0
  lifted  : List Nat := []
  offsets : FMap Nat := []
  waiting : List (Nat × ExtReq) := []
deriving DecidableEq, Repr

/-- A host translation cached from ATS (R149): the cluster in whose cache it is, numbered as its engine, or 1,024 + the die whose units
keep it; space, 4 KiB page of the host window, host page, and whether it permits writes. -/
structure AtsEnt where
  unit  : Nat
  sid   : Nat
  page  : Nat
  host  : Nat
  write : Bool
deriving DecidableEq, Repr

/-! ### The package -/

/-- What leaves the package for the world outside: an answer to a request of a port, a management read or write answered
over PCIe or I3C, an event for the owner, and the I3C in-band interrupt and MSI-X vector of a die's trip (R161, R165, R224, R411,
R412). -/
inductive Out
  | answer (port status : Nat) (data : List Byte)
  | vdm (status : Nat) (data : Word)
  | i3c (status : Nat) (data : Word)
  | owner (event unit : Nat)
  | i3cInterrupt (die : Nat)
  | msix (vector die : Nat)
deriving DecidableEq, Repr

/-- An island (R402): FREQ, TLIM and STATE; VOLT and TEMP are sensors. -/
structure Island where
  freq  : Nat := 2000
  tlim  : Nat := 105
  state : Nat
deriving DecidableEq, Repr

/-- The package's management registers (R402 to R411); `pkgWas` is the cycle of the last write of SYS.GRP.PKG with the value before that
cycle (R93), and `firmware` the image that ROM has accepted. -/
structure Mgmt where
  owner    : Nat := 0
  stat     : FMap Nat := []
  phase    : Nat := 0
  err      : Nat := 0
  fwver    : BitVec 32 := 0
  dumpBase : Word := 0
  vwin     : Word := 2000
  pkg      : Nat := 0
  pkgWas   : Option (Nat × Nat) := none
  firmware : List Byte := []
  nonce    : FMap Word := []
  attIndex : Nat := 0
  attBuf   : List Byte := []
  bhImg    : FMap Word := []
  bhKey    : FMap Word := []
  digests  : FMap (List Byte) := []
  parts    : FMap Word := []
  kcmd     : FMap Word := []
  islands  : FMap Island := []
  fatal    : Option Nat := none
deriving DecidableEq, Repr

/-- An event of the agenda: the cycle from which it may be carried out, its row, and what it brings. -/
structure Due where
  at_ : Nat
  row : Instr
  ev  : Ev := {}
deriving DecidableEq, Repr

/-- What the device remembers of the saving of a context (log entry 33): which it was, and the context as it was saved. -/
structure Shadow where
  id  : CtxId
  ctx : Context
deriving DecidableEq, Repr

/-- The machine. `clock`, `issued`, `late`, `cur`, `asker`, `asked`, `agenda` and `fresh` are the model's own (DESIGN CHOICE, log entries 3,
4, 9 and 56): the cycle, the contexts that have issued in it, whether every core has, the context whose instruction issues, who makes
the accesses of this step, how many answers to its requests beyond the ports it has used, the events in flight with the cycle each is
due, and how many free values have been taken; `ev` is what the
event that is carried out brings. `clusters` holds the translation caches of the clusters (R147), `pins` the space, the granule and
the SIZE of every pinned object (R50, R117), and `lives`, by region, the granule and the SIZE of the objects allocated since its last
mark began (R110; log entry 46). -/
structure State where
  clock    : Nat := 0
  issued   : List CtxId := []
  late     : Bool := false
  cur      : CtxId := { core := 0, ctx := 0 }
  asker    : Asker := .ctx { core := 0, ctx := 0 }
  agenda   : List Due := []
  ev       : Ev := {}
  fresh    : Nat := 0
  mem      : FMap Byte := []
  poison   : FMap Bool := []
  cores    : FMap Core := []
  engines  : FMap Engine := []
  dies     : FMap Die := []
  ports    : FMap Port := []
  peers    : FMap Word := []
  ats      : List AtsEnt := []
  pris     : List PriAsk := []
  errands  : List Errand := []
  asked    : Nat := 0
  clusters : FMap (List TlbEnt) := []
  frames   : FMap FrameHold := []
  pins     : List (Nat × Nat × Nat) := []
  lives    : FMap (List (Nat × Nat)) := []
  kernels  : FMap Kernel := []
  resident : FMap Nat := []
  shadows  : FMap Shadow := []
  nextKid  : Nat := 0
  mgmt     : Mgmt := {}
  out      : List Out := []
deriving DecidableEq, Repr

/-- The machine right after package reset (R405): every field at the value that the spec states, and a register to which it
states none at zero (DESIGN CHOICE, log entry 6); memory lists nothing (DESIGN CHOICE, log entry 1). -/
def State.reset : State := {}

/-- Why the machine stops. -/
inductive Fault
  /-- Raised by `step` alone: the agenda holds a row 0 to 209, which no operation of the model puts there. Safe: no
  state that a run from reset reaches raises it. -/
  | agendaNotEvent
deriving DecidableEq, Repr

/-- Why an instruction is refused. -/
inductive Refusal
  /-- Raised by an arm of `exec` whose instruction has no meaning yet. Safe: nothing can be proved through it. -/
  | notModelled (mnemonic : String)
deriving DecidableEq, Repr

end Sys2Proof.Machine
end

