-- ==== Sys2Proof/Machine/Ops.lean ====
section
/-!
DEFINITION. Sys2Proof/Machine/Ops.lean: the named operations over the state: reaching a core, a context, a die, an engine;
putting work on the agenda; taking a trap (R216, R217) and the changes that go with it.
-/

namespace Sys2Proof.Machine

open Sys2Proof

/-! ### Reaching the parts -/

/-- A core. -/
def State.core (s : State) (n : Nat) : Core :=
  s.cores.get {} n

def State.setCore (s : State) (n : Nat) (k : Core) : State :=
  { s with cores := s.cores.put n k }

/-- Change a core. -/
def State.modCore (s : State) (n : Nat) (f : Core → Core) : State :=
  s.setCore n (f (s.core n))

/-- A context of a core. -/
def Core.ctx (k : Core) (n : Nat) : Context :=
  k.ctxs.get {} n

def Core.setCtx (k : Core) (n : Nat) (c : Context) : Core :=
  { k with ctxs := k.ctxs.put n c }

/-- A context of the package. -/
def State.ctxAt (s : State) (i : CtxId) : Context :=
  (s.core i.core).ctx i.ctx

def State.setCtxAt (s : State) (i : CtxId) (c : Context) : State :=
  s.modCore i.core (·.setCtx i.ctx c)

def State.modCtxAt (s : State) (i : CtxId) (f : Context → Context) : State :=
  s.setCtxAt i (f (s.ctxAt i))

/-- The context whose instruction issues. -/
def State.ctx (s : State) : Context :=
  s.ctxAt s.cur

def State.setCtx (s : State) (c : Context) : State :=
  s.setCtxAt s.cur c

def State.modCtx (s : State) (f : Context → Context) : State :=
  s.setCtx (f s.ctx)

/-- The core that issues. -/
def State.me (s : State) : Core :=
  s.core s.cur.core

def State.modMe (s : State) (f : Core → Core) : State :=
  s.modCore s.cur.core f

def State.die (s : State) (n : Nat) : Die :=
  s.dies.get {} n

def State.setDie (s : State) (n : Nat) (d : Die) : State :=
  { s with dies := s.dies.put n d }

def State.modDie (s : State) (n : Nat) (f : Die → Die) : State :=
  s.setDie n (f (s.die n))

/-- The matrix engine of a cluster, numbered die × 128 + cluster (R15). -/
def State.engine (s : State) (n : Nat) : Engine :=
  s.engines.get {} n

def State.setEngine (s : State) (n : Nat) (e : Engine) : State :=
  { s with engines := s.engines.put n e }

def State.modEngine (s : State) (n : Nat) (f : Engine → Engine) : State :=
  s.setEngine n (f (s.engine n))

def State.port (s : State) (n : Nat) : Port :=
  s.ports.get {} n

def State.setPort (s : State) (n : Nat) (p : Port) : State :=
  { s with ports := s.ports.put n p }

def State.modPort (s : State) (n : Nat) (f : Port → Port) : State :=
  s.setPort n (f (s.port n))

/-! ### The agenda -/

/-- Put an event on the agenda for a cycle. -/
def State.schedule (s : State) (t : Nat) (row : Instr) (ev : Ev) : State :=
  { s with agenda := s.agenda ++ [{ at_ := t, row, ev }] }

/-- For the next cycle. -/
def State.nextCycle (s : State) (row : Instr) (ev : Ev) : State :=
  s.schedule (s.clock + 1) row ev

/-- For the present cycle, after what causes it. -/
def State.now (s : State) (row : Instr) (ev : Ev) : State :=
  s.schedule s.clock row ev

/-- After a time the spec leaves open (DESIGN CHOICE, log entry 4). -/
def State.later (s : State) (row : Instr) (ev : Ev) : State :=
  { s.schedule (s.clock + 1 + Config.delay s.fresh) row ev with fresh := s.fresh + 1 }

/-- What an event about a context brings. -/
def evCtx (i : CtxId) : Ev :=
  { unit := i.core, sub := i.ctx }

/-- The context an event is about. -/
def State.evId (s : State) : CtxId :=
  { core := s.ev.unit, ctx := s.ev.sub }

/-! ### Places (R13 to R19) -/

/-- Die of a logical core id (R15). -/
def coreDie (id : Nat) : Nat :=
  id / 1024

/-- Cluster within the die (R15). -/
def coreCluster (id : Nat) : Nat :=
  id / 8 % 128

/-- Whether a die is an M-die (R13). -/
def isM (die : Nat) : Bool :=
  4 ≤ die

/-- Logical clusters of a die (R14). -/
def dieClusters (die : Nat) : Nat :=
  if isM die then 128 else 72

/-- Whether a logical id names a core (R14, R15). -/
def coreExists (id : Nat) : Bool :=
  id < 8192 && coreCluster id < dieClusters (coreDie id)

/-- The engine number of a core's cluster: die × 128 + cluster. -/
def coreEngine (id : Nat) : Nat :=
  id / 8

/-- Columns of a die's mesh (R14). -/
def dieCols (die : Nat) : Nat :=
  if isM die then 16 else 9

/-- The stack whose stack group holds a cluster (R17). -/
def stackOf (die cluster : Nat) : Nat :=
  if isM die then
    let col := cluster % 16
    3 * (die - 4) + (if col ≤ 5 then 0 else if col ≤ 10 then 1 else 2)
  else 12 + die

/-- Scratchpad bytes of a core of a die (R14). -/
def spadBytes (die : Nat) : Nat :=
  if isM die then 768 * 1024 else 256 * 1024

/-- Physical address of a core's scratchpad slot (R18). -/
def spadBase (id : Nat) : Nat :=
  0x010000000000 + id * 0x100000

/-- The entry of the logical-to-physical table: as reset leaves it, V = 1 and the identity (R20). -/
def State.tableEntry (s : State) (id : Nat) : Word32 :=
  (s.die (coreDie id)).table.get (BitVec.ofNat 32 (2 ^ 31 + id % 1024)) (id % 1024)

/-- Whether a logical core is mapped: it exists and V = 1 (R20, R23). -/
def State.coreMapped (s : State) (id : Nat) : Bool :=
  coreExists id && (s.tableEntry id).getLsbD 31

/-- HOLD of a logical core (R20, R21). -/
def State.coreHeld (s : State) (id : Nat) : Bool :=
  (s.tableEntry id).getLsbD 30

/-- CTX.FDEPTH.CUR: the claims a context holds (R124, R136). -/
def Context.fdepth (c : Context) : Nat :=
  (c.chain.filter fun x => match x with | .claim _ => true | .demand _ _ _ _ => false | .strict _ => false).length

/-! ### Taking a trap -/

/-- What a trap records (R217). -/
structure Cause where
  code    : Nat
  acc     : Nat := 0
  level   : Nat := 0
  addr    : Word := 0
  objk    : Nat := 0
  obj     : Word := 0
  indet   : Bool := false
  reraise : Bool := false
  async   : Bool := false
deriving DecidableEq, Repr

/-- Whether a cause is of the machine group (R220). -/
def machineGroup (code : Nat) : Bool :=
  0x160 ≤ code && code ≤ 0x17F

/-- TRAP.CAUSE without TM, which is the context's trap mode itself (R217): EFF is the effects record, NEST says that the
trap was taken in trap mode, and a machine cause is asynchronous (R216). -/
def causeWord (eff trapMode : Bool) (c : Cause) : Word :=
  bitAt 63 eff ||| bitAt 62 c.reraise ||| bitAt 61 c.indet ||| bitAt 59 trapMode ||| bitAt 58 (c.async || machineGroup c.code)
    ||| at_ 54 (c.acc % 16) ||| at_ 51 (c.level % 8) ||| at_ 49 (c.objk % 4) ||| at_ 0 (c.code % 512)

/-- TRAP.CAUSE as it reads: TM shows the trap mode (R217). -/
def Context.causeReg (c : Context) : Word :=
  c.trapCause ||| bitAt 60 c.trapMode

/-- A context with a trap recorded at `pc`: Trapped, its four trap registers written (R216, R217). -/
def Context.trapped (c : Context) (pc : Word) (k : Cause) : Context :=
  { c with
    st := .trapped, wait := none, stall := none, replies := [], parts := none, retry := none
    trapCause := causeWord c.effects c.trapMode k
    trapPc := pc &&& 0x000FFFFFFFFFFFFC#64
    trapAddr := k.addr &&& 0x000FFFFFFFFFFFFF#64
    trapObj := k.obj }

/-- Taking a trap: the ONE operation by which a context enters Trapped. The saved pc is TRAP.PC, the cause TRAP.CAUSE;
TRAP_MODE_ENTRY follows in the next cycle (R218). -/
def State.takeTrap (s : State) (i : CtxId) (pc : Word) (k : Cause) : State :=
  (s.modCtxAt i (·.trapped pc k)).nextCycle .trapModeEntry (evCtx i)

/-- A synchronous trap of the issuing instruction, at its own address (R216). -/
def State.trap (s : State) (k : Cause) : State :=
  s.takeTrap s.cur s.ctx.pc k

/-- A trap with a code alone. -/
def State.trapCode (s : State) (code : Nat) : State :=
  s.trap { code }

/-- An asynchronous trap: TRAP.PC names the next instruction that would have issued (R216). -/
def State.trapAsync (s : State) (i : CtxId) (k : Cause) : State :=
  s.takeTrap i (s.ctxAt i).pc { k with async := true }

/-- Entering trap mode (R218): Ready at TRAP.VEC's address with TM = 1; the distance history, the loop stack and the
repeat frame are set aside, and every outstanding fixed-latency write completes; the stall count of the last instruction runs on (R235). -/
def Context.enterTrapMode (c : Context) (vec : Word) : Context :=
  { c with
    st := .ready, trapMode := true, pc := vec &&& 0x000FFFFFFFFFFFFC#64
    aside := some { hist := c.hist, histEcc := c.histEcc, loops := c.loops, frame := c.frame }
    hist := [], histEcc := [], loops := [], frame := none, pend := [] }

/-- Leaving trap mode, or a Trapped context, by Resume (R219, R267): PC := TRAP.PC, and what was set aside returns. The
handler's outstanding writes stay outstanding (R235). -/
def Context.resumed (c : Context) : Context :=
  let c := { c with st := .ready, trapMode := false, pc := c.trapPc, stall := none }
  match c.aside with
  | some a => { c with hist := a.hist, histEcc := a.histEcc, loops := a.loops, frame := a.frame, aside := none }
  | none => c

end Sys2Proof.Machine
end

