-- ==== Sys2Proof/Machine/Windows.lean ====
section
/-!
DEFINITION. Sys2Proof/Machine/Windows.lean: the windows of the virtual space (R48) and which of them an address falls in.
-/

namespace Sys2Proof.Machine

/-- The window an address lies in (R48). Each LWn, each remote slot and each peer is a window of its own; `none` is the
null guard, an unassigned range, or beyond 52 bits. -/
inductive Window
  | none
  | local_ (n : Nat)
  | remote (id : Nat)
  | hbm
  | heap
  | host
  | link (peer : Nat)
deriving DecidableEq, Repr

/-- The window of an address (R48). -/
def windowOf (va : Nat) : Window :=
  if va < 0x100000000 then .none
  else if va < 0x100800000 then .local_ (va / 0x100000 % 8)
  else if va < 0x200000000 then .none
  else if va < 0x400000000 then .remote ((va - 0x200000000) / 0x100000)
  else if va < 0x1000000000000 then .none
  else if va < 0x8000000000000 then .hbm
  else if va < 0x9000000000000 then .heap
  else if va < 0xC000000000000 then .host
  else if va < 0x10000000000000 then .link (va / 0x10000000000 % 1024)
  else .none

/-- Whether a window is translated by the page tables (R48). -/
def Window.paged : Window → Bool
  | .hbm => true
  | .heap => true
  | .none => false
  | .local_ _ => false
  | .remote _ => false
  | .host => false
  | .link _ => false

end Sys2Proof.Machine
end

