-- ==== Sys2Proof/Machine/Mem.lean ====
section
/-!
DEFINITION. Sys2Proof/Machine/Mem.lean: physical bytes (R18, R224), page tables and their walk (R142 to R147), the home of
a frame (R19), and translation through a core's cached leaves.
-/

namespace Sys2Proof.Machine

/-! ### Physical bytes -/

/-- What a byte of memory reads as that nothing has written (DESIGN CHOICE, log entry 1). -/
def memDefault : Byte := 0

/-- The canonical form of memory: addresses rise strictly and no entry equals the default. -/
abbrev Memory.wf (m : FMap Byte) : Bool :=
  FMap.wf memDefault m

/-- One byte. -/
def State.readByte (s : State) (a : Nat) : Byte :=
  s.mem.get memDefault a

/-- Write one byte, in canonical form. -/
def State.writeByte (s : State) (a : Nat) (b : Byte) : State :=
  { s with mem := s.mem.set memDefault a b }

/-- `n` bytes from an address up. -/
def State.readBytes (s : State) (a : Nat) : Nat → List Byte
  | 0 => []
  | n + 1 => s.readByte a :: s.readBytes (a + 1) n

/-- Bytes written from an address up. -/
def State.writeBytesRaw (s : State) (a : Nat) : List Byte → State
  | [] => s
  | b :: bs => (s.writeByte a b).writeBytesRaw (a + 1) bs

/-- The 8-byte granules that a range covers whole lose their poison (R224). -/
def State.cleanse (s : State) (a n : Nat) : State :=
  { s with poison := List.filter (fun e => !(decide (a ≤ 8 * e.1) && decide (8 * e.1 + 8 ≤ a + n))) s.poison }

/-- A contiguous write. -/
def State.writeBytes (s : State) (a : Nat) (bs : List Byte) : State :=
  (s.writeBytesRaw a bs).cleanse a bs.length

/-- An 8-byte little-endian word (R4). -/
def State.readWord (s : State) (a : Nat) : Word :=
  wordOfBytes (s.readBytes a 8)

def State.writeWord (s : State) (a : Nat) (w : Word) : State :=
  s.writeBytes a (bytesOfWord w)

/-- Whether the 64 bits that hold a byte are poisoned (R224). -/
def State.poisoned (s : State) (a : Nat) : Bool :=
  s.poison.get false (a / 8)

/-- The first poisoned byte of a list. -/
def State.firstPoison (s : State) (l : List Nat) : Option Nat :=
  l.find? fun a => s.poisoned a

/-- Whether a scratchpad byte at an offset of a core's slot is there (R18, R23, R49 step 4). -/
def State.spadPopulated (s : State) (id off : Nat) : Bool :=
  s.coreMapped id && decide (off < spadBytes (coreDie id))

/-- Whether a physical address is HBM (R18). -/
def isHbm (pa : Nat) : Bool :=
  pa < 0x10000000000

/-- Whether `n` bytes from a physical address on can be read as they are: every one is memory of the package (R18), and none lies in
poisoned bits (R224). -/
def State.rawOk (s : State) (a n : Nat) : Bool :=
  let there (pa : Nat) : Bool :=
    isHbm pa || (decide (spadBase 0 ≤ pa) && s.spadPopulated ((pa - spadBase 0) / 0x100000) ((pa - spadBase 0) % 0x100000))
  (isHbm (a + n - 1) || (List.range n).all fun i => there (a + i))
    && !s.poison.any fun e => decide (a < 8 * e.1 + 8) && decide (8 * e.1 < a + n)

/-! ### Homes (R17, R19) -/

/-- The die of an HBM stack (R13). -/
def stackDie (stack : Nat) : Nat :=
  if stack < 12 then 4 + stack / 3 else stack - 12

/-- The clusters of a stack group in ascending order (R17). -/
def groupClusters (stack : Nat) : List Nat :=
  (List.range (dieClusters (stackDie stack))).filter fun c => stackOf (stackDie stack) c == stack

/-- The home of a physical HBM address: die × 128 + cluster (R19). -/
def homeOf (pa : Nat) : Nat :=
  let stack := pa / 2 ^ 36
  let g := groupClusters stack
  stackDie stack * 128 + g.getD (pa % 2 ^ 36 / 0x10000 % g.length) 0

/-- The die that serves a physical address: the home slice's, or the scratchpad owner's (R18, R19). -/
def servingDie (pa : Nat) : Nat :=
  if isHbm pa then stackDie (pa / 2 ^ 36) else coreDie ((pa - 0x10000000000) / 0x100000)

/-! ### Page tables (R142 to R147) -/

/-- Fields of MMU.SPACE (R142). -/
def spaceSid (w : Word) : Nat := field w 63 48
def spaceRoot (w : Word) : Nat := field w 47 12 * 4096
def spaceEn (w : Word) : Bool := w.getLsbD 0

/-- Fields of a page-table entry (R144). -/
def pteV (w : Word) : Bool := w.getLsbD 63
def pteR (w : Word) : Bool := w.getLsbD 62
def pteW (w : Word) : Bool := w.getLsbD 61
def pteX (w : Word) : Bool := w.getLsbD 60
def pteA (w : Word) : Bool := w.getLsbD 59
def pteHeap (w : Word) : Bool := w.getLsbD 58
def pteMig (w : Word) : Bool := w.getLsbD 57
def pteHx (w : Word) : Bool := w.getLsbD 56
def ptePn (w : Word) : Bool := w.getLsbD 55
def pteL (w : Word) : Bool := w.getLsbD 52
def pteAddr (w : Word) : Nat := field w 47 12 * 4096

/-- Offset bits of a leaf of a level (R143). -/
def leafBits (level : Nat) : Nat :=
  if level = 3 then 34 else if level = 2 then 25 else 16

/-- Level of a leaf of a size (R143): TRAP.CAUSE.LEVEL of a fault that a leaf ends (R150; DEDUCED, log entry 24). -/
def bitsLevel (bits : Nat) : Nat :=
  if bits = 34 then 3 else if bits = 25 then 2 else 1

/-- Index of an address in the table of a level (R143). -/
def tableIndex (level va : Nat) : Nat :=
  va / 2 ^ (9 * level + 7) % 512

/-- Whether a valid entry is malformed (R145). -/
def pteBad (level va : Nat) (w : Word) : Bool :=
  field w 51 48 != 0 || field w 54 53 == 3
    || (pteL w && level == 4) || (!pteL w && level == 1)
    || (!pteL w && field w 62 53 != 0)
    || !isHbm (pteAddr w)
    || (pteL w && pteAddr w % 2 ^ leafBits level != 0)
    || (pteL w && pteHeap w != (windowOf va == .heap))

/-- A leaf that a walk found. -/
structure Leaf where
  pte  : Word
  bits : Nat
  at_  : Nat
deriving DecidableEq, Repr

/-- A walk for a unit of die `d` from the table of a level down (R143 to R147): the leaf, or the cause and the level at which it
ended. A table of another die that has stopped is not read (R226). -/
def State.walkFrom (s : State) (d va : Nat) : (level table : Nat) → Except (Nat × Nat) Leaf
  | 0, _ => .error (0x048, 1)
  | level + 1, table =>
    let a := table + 8 * tableIndex (level + 1) va
    let w := s.readWord a
    if servingDie a ≠ d ∧ (s.die (servingDie a)).stopped then .error (0x163, level + 1)
    else if s.poisoned a then .error (0x049, level + 1)
    else if !pteV w then .error (0x046, level + 1)
    else if pteBad (level + 1) va w then .error (0x048, level + 1)
    else if pteL w then .ok { pte := w, bits := leafBits (level + 1), at_ := a }
    else s.walkFrom d va level (pteAddr w)

/-- The walk of an address in a space (R143). A table lies in HBM (R18): a root beyond it is malformed. -/
def State.walk (s : State) (d : Nat) (space : Word) (va : Nat) : Except (Nat × Nat) Leaf :=
  if !spaceEn space then .error (0x046, 0)
  else if !isHbm (spaceRoot space) then .error (0x048, 4)
  else s.walkFrom d va 4 (spaceRoot space)

/-- What an access does with the bytes it names: the number is TRAP.CAUSE.ACC (R217). -/
inductive Kind
  | load | store | atomic | fetch | gather | scatter | heap | engineRead | engineWrite | heapCas | heapStore
deriving DecidableEq, Repr

/-- TRAP.CAUSE.ACC of a kind (R217). -/
def Kind.acc : Kind → Nat
  | .load => 1
  | .store => 2
  | .atomic => 3
  | .fetch => 4
  | .gather => 5
  | .scatter => 6
  | .heap => 7
  | .engineRead => 8
  | .engineWrite => 8
  | .heapCas => 7
  | .heapStore => 7

/-- Whether a leaf permits an access (R146). -/
def permits (w : Word) : Kind → Bool
  | .load => pteR w
  | .gather => pteR w
  | .engineRead => pteR w
  | .heap => pteR w
  | .store => pteW w
  | .scatter => pteW w
  | .heapStore => pteW w
  | .engineWrite => pteW w
  | .fetch => pteX w
  | .atomic => pteR w && pteW w && pteA w
  | .heapCas => pteR w && pteW w

/-- The leaf of a translation cache for an address (R147). -/
def leafFor (l : List TlbEnt) (sid va : Nat) : Option TlbEnt :=
  l.find? fun e => e.sid == sid && e.page == va / 2 ^ e.bits

/-- The cached leaf of a core for an address (R147): its own, else its cluster's. -/
def State.cachedLeaf (s : State) (id sid va : Nat) : Option TlbEnt :=
  match leafFor (s.core id).tlb sid va with
  | some e => some e
  | none => leafFor (s.clusters.get [] (coreEngine id)) sid va

/-- The space a core translates in: its die's MMU.SPACE (R142, R411). -/
def State.coreSpace (s : State) (id : Nat) : Word :=
  (s.die (coreDie id)).space

/-- The redirects of migrations whose invalidation is not complete, by old frame (R156). -/
def State.redirs (s : State) : List (Nat × Nat) :=
  s.dies.flatMap fun d => d.2.redirs

/-- Where the bytes of a frame are: a request through a stale leaf goes to the new home (R156). `fuel` bounds the redirects, each of
which names a frame of its own. -/
def frameNow (l : List (Nat × Nat)) : (fuel frame : Nat) → Nat
  | 0, frame => frame
  | fuel + 1, frame =>
    match l.find? fun e => e.1 == frame with
    | some e => frameNow l fuel e.2
    | none => frame

/-- A physical address under the redirects. -/
def State.redirect (s : State) (pa : Nat) : Nat :=
  frameNow s.redirs s.redirs.length (pa / 0x10000) * 0x10000 + pa % 0x10000

/-! ### Requests that the home of a frame queues (R156, R157) -/

/-- Whether the one who makes this access has its turn in a queue. -/
def State.hasTurn (s : State) (r : FrameHold) : Bool :=
  r.turn.isSome && (match r.queue with | x :: _ => x.asker == s.asker | [] => false)

/-- The migration that queues a request for a frame: one that streams it, or one whose queue has not been applied to it yet, unless
it is the turn of this request. The answer is the frame that names the record. -/
def State.frameHeld (s : State) (frame : Nat) : Option Nat :=
  (List.find? (fun x =>
    if x.2.streaming then x.1 == frame else x.2.dest == frame && !x.2.queue.isEmpty && !s.hasTurn x.2) s.frames).map (·.1)

/-- The queued request that has its turn, when it is for this page: the frame it is applied to, and its passage. -/
def State.turnFor (s : State) (sid page : Nat) : Option (Nat × Passage) :=
  s.frames.findSome? fun x =>
    match x.2.queue with
    | h :: _ => if !x.2.streaming ∧ s.hasTurn x.2 ∧ h.p.sid = sid ∧ h.p.page = page then some (x.2.dest, h.p) else none
    | [] => none

/-- A translated byte: its physical address, and the one that the leaf names where the frame has moved since; the leaf it went
through with its level, whether the leaf came from a walk, and the migration that queues the request. -/
structure Xlat where
  pa     : Nat
  named  : Nat
  pte    : Word
  level  : Nat
  walked : Bool
  held   : Option Nat
deriving DecidableEq, Repr

/-- A byte behind a leaf. -/
def State.landed (s : State) (va : Nat) (pte : Word) (bits : Nat) (walked : Bool) : Xlat :=
  let named := pteAddr pte + va % 2 ^ bits
  let pa := s.redirect named
  { pa, named, pte, level := bitsLevel bits, walked, held := s.frameHeld (pa / 0x10000) }

/-- A byte of a request that the home of its frame had queued and now applies. -/
def Passage.xlat (p : Passage) (frame va : Nat) : Xlat :=
  { pa := frame * 0x10000 + va % 0x10000, named := pteAddr p.pte + va % 2 ^ leafBits p.level, pte := p.pte, level := p.level, walked := false, held := none }

/-- The request as the home of the frame queues it. -/
def Xlat.passage (x : Xlat) (sid va : Nat) : Passage :=
  { sid, page := va / 0x10000, level := x.level, pte := x.pte }

/-- Translation of one address for a core in a paged window, through the leaves that it and its cluster have cached (R147); a
poisoned leaf is UNCORRECTABLE_ECC (R224; DESIGN CHOICE, log entry 48). -/
def State.translate (s : State) (id va : Nat) : Except (Nat × Nat) Xlat :=
  let space := s.coreSpace id
  if !spaceEn space then .error (0x046, 0)
  else
    match s.turnFor (spaceSid space) (va / 0x10000) with
    | some (frame, p) => .ok (p.xlat frame va)
    | none =>
      match s.cachedLeaf id (spaceSid space) va with
      | some e => if e.ecc then .error (0x160, 0) else .ok (s.landed va e.pte e.bits false)
      | none =>
        match s.walk (coreDie id) space va with
        | .error e => .error e
        | .ok l => .ok (s.landed va l.pte l.bits true)

/-- Translation in a space with no cache, for a unit of die `d`: engines and devices (R142). -/
def State.translateIn (s : State) (d : Nat) (space : Word) (va : Nat) : Except (Nat × Nat) Xlat :=
  match s.turnFor (spaceSid space) (va / 0x10000) with
  | some (frame, p) => .ok (p.xlat frame va)
  | none =>
    match s.walk d space va with
    | .error e => .error e
    | .ok l => .ok (s.landed va l.pte l.bits false)

/-! ### Dies and cores that run -/

/-- An island as reset leaves it (R402): 0 to 27 off, 28 to 31 on. -/
def State.island (s : State) (n : Nat) : Island :=
  s.mgmt.islands.get { state := if n < 28 then 0 else 1 } n

/-- Whether a die answers no request of the issuing core: it has stopped and is another one (R226). -/
def State.answersNot (s : State) (d : Nat) : Bool :=
  (s.die d).stopped && coreDie s.cur.core != d

/-- Whether the cores of a die run: it has not stopped, and its core-array island is on (R402, R412). -/
def State.dieRuns (s : State) (d : Nat) : Bool :=
  !(s.die d).stopped && (s.island d).state == 1

/-- Whether a core runs: it is mapped (R20, R23), and its die runs. -/
def State.coreRuns (s : State) (id : Nat) : Bool :=
  s.coreMapped id && s.dieRuns (coreDie id)

end Sys2Proof.Machine
end

