-- ==== Sys2Proof/Machine/Form.lean ====
section
/-!
DEFINITION. Sys2Proof/Machine/Form.lean: which operand fields and options an instruction may hold: the class bounds
of R231, the block extents of R234, the format codes of R28 and the per-entry limits of R275, R292, R303, R304,
R327, R333, R342 and R360. What it refuses is an ILLEGAL_INSTRUCTION.
-/

namespace Sys2Proof.Machine

/-- The operand classes of R231. -/
inductive Cls
  | g | v | h | p
deriving DecidableEq, Repr

/-- How many registers a class has (R57). -/
def Cls.count : Cls → Nat
  | .g => 56
  | .v => 56
  | .h => 16
  | .p => 8

/-- A source field (R231): a register of the class, or a distance operand. -/
def srcOk (c : Cls) (f : Fld) : Bool :=
  f.toNat < c.count || 56 ≤ f.toNat

/-- A destination field (R231): a register of the class, or the discard 63. -/
def dstOk (c : Cls) (f : Fld) : Bool :=
  f.toNat < c.count || f.toNat == 63

/-- A field that names `n` consecutive registers of a class, the first of them itself (R326, R342, R359). -/
def runOk (c : Cls) (n : Nat) (f : Fld) : Bool :=
  f.toNat < c.count && f.toNat + n ≤ c.count

/-- The extent itself: BROWS 7 is reserved (R234). -/
def blkOk (bk : Block) : Bool :=
  bk.rows1.toNat < 7

/-- A v field under a block extent stays in the 7 × 8 grid (R234); distance operands and the discard apply
unchanged. -/
def blockAt (bk : Block) (f : Fld) : Bool :=
  56 ≤ f.toNat || (f.toNat / 8 + bk.rows1.toNat < 7 && f.toNat % 8 + bk.cols1.toNat < 8)

/-- A format code that is not reserved (R28). -/
def fmtOk (f : BitVec 5) : Bool :=
  f.toNat ≤ 0x14 && f.toNat != 0x08

/-- A code that VCVT may name on either side (R303). -/
def cvtFmtOk (f : BitVec 5) : Bool :=
  fmtOk f && f.toNat != 0

/-- A code that VPACK and VUNPK may name (R304). -/
def packFmtOk (f : BitVec 5) : Bool :=
  fmtOk f && f.toNat != 0 && f.toNat != 0x10 && f.toNat != 0x14

/-- Whether a code names a 16-bit format, for which only parts 0 and 1 exist (R304). -/
def fmt16 (f : BitVec 5) : Bool :=
  f.toNat == 0x11 || f.toNat == 0x12

/-- RND is reserved with INT32 lanes (R292). -/
def laneRndOk (t : LaneT) (r : Rnd) : Bool :=
  t == .f32 || r == .rne

/-- NARG of a SUSP operation (R333). -/
def suspNarg : SuspOp → Nat
  | .add => 2
  | .mul => 2
  | .fma => 3
  | .mm => 2
  | .mmacc => 3
  | .exp2 => 1
  | .red => 1
  | .cvt => 1
  | .scal => 1

/-- d and a of the v class under one block extent. -/
def vBlk2 (bk : Block) (d a : Fld) : Bool :=
  blkOk bk && dstOk .v d && blockAt bk d && blockAt bk a

/-- d, a and b of the v class under one block extent. -/
def vBlk3 (bk : Block) (d a b : Fld) : Bool :=
  vBlk2 bk d a && blockAt bk b

/-- The operand fields and options of an instruction are ones the map accepts. The events of rows 210 to 309 have
no encoding and no form of their own. -/
def formOk : Instr → Bool
  | .add _ d _ _ | .sub _ d _ _ | .mul _ d _ _ => dstOk .g d
  | .mov _ d _ => dstOk .g d
  | .mulh _ _ d _ _ | .div _ _ d _ _ | .rem _ _ d _ _ | .min _ _ d _ _ | .max _ _ d _ _ => dstOk .g d
  | .and _ d _ _ | .or _ d _ _ | .xor _ d _ _ | .andn _ d _ _ => dstOk .g d
  | .shl _ d _ _ | .shr _ d _ _ | .sar _ d _ _ | .rol _ d _ _ => dstOk .g d
  | .shlImm _ d _ _ | .shrImm _ d _ _ | .sarImm _ d _ _ | .rolImm _ d _ _ => dstOk .g d
  | .popc _ d _ | .clz _ d _ | .ctz _ d _ => dstOk .g d
  | .sext _ d _ _ => dstOk .g d
  | .cmp _ _ d _ _ | .cmpUnsigned _ _ d _ _ => dstOk .p d
  | .cmpi _ _ d _ _ | .cmpiUnsigned _ _ d _ _ => dstOk .p d
  | .addi _ d _ _ => dstOk .g d
  | .addiXw _ d _ _ => dstOk .g d
  | .lea _ _ d _ _ | .leaw _ _ d _ _ => dstOk .g d
  | .fshl _ d _ _ _ | .fshr _ d _ _ _ => dstOk .g d
  | .sel _ d _ _ c => dstOk .g d && srcOk .p c
  | .lop3 _ d _ _ _ _ => dstOk .g d
  | .extr _ d _ pos w1 => dstOk .g d && pos.toNat + w1.toNat + 1 ≤ 64
  | .ins _ d _ pos w1 => d.toNat < 56 && pos.toNat + w1.toNat + 1 ≤ 64
  | .movi _ d _ => dstOk .g d
  | .li64 _ d _ _ => dstOk .g d
  | .br _ _ | .call _ _ => true
  | .brz _ _ _ | .brnz _ _ _ | .loop _ _ _ => true
  | .fork _ a _ => srcOk .p a
  | .brp _ _ a _ => srcOk .p a
  | .jmpr _ _ | .ret _ _ | .join _ _ => true
  | .callr _ d _ => dstOk .g d
  | .loopi _ _ _ => true
  | .rpt _ _ _ _ => true
  | .endAct _ | .yield _ => true
  | .nop => true
  | .tlbinv _ _ _ _ => true
  | .sleep _ d _ | .preempt _ d _ => dstOk .g d
  | .csave _ d _ _ | .crest _ d _ _ => dstOk .g d
  | .tagen _ _ | .tagclr _ _ | .eret _ _ | .trap _ _ => true
  | .hint _ _ _ => true
  | .csrr _ d _ => dstOk .g d
  | .csrw _ d _ _ | .csrs _ d _ _ | .csrc _ d _ _ => dstOk .g d
  | .ld _ _ d _ _ | .ldU _ _ d _ _ => dstOk .g d
  | .st _ _ _ _ _ => true
  | .ldIndexed _ _ d _ _ => dstOk .g d
  | .stIndexed _ _ _ _ _ => true
  | .ldXi _ _ d _ _ | .ldUXi _ _ d _ _ => dstOk .g d
  | .stXi _ _ _ _ _ => true
  | .vld _ d _ _ | .vldXi _ d _ _ => dstOk .v d
  | .vst _ _ _ _ | .vstXi _ _ _ _ => true
  | .msgvld _ d _ _ => dstOk .v d
  | .msgld _ d _ _ => dstOk .g d
  | .wdset _ _ _ => true
  | .wdget _ d _ => dstOk .g d
  | .pref _ _ _ _ => true
  | .lda _ _ _ d _ => dstOk .g d
  | .strel _ _ _ _ _ => true
  | .fence _ _ _ => true
  | .amoAdd _ _ _ _ d _ _ | .amoAnd _ _ _ _ d _ _ | .amoOr _ _ _ _ d _ _ | .amoXor _ _ _ _ d _ _
  | .amoSwp _ _ _ _ d _ _ => dstOk .g d
  | .amoMin _ _ _ _ _ d _ _ | .amoMax _ _ _ _ _ d _ _ => dstOk .g d
  | .amocas _ _ _ _ d _ _ _ => dstOk .g d
  | .amofadd _ _ _ _ d _ _ => dstOk .g d
  | .vlds _ bk d _ _ => blkOk bk && dstOk .v d && blockAt bk d
  | .vsts _ bk d _ _ => blkOk bk && blockAt bk d
  | .vgath _ d _ _ => dstOk .v d
  | .vscat _ _ _ _ => true
  | .hld _ d _ _ => dstOk .h d
  | .hst _ d _ _ => srcOk .h d
  | .hrd _ d a _ | .hrdXi _ d a _ => dstOk .g d && srcOk .h a
  | .hwr _ _ a _ | .hwrXi _ _ a _ => srcOk .h a
  | .hvld _ d a _ | .hvldXi _ d a _ => dstOk .v d && srcOk .h a
  | .hvst _ _ a _ | .hvstXi _ _ a _ => srcOk .h a
  | .alloc _ d _ _ => dstOk .h d
  | .hmov _ d a => dstOk .h d && srcOk .h a
  | .hkind _ d a => dstOk .g d && srcOk .h a
  | .heq _ d a b => dstOk .p d && srcOk .h a && srcOk .h b
  | .pin _ d a => dstOk .g d && srcOk .h a
  | .unpin _ a => srcOk .h a
  | .force _ d a => dstOk .h d && srcOk .h a
  | .forcenb _ d a b => dstOk .h d && srcOk .h a && dstOk .p b
  | .done _ _ _ => true
  | .spark _ a => srcOk .h a
  | .upd _ a b => srcOk .h a && srcOk .h b
  | .evac _ d _ _ => dstOk .p d
  | .susp _ op d a b c fmt _ _ _ _ =>
    dstOk .h d && runOk .h (suspNarg op) a && dstOk .p b && fmtOk fmt
  | .suspc _ d _ b c fmt n _ _ => dstOk .h d && dstOk .p b && runOk .h n.toNat c && fmtOk fmt
  | .send _ _ _ | .sendRk _ _ _ => true
  | .sendnb _ d _ _ | .sendnbRk _ d _ _ => dstOk .p d
  | .sendc _ d _ _ _ => dstOk .p d
  | .rktop _ d _ _ => dstOk .v d
  | .rkclr _ _ | .pmtret _ _ => true
  | .pmtcnt _ d => dstOk .g d
  | .pmtsnd _ d a b => dstOk .g d && runOk .g 2 a && dstOk .p b
  | .toksnd _ d _ _ => dstOk .p d
  | .admitTok _ d b => dstOk .g d && dstOk .p b
  | .refuse _ d _ b => dstOk .g d && dstOk .p b
  | .kvhRing _ d _ => dstOk .g d
  | .kvhLoc _ d _ b => dstOk .g d && dstOk .p b
  | .barinit _ _ _ => true
  | .bararv _ d _ => dstOk .g d
  | .barwait _ _ _ => true
  | .bartry _ d _ _ => dstOk .p d
  | .bararvw _ _ => true
  | .gbwait _ _ _ => true
  | .gbtry _ d _ _ => dstOk .p d
  | .gbarv _ _ d _ => dstOk .g d
  | .mrpush _ d _ => dstOk .p d
  | .mrhead _ d _ | .mwait _ d _ => dstOk .g d
  | .mpoll _ d _ b => dstOk .g d && dstOk .p b
  | .mjob _ d a => dstOk .g d && runOk .g 4 a
  | .mjobnb _ d a b => dstOk .g d && runOk .g 4 a && dstOk .p b
  | .macld _ d _ _ | .macst _ d _ _ => dstOk .g d
  | .mcmd _ d a _ _ => dstOk .p d && runOk .g 4 a
  | .mrset _ _ _ => true
  | .cpy _ d a => dstOk .g d && runOk .g 4 a
  | .cpynb _ d a b => dstOk .g d && runOk .g 4 a && dstOk .p b
  | .cppoll _ d _ b => dstOk .g d && dstOk .p b
  | .cpwait _ d _ => dstOk .g d
  | .halo _ d a => dstOk .g d && runOk .g 4 a
  | .halocnt _ d _ => dstOk .g d
  | .fxfer _ d _ b | .fxa2a _ d _ b => dstOk .g d && dstOk .p b
  | .vadd _ bk _ d a b | .vsub _ bk _ d a b | .vmul _ bk _ d a b | .vfma _ bk _ d a b
  | .vscal _ bk _ d a b => vBlk3 bk d a b
  | .vcmp _ _ _ d _ _ => dstOk .p d
  | .vmin _ bk _ d a b | .vmax _ bk _ d a b => vBlk3 bk d a b
  | .vsel _ bk d a b c => vBlk3 bk d a b && srcOk .p c
  | .vred _ _ t r d _ => dstOk .g d && laneRndOk t r
  | .vdot _ t r d _ _ => dstOk .g d && laneRndOk t r
  | .vabs _ bk d a | .vneg _ bk d a => vBlk2 bk d a
  | .vrcp _ bk _ d a | .vrsq _ bk _ d a | .vsqrt _ bk _ d a | .vexp2 _ bk _ d a
  | .vlog2 _ bk _ d a => vBlk2 bk d a
  | .vmov _ bk d a | .vpopc _ bk d a => vBlk2 bk d a
  | .vbcast _ bk d _ => blkOk bk && dstOk .v d && blockAt bk d
  | .vext _ d _ _ => dstOk .g d
  | .vperm _ bk d a b => vBlk3 bk d a b
  | .vrot _ bk d a _ => vBlk2 bk d a
  | .viadd _ bk _ d a b | .visub _ bk _ d a b | .vimul _ bk _ d a b | .vimad _ bk _ d a b => vBlk3 bk d a b
  | .vand _ bk d a b | .vor _ bk d a b | .vxor _ bk d a b | .vshl _ bk d a b
  | .vshr _ bk d a b => vBlk3 bk d a b
  | .vfshl _ bk d a b c | .vfshr _ bk d a b c => vBlk3 bk d a b && blockAt bk c
  | .vcvt _ bk r _ fmt src d a =>
    vBlk2 bk d a && cvtFmtOk fmt && cvtFmtOk src && fmt != src && (fmt != 0x14 || r == .rne)
  | .vpack _ bk _ _ fmt q d a => vBlk2 bk d a && packFmtOk fmt && (!fmt16 fmt || q.toNat < 2)
  | .vunpk _ bk fmt q d a => vBlk2 bk d a && packFmtOk fmt && (!fmt16 fmt || q.toNat < 2)
  | .vsmax _ _ d _ _ c | .vsmrg _ _ d _ _ c => dstOk .v d && c.toNat < 56 && c != d
  | .vlop3 _ d _ _ _ _ => dstOk .v d
  | .resultWriteback | .coreTableWrite | .heldMessageDelivery | .spmoveStart | .spmoveDone
  | .messageAccept | .messageBind | .priorityPromotion | .wake | .dequeBind | .probeSend
  | .probeForward | .victimNotice | .trapModeEntry | .saveComplete | .restoreComplete
  | .contextResume | .contextRestart | .contextAbort | .kernelLoad | .kernelLaunch
  | .kernelAbort | .kernelPreempt | .preemptGraceExpire | .kernelSaveStart | .kernelSaveDone
  | .kernelResume | .kernelDrainDone | .treeCombine | .kernelBarrierCombine
  | .kernelBarrierRelease | .kilnActivate | .kilnMark | .kilnEvac | .kilnRelease | .kilnFree
  | .markDone | .kilnSweep | .objectCopyDone | .sparkRun | .matmulEvalDone | .thunkEvalEnd
  | .walkDone | .priResponse | .atsInvalidate | .migrationCommand | .migrationStreamDone
  | .redirectNotice | .staleRequestForward | .migrationInvalidationDone | .linkTrain
  | .linkQuiesce | .linkResume | .linkIsolate | .linkDown | .trainingDone | .trainingTimeout
  | .linkFailure | .replayThreshold | .linkRequestTimeout | .linkResponse | .incomingRequest
  | .windowOverrun | .hostRequest | .storageDma | .fabricCompletion | .kvRingInstall
  | .kvRingLoadDone | .shuttleConfigure | .shuttleDelivery | .matrixJobStart | .ringTileTimeout
  | .matrixJobDone | .mcmdArrival | .copyStart | .copySourceFree | .copyVisible | .haloArrival
  | .mgmtRequest | .eccCorrected | .eccUncorrectable | .watchdogExpire | .sysWdogWrite
  | .sleepExpire | .thermalTrip | .supplyTrip | .packageReset | .firmwareVerify | .brewhouseGo
  | .attestationSign | .ownershipClaim | .islandWrite | .gustTokensWrite | .spaceLoad
  | .mgmtVdmRequest | .i3cTransfer | .mgmtRegisterWrite | .tlbinvComplete
  | .illegalInstruction | .instructionFetchFault => false

end Sys2Proof.Machine
end

