-- ==== Sys2Proof/WellFormed.lean ====
section
/-!
DEFINITION. Sys2Proof/WellFormed.lean: the instructions that have an encoding. An event row (210 to 309) has none, and
an operand or option that Machine/Form.lean refuses traps ILLEGAL_INSTRUCTION (R231, R234, R247).
-/

namespace Sys2Proof

/-- `i` is an instruction of rows 0 to 209 whose fields the opcode map accepts. -/
abbrev WellFormed (i : Instr) : Prop :=
  Machine.formOk i = true

end Sys2Proof
end

