-- ==== Sys2Proof/Decode.lean ====
section
/-!
DEFINITION. Sys2Proof/Decode.lean: from words to instructions and back, by the formats of R228 to R230 and the opcode
map of R242 to R248. A word is first cut into the fields of its layout (Raw), then its slot is looked up, then the
fields that the instruction does not use are checked: they must be the ones its encoding writes (R5, R247).
-/

namespace Sys2Proof

/-- The fields of a first word (R229), in layout R. Layout I reads `b` as IMM6; layout C reads `d` as source a and
`a`, `b` as OFF12; layout J reads the three as OFF18. -/
structure First where
  major : BitVec 6
  fn    : BitVec 2
  stall : BitVec 3
  pred  : BitVec 3
  d     : BitVec 6
  a     : BitVec 6
  b     : BitVec 6
deriving DecidableEq, Repr

/-- The fields of a second word in the XO layout (R230). -/
structure XO where
  sub   : BitVec 6
  srcc  : BitVec 6
  fmt   : BitVec 5
  rnd   : BitVec 3
  sat   : BitVec 1
  scope : BitVec 3
  brows : BitVec 3
  bcols : BitVec 3
  ord   : BitVec 2
deriving DecidableEq, Repr

/-- An instruction cut into the fields of its layout (R228 to R230). -/
inductive Raw
  | base (f : First)
  | xo (f : First) (x : XO)
  | xi (f : First) (sub : BitVec 6) (imm : BitVec 26)
  | xw (f : First) (imm : BitVec 32)
deriving DecidableEq, Repr

/-- The first word of its fields (R229). -/
def First.word (f : First) : Word32 :=
  f.major ++ f.fn ++ f.stall ++ f.pred ++ f.d ++ f.a ++ f.b

/-- The fields of a first word (R229). -/
def First.ofWord (w : Word32) : First :=
  { major := w.extractLsb' 26 6, fn := w.extractLsb' 24 2, stall := w.extractLsb' 21 3
    pred := w.extractLsb' 18 3, d := w.extractLsb' 12 6, a := w.extractLsb' 6 6, b := w.extractLsb' 0 6 }

/-- The XO second word of its fields (R230). -/
def XO.word (x : XO) : Word32 :=
  x.sub ++ x.srcc ++ x.fmt ++ x.rnd ++ x.sat ++ x.scope ++ x.brows ++ x.bcols ++ x.ord

/-- The fields of an XO second word (R230). -/
def XO.ofWord (w : Word32) : XO :=
  { sub := w.extractLsb' 26 6, srcc := w.extractLsb' 20 6, fmt := w.extractLsb' 15 5, rnd := w.extractLsb' 12 3
    sat := w.extractLsb' 11 1, scope := w.extractLsb' 8 3, brows := w.extractLsb' 5 3, bcols := w.extractLsb' 2 3
    ord := w.extractLsb' 0 2 }

/-- Whether a first word takes a second one: majors 0b111000 to 0b111111 (R228). -/
def twoWords (w0 : Word32) : Bool :=
  0x38 ≤ (First.ofWord w0).major.toNat

/-- The fields of the instruction at two consecutive words; the second is used only by the majors of R228. -/
def Raw.ofWords (w0 w1 : Word32) : Raw :=
  let f := First.ofWord w0
  if f.major.toNat < 0x38 then .base f
  else if f.major.toNat < 0x3C then .xo f (XO.ofWord w1)
  else if f.major.toNat < 0x3F then .xi f (w1.extractLsb' 26 6) (w1.extractLsb' 0 26)
  else .xw f w1

/-- The words of the fields. -/
def Raw.words : Raw → List Word32
  | .base f => [f.word]
  | .xo f x => [f.word, x.word]
  | .xi f sub imm => [f.word, (sub ++ imm : BitVec 32)]
  | .xw f imm => [f.word, imm]

/-! ### Codes of the option fields -/

/-- R244, R247: eq, ne, lt, le. -/
def Cond.code : Cond → BitVec 2
  | .eq => 0 | .ne => 1 | .lt => 2 | .le => 3

/-- The condition of a code. -/
def Cond.ofCode (c : BitVec 2) : Cond :=
  if c = 0 then .eq else if c = 1 then .ne else if c = 2 then .lt else .le

/-- R244: ltu, leu. -/
def UCond.code : UCond → BitVec 2
  | .ltu => 0 | .leu => 1

/-- R244: sizes and scales. -/
def Size.code : Size → BitVec 2
  | .b => 0 | .h => 1 | .w => 2 | .d => 3

/-- The size of a code. -/
def Size.ofCode (c : BitVec 2) : Size :=
  if c = 0 then .b else if c = 1 then .h else if c = 2 then .w else .d

/-- R244: sizes of LD.u. -/
def USize3.code : USize3 → BitVec 2
  | .b => 0 | .h => 1 | .w => 2

/-- The size of an LD.u code; 11 is reserved. -/
def USize3.ofCode? (c : BitVec 2) : Option USize3 :=
  if c = 0 then some .b else if c = 1 then some .h else if c = 2 then some .w else none

/-- R244: any, all, none. -/
def PTest.code : PTest → BitVec 2
  | .any => 0 | .all => 1 | .none => 2

/-- R267: Resume, Restart, Abort. -/
def Disp.code : Disp → BitVec 6
  | .resume => 0 | .restart => 1 | .abort => 2

/-- The disposition of an ERET operand; 3 to 63 are refused (R267). -/
def Disp.ofCode? (c : BitVec 6) : Option Disp :=
  if c = 0 then some .resume else if c = 1 then some .restart else if c = 2 then some .abort else none

/-- R230: SCOPE. -/
def Scope.code : Scope → BitVec 3
  | .co => 0 | .cl => 1 | .die => 2 | .pkg => 3 | .pod => 4 | .sys => 5

/-- The scope of a code; 6 and 7 are reserved (R247). -/
def Scope.ofCode? (c : BitVec 3) : Option Scope :=
  if c = 0 then some .co else if c = 1 then some .cl else if c = 2 then some .die
  else if c = 3 then some .pkg else if c = 4 then some .pod else if c = 5 then some .sys else none

/-- R230: ORD. -/
def Ord4.code : Ord4 → BitVec 2
  | .none => 0 | .acq => 1 | .rel => 2 | .ar => 3

/-- The order of a code. -/
def Ord4.ofCode (c : BitVec 2) : Ord4 :=
  if c = 0 then .none else if c = 1 then .acq else if c = 2 then .rel else .ar

/-- R230: ORD of FENCE. -/
def Ord3.code : Ord3 → BitVec 2
  | .acq => 1 | .rel => 2 | .ar => 3

/-- The order of a FENCE code; 0 is refused (R247). -/
def Ord3.ofCode? (c : BitVec 2) : Option Ord3 :=
  if c = 1 then some .acq else if c = 2 then some .rel else if c = 3 then some .ar else none

/-- R38: RND. -/
def Rnd.code : Rnd → BitVec 3
  | .rne => 0 | .rtz => 1 | .rdn => 2 | .rup => 3 | .dyn => 4

/-- The rounding option of a code; 5 to 7 are reserved (R38). -/
def Rnd.ofCode? (c : BitVec 3) : Option Rnd :=
  if c = 0 then some .rne else if c = 1 then some .rtz else if c = 2 then some .rdn
  else if c = 3 then some .rup else if c = 4 then some .dyn else none

/-- R292: FMT of column T. -/
def LaneT.code : LaneT → BitVec 5
  | .f32 => 0x10 | .i32 => 0x14

/-- The lane type of a FMT. -/
def LaneT.ofCode? (c : BitVec 5) : Option LaneT :=
  if c = 0x10 then some .f32 else if c = 0x14 then some .i32 else none

/-- R247: add, min, max. -/
def RedOp.code : RedOp → BitVec 2
  | .add => 0 | .min => 1 | .max => 2

/-- The reduction of a code; 11 is reserved (R299). -/
def RedOp.ofCode? (c : BitVec 2) : Option RedOp :=
  if c = 0 then some .add else if c = 1 then some .min else if c = 2 then some .max else none

/-- R244: cl, stk, pkg in functions 01, 10, 11. -/
def GbLevel.code : GbLevel → BitVec 2
  | .cl => 1 | .stk => 2 | .pkg => 3

/-- R333: OPSEL. -/
def SuspOp.code : SuspOp → BitVec 5
  | .add => 1 | .mul => 2 | .fma => 3 | .mm => 4 | .mmacc => 5 | .exp2 => 6 | .red => 7 | .cvt => 8 | .scal => 9

/-- The operation of an OPSEL; 0 and 10 to 31 are reserved (R333). -/
def SuspOp.ofCode? (c : BitVec 5) : Option SuspOp :=
  if c = 1 then some .add else if c = 2 then some .mul else if c = 3 then some .fma
  else if c = 4 then some .mm else if c = 5 then some .mmacc else if c = 6 then some .exp2
  else if c = 7 then some .red else if c = 8 then some .cvt else if c = 9 then some .scal else none

/-! ### From an instruction to its fields -/

/-- A first word in layout R or I. -/
def Hdr.first (h : Hdr) (major : BitVec 6) (fn : BitVec 2) (d a b : BitVec 6) : First :=
  { major, fn, stall := h.stall, pred := h.pred, d, a, b }

/-- A base word in layout R or I. -/
def Hdr.base (h : Hdr) (major : BitVec 6) (fn : BitVec 2) (d a b : BitVec 6) : Raw :=
  .base (h.first major fn d a b)

/-- A base word in layout C. -/
def Hdr.baseC (h : Hdr) (major : BitVec 6) (fn : BitVec 2) (a : BitVec 6) (off : BitVec 12) : Raw :=
  .base (h.first major fn a (off.extractLsb' 6 6) (off.extractLsb' 0 6))

/-- A base word in layout J. -/
def Hdr.baseJ (h : Hdr) (major : BitVec 6) (fn : BitVec 2) (off : BitVec 18) : Raw :=
  .base (h.first major fn (off.extractLsb' 12 6) (off.extractLsb' 6 6) (off.extractLsb' 0 6))

/-- An XO second word with every field but SUB zero. -/
def XO.zero (sub : BitVec 6) : XO :=
  { sub, srcc := 0, fmt := 0, rnd := 0, sat := 0, scope := 0, brows := 0, bcols := 0, ord := 0 }

/-- An XO instruction of the vector major 0b111001 (R292). -/
def Hdr.vec (h : Hdr) (fn : BitVec 2) (d a b : Fld) (x : XO) : Raw :=
  .xo (h.first 0x39 fn d a b) x

/-- A bit as the SAT field, or the low bit of a function code. -/
def bit (b : Bool) : BitVec 1 :=
  BitVec.ofBool b

/-- The fields an instruction is encoded with; an event row has none. -/
def toRaw : Instr → Option Raw
  | .add h d a b => some (h.base 0x08 0 d a b)
  | .sub h d a b => some (h.base 0x08 1 d a b)
  | .mul h d a b => some (h.base 0x08 2 d a b)
  | .mov h d a => some (h.base 0x08 3 d a 0)
  | .mulh h u d a b => some (h.base 0x09 (0#1 ++ bit u) d a b)
  | .div h u d a b => some (h.base 0x09 (1#1 ++ bit u) d a b)
  | .rem h u d a b => some (h.base 0x0A (0#1 ++ bit u) d a b)
  | .min h u d a b => some (h.base 0x0B (0#1 ++ bit u) d a b)
  | .max h u d a b => some (h.base 0x0B (1#1 ++ bit u) d a b)
  | .and h d a b => some (h.base 0x0C 0 d a b)
  | .or h d a b => some (h.base 0x0C 1 d a b)
  | .xor h d a b => some (h.base 0x0C 2 d a b)
  | .andn h d a b => some (h.base 0x0C 3 d a b)
  | .shl h d a b => some (h.base 0x0D 0 d a b)
  | .shr h d a b => some (h.base 0x0D 1 d a b)
  | .sar h d a b => some (h.base 0x0D 2 d a b)
  | .rol h d a b => some (h.base 0x0D 3 d a b)
  | .shlImm h d a n => some (h.base 0x0E 0 d a n)
  | .shrImm h d a n => some (h.base 0x0E 1 d a n)
  | .sarImm h d a n => some (h.base 0x0E 2 d a n)
  | .rolImm h d a n => some (h.base 0x0E 3 d a n)
  | .popc h d a => some (h.base 0x0F 0 d a 0)
  | .clz h d a => some (h.base 0x0F 1 d a 0)
  | .ctz h d a => some (h.base 0x0F 2 d a 0)
  | .sext h d a w1 => some (h.base 0x0F 3 d a w1)
  | .cmp h c d a b => some (h.base 0x10 c.code d a b)
  | .cmpUnsigned h c d a b => some (h.base 0x11 c.code d a b)
  | .cmpi h c d a imm => some (h.base 0x12 c.code d a imm)
  | .cmpiUnsigned h c d a imm => some (h.base 0x13 c.code d a imm)
  | .addi h d a imm => some (h.base 0x13 2 d a imm)
  | .addiXw h d a imm => some (.xw (h.first 0x3F 0 d a 2) imm)
  | .lea h sc d a b => some (h.base 0x14 sc.code d a b)
  | .leaw h sc d a b => some (h.base 0x15 sc.code d a b)
  | .fshl h d a b c => some (.xo (h.first 0x38 0 d a b) { XO.zero 0 with srcc := c })
  | .fshr h d a b c => some (.xo (h.first 0x38 0 d a b) { XO.zero 1 with srcc := c })
  | .sel h d a b c => some (.xo (h.first 0x38 0 d a b) { XO.zero 2 with srcc := c })
  | .lop3 h d a b c tt => some (.xi (h.first 0x3D 0 d a b) 0 (0#12 ++ c ++ tt : BitVec 26))
  | .extr h d a pos w1 => some (.xi (h.first 0x3D 0 d a 0) 2 (0#14 ++ w1 ++ pos : BitVec 26))
  | .ins h d a pos w1 => some (.xi (h.first 0x3D 0 d a 0) 3 (0#14 ++ w1 ++ pos : BitVec 26))
  | .movi h d imm => some (.xw (h.first 0x3F 0 d 0 0) imm)
  | .li64 h d a imm => some (.xw (h.first 0x3F 0 d a 1) imm)
  | .br h off => some (h.baseJ 0x02 0 off)
  | .call h off => some (h.baseJ 0x02 1 off)
  | .brz h a off => some (h.baseC 0x03 0 a off)
  | .brnz h a off => some (h.baseC 0x03 1 a off)
  | .loop h a off => some (h.baseC 0x03 2 a off)
  | .fork h a off => some (h.baseC 0x03 3 a off)
  | .brp h t a off => some (h.baseC 0x04 t.code a off)
  | .jmpr h a => some (h.base 0x05 0 0 a 0)
  | .callr h d a => some (h.base 0x05 1 d a 0)
  | .ret h a => some (h.base 0x05 2 0 a 0)
  | .join h a => some (h.base 0x05 3 0 a 0)
  | .loopi h n1 off => some (.xi (h.first 0x3C 0 0 0 0) 1 (n1 ++ off : BitVec 26))
  | .rpt h len1 stride count1 =>
    some (.xi (h.first 0x3C 0 0 0 0) 2 (0#8 ++ len1 ++ stride ++ count1 : BitVec 26))
  | .endAct h => some (h.base 0x01 0 0 0 0)
  | .yield h => some (h.base 0x01 1 0 0 0)
  | .nop => some (.base { major := 0x01, fn := 2, stall := 0, pred := 0, d := 0, a := 0, b := 0 })
  | .tlbinv h c a b => some (h.base 0x01 3 c a b)
  | .sleep h d a => some (h.base 0x06 0 d a 0)
  | .preempt h d a => some (h.base 0x06 1 d a 0)
  | .csave h d a b => some (h.base 0x06 2 d a b)
  | .crest h d a b => some (h.base 0x06 3 d a b)
  | .tagen h n => some (h.base 0x07 0 0 0 n)
  | .tagclr h n => some (h.base 0x07 1 0 0 n)
  | .eret h n => some (h.base 0x07 2 0 0 n.code)
  | .trap h n => some (h.base 0x07 3 0 0 (0#1 ++ n))
  | .hint stall n imm =>
    some (.xi { major := 0x3C, fn := 0, stall, pred := 0, d := 0, a := 0, b := 0 } (3#2 ++ n) imm)
  | .csrr h d n => some (.xi (h.first 0x3C 0 d 0 0) 0 (0#14 ++ n : BitVec 26))
  | .csrw h d a n => some (.xi (h.first 0x3C 1 d a 0) 0 (0#14 ++ n : BitVec 26))
  | .csrs h d a n => some (.xi (h.first 0x3C 2 d a 0) 0 (0#14 ++ n : BitVec 26))
  | .csrc h d a n => some (.xi (h.first 0x3C 3 d a 0) 0 (0#14 ++ n : BitVec 26))
  | .ld h sz d a imm => some (h.base 0x20 sz.code d a imm)
  | .ldU h sz d a imm => some (h.base 0x21 sz.code d a imm)
  | .st h sz d a imm => some (h.base 0x22 sz.code d a imm)
  | .ldIndexed h sz d a b => some (h.base 0x23 sz.code d a b)
  | .stIndexed h sz d a b => some (h.base 0x24 sz.code d a b)
  | .ldXi h sz d a imm => some (.xi (h.first 0x3E sz.code d a 0) 0 imm)
  | .ldUXi h sz d a imm => some (.xi (h.first 0x3E sz.code d a 0) 1 imm)
  | .stXi h sz d a imm => some (.xi (h.first 0x3E sz.code d a 0) 2 imm)
  | .vld h d a imm => some (h.base 0x25 0 d a imm)
  | .vst h d a imm => some (h.base 0x25 2 d a imm)
  | .vldXi h d a imm => some (.xi (h.first 0x3E 0 d a 0) 3 imm)
  | .vstXi h d a imm => some (.xi (h.first 0x3E 0 d a 0) 4 imm)
  | .msgvld h d a imm => some (h.base 0x25 1 d a imm)
  | .msgld h d a imm => some (h.base 0x25 3 d a imm)
  | .wdset h a n => some (h.base 0x26 0 0 a (0#3 ++ n))
  | .wdget h d n => some (h.base 0x26 1 d 0 (0#3 ++ n))
  | .pref h w a imm => some (h.base 0x26 2 (0#5 ++ bit w) a imm)
  | .lda h sz scope d a => some (.xo (h.first 0x3A sz.code d a 0) { XO.zero 0 with scope := scope.code })
  | .strel h sz scope d a => some (.xo (h.first 0x3A sz.code d a 0) { XO.zero 1 with scope := scope.code })
  | .fence h scope ord =>
    some (.xo (h.first 0x3A 0 0 0 0) { XO.zero 2 with scope := scope.code, ord := ord.code })
  | .amoAdd h dbl scope ord d a b =>
    some (.xo (h.first 0x3A (0#1 ++ bit dbl) d a b) { XO.zero 3 with scope := scope.code, ord := ord.code })
  | .amoAnd h dbl scope ord d a b =>
    some (.xo (h.first 0x3A (0#1 ++ bit dbl) d a b) { XO.zero 4 with scope := scope.code, ord := ord.code })
  | .amoOr h dbl scope ord d a b =>
    some (.xo (h.first 0x3A (0#1 ++ bit dbl) d a b) { XO.zero 5 with scope := scope.code, ord := ord.code })
  | .amoXor h dbl scope ord d a b =>
    some (.xo (h.first 0x3A (0#1 ++ bit dbl) d a b) { XO.zero 6 with scope := scope.code, ord := ord.code })
  | .amoMin h u dbl scope ord d a b =>
    some (.xo (h.first 0x3A (bit u ++ bit dbl) d a b) { XO.zero 7 with scope := scope.code, ord := ord.code })
  | .amoMax h u dbl scope ord d a b =>
    some (.xo (h.first 0x3A (bit u ++ bit dbl) d a b) { XO.zero 8 with scope := scope.code, ord := ord.code })
  | .amoSwp h dbl scope ord d a b =>
    some (.xo (h.first 0x3A (0#1 ++ bit dbl) d a b) { XO.zero 9 with scope := scope.code, ord := ord.code })
  | .amocas h dbl scope ord d a b c =>
    some (.xo (h.first 0x3A (0#1 ++ bit dbl) d a b)
      { XO.zero 10 with srcc := c, scope := scope.code, ord := ord.code })
  | .amofadd h rnd scope ord d a b =>
    some (.xo (h.first 0x3A 0 d a b)
      { XO.zero 11 with fmt := 0x10, rnd := rnd.code, scope := scope.code, ord := ord.code })
  | .vlds h bk d a b => some (.xo (h.first 0x3A 0 d a b) { XO.zero 12 with brows := bk.rows1, bcols := bk.cols1 })
  | .vsts h bk d a b => some (.xo (h.first 0x3A 0 d a b) { XO.zero 13 with brows := bk.rows1, bcols := bk.cols1 })
  | .vgath h d a b => some (.xo (h.first 0x3A 0 d a b) (XO.zero 14))
  | .vscat h d a b => some (.xo (h.first 0x3A 0 d a b) (XO.zero 15))
  | .hld h d a imm => some (h.base 0x28 0 d a imm)
  | .hst h d a imm => some (h.base 0x28 1 d a imm)
  | .hrd h d a imm => some (h.base 0x28 2 d a imm)
  | .hwr h d a imm => some (h.base 0x28 3 d a imm)
  | .hvld h d a imm => some (h.base 0x29 0 d a imm)
  | .hvst h d a imm => some (h.base 0x29 1 d a imm)
  | .hrdXi h d a imm => some (.xi (h.first 0x3E 0 d a 0) 5 imm)
  | .hwrXi h d a imm => some (.xi (h.first 0x3E 0 d a 0) 6 imm)
  | .hvldXi h d a imm => some (.xi (h.first 0x3E 0 d a 0) 7 imm)
  | .hvstXi h d a imm => some (.xi (h.first 0x3E 0 d a 0) 8 imm)
  | .alloc h d a b => some (h.base 0x2A 0 d a b)
  | .hmov h d a => some (h.base 0x2A 1 d a 0)
  | .hkind h d a => some (h.base 0x2A 2 d a 0)
  | .heq h d a b => some (h.base 0x2A 3 d a b)
  | .pin h d a => some (h.base 0x2B 0 d a 0)
  | .unpin h a => some (h.base 0x2B 1 0 a 0)
  | .force h d a => some (h.base 0x2B 2 d a 0)
  | .forcenb h d a b => some (h.base 0x2B 3 d a b)
  | .done h final a => some (h.base 0x2C 0 0 a (0#5 ++ bit final))
  | .spark h a => some (h.base 0x2C 1 0 a 0)
  | .upd h a b => some (h.base 0x2C 2 0 a b)
  | .evac h d a b => some (h.base 0x2C 3 d a b)
  | .susp h op d a b c fmt rnd sat lrows lcols =>
    some (.xo (h.first 0x3B 0 d a b)
      { sub := 0, srcc := c, fmt, rnd := rnd.code, sat := bit sat, scope := op.code.extractLsb' 2 3
        brows := lrows, bcols := lcols, ord := op.code.extractLsb' 0 2 })
  | .suspc h d a b c fmt n lrows lcols =>
    some (.xo (h.first 0x3B 0 d a b)
      { XO.zero 1 with srcc := c, fmt, brows := lrows, bcols := lcols, ord := n })
  | .send h a b => some (h.base 0x2D 0 0 a b)
  | .sendnb h d a b => some (h.base 0x2D 1 d a b)
  | .sendRk h a b => some (h.base 0x2D 2 0 a b)
  | .sendnbRk h d a b => some (h.base 0x2D 3 d a b)
  | .sendc h d a b cap => some (.xo (h.first 0x3B 0 d a b) { XO.zero 2 with fmt := cap })
  | .rktop h d a b => some (h.base 0x2E 0 d a b)
  | .rkclr h a => some (h.base 0x2E 1 0 a 0)
  | .pmtret h a => some (h.base 0x2E 2 0 a 0)
  | .pmtcnt h d => some (h.base 0x2E 3 d 0 0)
  | .pmtsnd h d a b => some (h.base 0x2F 0 d a b)
  | .toksnd h d a b => some (h.base 0x2F 1 d a b)
  | .admitTok h d b => some (h.base 0x2F 2 d 0 b)
  | .refuse h d a b => some (h.base 0x2F 3 d a b)
  | .kvhRing h d a => some (h.base 0x30 0 d a 0)
  | .kvhLoc h d a b => some (h.base 0x30 1 d a b)
  | .barinit h a n => some (h.base 0x31 0 0 a n)
  | .bararv h d n => some (h.base 0x31 1 d 0 n)
  | .barwait h a n => some (h.base 0x31 2 0 a n)
  | .bartry h d a n => some (h.base 0x31 3 d a n)
  | .bararvw h n => some (h.base 0x32 0 0 0 n)
  | .gbwait h a n => some (h.base 0x32 1 0 a (0#4 ++ n))
  | .gbtry h d a n => some (h.base 0x32 2 d a (0#4 ++ n))
  | .gbarv h lvl d n => some (h.base 0x33 lvl.code d 0 (0#4 ++ n))
  | .mrpush h d a => some (h.base 0x34 0 d a 0)
  | .mrhead h d a => some (h.base 0x34 1 d a 0)
  | .mpoll h d a b => some (h.base 0x34 2 d a b)
  | .mwait h d a => some (h.base 0x34 3 d a 0)
  | .mjob h d a => some (h.base 0x35 0 d a 0)
  | .mjobnb h d a b => some (h.base 0x35 1 d a b)
  | .macld h d a b => some (h.base 0x35 2 d a b)
  | .macst h d a b => some (h.base 0x35 3 d a b)
  | .mcmd h d a b cap => some (.xo (h.first 0x3B 0 d a b) { XO.zero 3 with fmt := cap })
  | .mrset h r imm => some (.xw (h.first 0x3F 0 (0#4 ++ r) 0 3) imm)
  | .cpy h d a => some (h.base 0x36 0 d a 0)
  | .cpynb h d a b => some (h.base 0x36 1 d a b)
  | .cppoll h d a b => some (h.base 0x36 2 d a b)
  | .cpwait h d a => some (h.base 0x36 3 d a 0)
  | .halo h d a => some (h.base 0x37 0 d a 0)
  | .halocnt h d a => some (h.base 0x37 1 d a 0)
  | .fxfer h d a b => some (h.base 0x37 2 d a b)
  | .fxa2a h d a b => some (h.base 0x37 3 d a b)
  | .vadd h bk rnd d a b => some (h.vec 0 d a b (vx 0x00 bk 0x10 rnd))
  | .vsub h bk rnd d a b => some (h.vec 0 d a b (vx 0x01 bk 0x10 rnd))
  | .vmul h bk rnd d a b => some (h.vec 0 d a b (vx 0x02 bk 0x10 rnd))
  | .vfma h bk rnd d a b => some (h.vec 0 d a b (vx 0x03 bk 0x10 rnd))
  | .vcmp h c t d a b => some (h.vec c.code d a b { XO.zero 0x04 with fmt := t.code })
  | .vmin h bk t d a b => some (h.vec 0 d a b (vx 0x05 bk t.code .rne))
  | .vmax h bk t d a b => some (h.vec 0 d a b (vx 0x06 bk t.code .rne))
  | .vsel h bk d a b c => some (h.vec 0 d a b { vx 0x07 bk 0 .rne with srcc := c })
  | .vred h op t rnd d a => some (h.vec op.code d a 0 { XO.zero 0x08 with fmt := t.code, rnd := rnd.code })
  | .vdot h t rnd d a b => some (h.vec 0 d a b { XO.zero 0x09 with fmt := t.code, rnd := rnd.code })
  | .vabs h bk d a => some (h.vec 0 d a 0 (vx 0x0A bk 0x10 .rne))
  | .vneg h bk d a => some (h.vec 0 d a 0 (vx 0x0B bk 0x10 .rne))
  | .vrcp h bk rnd d a => some (h.vec 0 d a 0 (vx 0x0C bk 0x10 rnd))
  | .vrsq h bk rnd d a => some (h.vec 0 d a 0 (vx 0x0D bk 0x10 rnd))
  | .vsqrt h bk rnd d a => some (h.vec 0 d a 0 (vx 0x0E bk 0x10 rnd))
  | .vexp2 h bk rnd d a => some (h.vec 0 d a 0 (vx 0x0F bk 0x10 rnd))
  | .vlog2 h bk rnd d a => some (h.vec 0 d a 0 (vx 0x10 bk 0x10 rnd))
  | .vmov h bk d a => some (h.vec 0 d a 0 (vx 0x11 bk 0 .rne))
  | .vbcast h bk d a => some (h.vec 0 d a 0 (vx 0x12 bk 0 .rne))
  | .vext h d a b => some (h.vec 0 d a b (XO.zero 0x13))
  | .vperm h bk d a b => some (h.vec 0 d a b (vx 0x14 bk 0 .rne))
  | .vrot h bk d a b => some (h.vec 0 d a b (vx 0x15 bk 0 .rne))
  | .viadd h bk sat d a b => some (h.vec 0 d a b { vx 0x16 bk 0 .rne with sat := bit sat })
  | .visub h bk sat d a b => some (h.vec 0 d a b { vx 0x17 bk 0 .rne with sat := bit sat })
  | .vimul h bk sat d a b => some (h.vec 0 d a b { vx 0x18 bk 0 .rne with sat := bit sat })
  | .vimad h bk sat d a b => some (h.vec 0 d a b { vx 0x19 bk 0 .rne with sat := bit sat })
  | .vand h bk d a b => some (h.vec 0 d a b (vx 0x1A bk 0 .rne))
  | .vor h bk d a b => some (h.vec 0 d a b (vx 0x1B bk 0 .rne))
  | .vxor h bk d a b => some (h.vec 0 d a b (vx 0x1C bk 0 .rne))
  | .vshl h bk d a b => some (h.vec 0 d a b (vx 0x1D bk 0 .rne))
  | .vshr h bk d a b => some (h.vec 0 d a b (vx 0x1E bk 0 .rne))
  | .vfshl h bk d a b c => some (h.vec 0 d a b { vx 0x1F bk 0 .rne with srcc := c })
  | .vfshr h bk d a b c => some (h.vec 0 d a b { vx 0x20 bk 0 .rne with srcc := c })
  | .vpopc h bk d a => some (h.vec 0 d a 0 (vx 0x21 bk 0 .rne))
  | .vcvt h bk rnd sat fmt src d a =>
    some (h.vec 0 d a 0 { vx 0x22 bk fmt rnd with srcc := 0#1 ++ src, sat := bit sat })
  | .vpack h bk rnd sat fmt q d a =>
    some (h.vec 0 d a 0 { vx 0x23 bk fmt rnd with srcc := 0#4 ++ q, sat := bit sat })
  | .vunpk h bk fmt q d a => some (h.vec 0 d a 0 { vx 0x24 bk fmt .rne with srcc := 0#4 ++ q })
  | .vsmax h rnd d a b c => some (h.vec 0 d a b { XO.zero 0x25 with fmt := 0x10, rnd := rnd.code, srcc := c })
  | .vsmrg h rnd d a b c => some (h.vec 0 d a b { XO.zero 0x26 with fmt := 0x10, rnd := rnd.code, srcc := c })
  | .vscal h bk rnd d a b => some (h.vec 0 d a b (vx 0x27 bk 0x10 rnd))
  | .vlop3 h d a b c tt => some (.xi (h.first 0x3D 0 d a b) 1 (0#12 ++ c ++ tt : BitVec 26))
  | .resultWriteback | .coreTableWrite | .heldMessageDelivery | .spmoveStart | .spmoveDone
  | .messageAccept | .messageBind | .priorityPromotion | .wake | .dequeBind | .probeSend
  | .probeForward | .victimNotice | .trapModeEntry | .saveComplete | .restoreComplete
  | .contextResume | .contextRestart | .contextAbort | .kernelLoad | .kernelLaunch
  | .kernelAbort | .kernelPreempt | .preemptGraceExpire | .kernelSaveStart | .kernelSaveDone
  | .kernelResume | .kernelDrainDone | .treeCombine | .kernelBarrierCombine
  | .kernelBarrierRelease | .kilnActivate | .kilnMark | .kilnEvac | .kilnRelease | .kilnFree
  | .markDone | .kilnSweep | .objectCopyDone | .sparkRun | .matmulEvalDone | .thunkEvalEnd
  | .walkDone | .priResponse | .atsInvalidate | .migrationCommand | .migrationStreamDone
  | .redirectNotice | .staleRequestForward | .migrationInvalidationDone | .linkTrain
  | .linkQuiesce | .linkResume | .linkIsolate | .linkDown | .trainingDone | .trainingTimeout
  | .linkFailure | .replayThreshold | .linkRequestTimeout | .linkResponse | .incomingRequest
  | .windowOverrun | .hostRequest | .storageDma | .fabricCompletion | .kvRingInstall
  | .kvRingLoadDone | .shuttleConfigure | .shuttleDelivery | .matrixJobStart | .ringTileTimeout
  | .matrixJobDone | .mcmdArrival | .copyStart | .copySourceFree | .copyVisible | .haloArrival
  | .mgmtRequest | .eccCorrected | .eccUncorrectable | .watchdogExpire | .sysWdogWrite
  | .sleepExpire | .thermalTrip | .supplyTrip | .packageReset | .firmwareVerify | .brewhouseGo
  | .attestationSign | .ownershipClaim | .islandWrite | .gustTokensWrite | .spaceLoad
  | .mgmtVdmRequest | .i3cTransfer | .mgmtRegisterWrite | .tlbinvComplete
  | .illegalInstruction | .instructionFetchFault => none
where
  /-- A vector second word with a block extent, a format and a rounding. -/
  vx (sub : BitVec 6) (bk : Block) (fmt : BitVec 5) (rnd : Rnd) : XO :=
    { XO.zero sub with fmt, rnd := rnd.code, brows := bk.rows1, bcols := bk.cols1 }

/-! ### From fields to an instruction -/

/-- One of the four functions of a major (R244). -/
def pick {α : Type} (fn : BitVec 2) (x0 x1 x2 x3 : α) : α :=
  if fn = 0 then x0 else if fn = 1 then x1 else if fn = 2 then x2 else x3

/-- The header fields of a first word. -/
def First.hdr (f : First) : Hdr :=
  { stall := f.stall, pred := f.pred }

/-- OFF12 of layout C (R229). -/
def First.off12 (f : First) : BitVec 12 :=
  f.a ++ f.b

/-- OFF18 of layout J (R229). -/
def First.off18 (f : First) : BitVec 18 :=
  f.d ++ f.a ++ f.b

/-- The low function bit of a two-way slot pair. -/
def First.lo (f : First) : Bool :=
  f.fn.getLsbD 0

/-- The base slots of R244; `none` is a slot marked "—". -/
def baseInstr (f : First) : Option Instr :=
  let h := f.hdr
  let d := f.d
  let a := f.a
  let b := f.b
  match f.major.toNat with
  | 0x01 => pick f.fn (some (.endAct h)) (some (.yield h)) (some .nop) (some (.tlbinv h d a b))
  | 0x02 => pick f.fn (some (.br h f.off18)) (some (.call h f.off18)) none none
  | 0x03 => pick f.fn (some (.brz h d f.off12)) (some (.brnz h d f.off12)) (some (.loop h d f.off12))
      (some (.fork h d f.off12))
  | 0x04 => pick f.fn (some (.brp h .any d f.off12)) (some (.brp h .all d f.off12))
      (some (.brp h .none d f.off12)) none
  | 0x05 => pick f.fn (some (.jmpr h a)) (some (.callr h d a)) (some (.ret h a)) (some (.join h a))
  | 0x06 => pick f.fn (some (.sleep h d a)) (some (.preempt h d a)) (some (.csave h d a b))
      (some (.crest h d a b))
  | 0x07 => pick f.fn (some (.tagen h b)) (some (.tagclr h b)) ((Disp.ofCode? b).map (.eret h))
      (some (.trap h (b.extractLsb' 0 5)))
  | 0x08 => pick f.fn (some (.add h d a b)) (some (.sub h d a b)) (some (.mul h d a b)) (some (.mov h d a))
  | 0x09 => pick f.fn (some (.mulh h false d a b)) (some (.mulh h true d a b)) (some (.div h false d a b))
      (some (.div h true d a b))
  | 0x0A => pick f.fn (some (.rem h false d a b)) (some (.rem h true d a b)) none none
  | 0x0B => pick f.fn (some (.min h false d a b)) (some (.min h true d a b)) (some (.max h false d a b))
      (some (.max h true d a b))
  | 0x0C => pick f.fn (some (.and h d a b)) (some (.or h d a b)) (some (.xor h d a b)) (some (.andn h d a b))
  | 0x0D => pick f.fn (some (.shl h d a b)) (some (.shr h d a b)) (some (.sar h d a b)) (some (.rol h d a b))
  | 0x0E => pick f.fn (some (.shlImm h d a b)) (some (.shrImm h d a b)) (some (.sarImm h d a b))
      (some (.rolImm h d a b))
  | 0x0F => pick f.fn (some (.popc h d a)) (some (.clz h d a)) (some (.ctz h d a)) (some (.sext h d a b))
  | 0x10 => some (.cmp h (Cond.ofCode f.fn) d a b)
  | 0x11 => pick f.fn (some (.cmpUnsigned h .ltu d a b)) (some (.cmpUnsigned h .leu d a b)) none none
  | 0x12 => some (.cmpi h (Cond.ofCode f.fn) d a b)
  | 0x13 => pick f.fn (some (.cmpiUnsigned h .ltu d a b)) (some (.cmpiUnsigned h .leu d a b))
      (some (.addi h d a b)) none
  | 0x14 => some (.lea h (Size.ofCode f.fn) d a b)
  | 0x15 => some (.leaw h (Size.ofCode f.fn) d a b)
  | 0x20 => some (.ld h (Size.ofCode f.fn) d a b)
  | 0x21 => (USize3.ofCode? f.fn).map (fun sz => .ldU h sz d a b)
  | 0x22 => some (.st h (Size.ofCode f.fn) d a b)
  | 0x23 => some (.ldIndexed h (Size.ofCode f.fn) d a b)
  | 0x24 => some (.stIndexed h (Size.ofCode f.fn) d a b)
  | 0x25 => pick f.fn (some (.vld h d a b)) (some (.msgvld h d a b)) (some (.vst h d a b)) (some (.msgld h d a b))
  | 0x26 => pick f.fn (some (.wdset h a (b.extractLsb' 0 3))) (some (.wdget h d (b.extractLsb' 0 3)))
      (some (.pref h (d.getLsbD 0) a b)) none
  | 0x28 => pick f.fn (some (.hld h d a b)) (some (.hst h d a b)) (some (.hrd h d a b)) (some (.hwr h d a b))
  | 0x29 => pick f.fn (some (.hvld h d a b)) (some (.hvst h d a b)) none none
  | 0x2A => pick f.fn (some (.alloc h d a b)) (some (.hmov h d a)) (some (.hkind h d a)) (some (.heq h d a b))
  | 0x2B => pick f.fn (some (.pin h d a)) (some (.unpin h a)) (some (.force h d a)) (some (.forcenb h d a b))
  | 0x2C => pick f.fn (some (.done h (b.getLsbD 0) a)) (some (.spark h a)) (some (.upd h a b))
      (some (.evac h d a b))
  | 0x2D => pick f.fn (some (.send h a b)) (some (.sendnb h d a b)) (some (.sendRk h a b))
      (some (.sendnbRk h d a b))
  | 0x2E => pick f.fn (some (.rktop h d a b)) (some (.rkclr h a)) (some (.pmtret h a)) (some (.pmtcnt h d))
  | 0x2F => pick f.fn (some (.pmtsnd h d a b)) (some (.toksnd h d a b)) (some (.admitTok h d b))
      (some (.refuse h d a b))
  | 0x30 => pick f.fn (some (.kvhRing h d a)) (some (.kvhLoc h d a b)) none none
  | 0x31 => pick f.fn (some (.barinit h a b)) (some (.bararv h d b)) (some (.barwait h a b))
      (some (.bartry h d a b))
  | 0x32 => pick f.fn (some (.bararvw h b)) (some (.gbwait h a (b.extractLsb' 0 2)))
      (some (.gbtry h d a (b.extractLsb' 0 2))) none
  | 0x33 => pick f.fn none (some (.gbarv h .cl d (b.extractLsb' 0 2))) (some (.gbarv h .stk d (b.extractLsb' 0 2)))
      (some (.gbarv h .pkg d (b.extractLsb' 0 2)))
  | 0x34 => pick f.fn (some (.mrpush h d a)) (some (.mrhead h d a)) (some (.mpoll h d a b)) (some (.mwait h d a))
  | 0x35 => pick f.fn (some (.mjob h d a)) (some (.mjobnb h d a b)) (some (.macld h d a b))
      (some (.macst h d a b))
  | 0x36 => pick f.fn (some (.cpy h d a)) (some (.cpynb h d a b)) (some (.cppoll h d a b)) (some (.cpwait h d a))
  | 0x37 => pick f.fn (some (.halo h d a)) (some (.halocnt h d a)) (some (.fxfer h d a b))
      (some (.fxa2a h d a b))
  | _ => none

/-- The block extent of an XO word (R234). -/
def XO.block (x : XO) : Block :=
  { rows1 := x.brows, cols1 := x.bcols }

/-- SAT as an option bit. -/
def XO.satB (x : XO) : Bool :=
  x.sat.getLsbD 0

/-- SUB of major 0b111001 (R245, R294). -/
def vecInstr (f : First) (x : XO) : Option Instr :=
  let h := f.hdr
  let d := f.d
  let a := f.a
  let b := f.b
  let bk := x.block
  let withRnd (k : Rnd → Instr) : Option Instr := (Rnd.ofCode? x.rnd).map k
  let withT (k : LaneT → Instr) : Option Instr := (LaneT.ofCode? x.fmt).map k
  match x.sub.toNat with
  | 0x00 => withRnd (fun r => .vadd h bk r d a b)
  | 0x01 => withRnd (fun r => .vsub h bk r d a b)
  | 0x02 => withRnd (fun r => .vmul h bk r d a b)
  | 0x03 => withRnd (fun r => .vfma h bk r d a b)
  | 0x04 => withT (fun t => .vcmp h (Cond.ofCode f.fn) t d a b)
  | 0x05 => withT (fun t => .vmin h bk t d a b)
  | 0x06 => withT (fun t => .vmax h bk t d a b)
  | 0x07 => some (.vsel h bk d a b x.srcc)
  | 0x08 => (RedOp.ofCode? f.fn).bind fun op => (LaneT.ofCode? x.fmt).bind fun t =>
      withRnd (fun r => .vred h op t r d a)
  | 0x09 => (LaneT.ofCode? x.fmt).bind fun t => withRnd (fun r => .vdot h t r d a b)
  | 0x0A => some (.vabs h bk d a)
  | 0x0B => some (.vneg h bk d a)
  | 0x0C => withRnd (fun r => .vrcp h bk r d a)
  | 0x0D => withRnd (fun r => .vrsq h bk r d a)
  | 0x0E => withRnd (fun r => .vsqrt h bk r d a)
  | 0x0F => withRnd (fun r => .vexp2 h bk r d a)
  | 0x10 => withRnd (fun r => .vlog2 h bk r d a)
  | 0x11 => some (.vmov h bk d a)
  | 0x12 => some (.vbcast h bk d a)
  | 0x13 => some (.vext h d a b)
  | 0x14 => some (.vperm h bk d a b)
  | 0x15 => some (.vrot h bk d a b)
  | 0x16 => some (.viadd h bk x.satB d a b)
  | 0x17 => some (.visub h bk x.satB d a b)
  | 0x18 => some (.vimul h bk x.satB d a b)
  | 0x19 => some (.vimad h bk x.satB d a b)
  | 0x1A => some (.vand h bk d a b)
  | 0x1B => some (.vor h bk d a b)
  | 0x1C => some (.vxor h bk d a b)
  | 0x1D => some (.vshl h bk d a b)
  | 0x1E => some (.vshr h bk d a b)
  | 0x1F => some (.vfshl h bk d a b x.srcc)
  | 0x20 => some (.vfshr h bk d a b x.srcc)
  | 0x21 => some (.vpopc h bk d a)
  | 0x22 => withRnd (fun r => .vcvt h bk r x.satB x.fmt (x.srcc.extractLsb' 0 5) d a)
  | 0x23 => withRnd (fun r => .vpack h bk r x.satB x.fmt (x.srcc.extractLsb' 0 2) d a)
  | 0x24 => some (.vunpk h bk x.fmt (x.srcc.extractLsb' 0 2) d a)
  | 0x25 => withRnd (fun r => .vsmax h r d a b x.srcc)
  | 0x26 => withRnd (fun r => .vsmrg h r d a b x.srcc)
  | 0x27 => withRnd (fun r => .vscal h bk r d a b)
  | _ => none

/-- SUB of major 0b111010 (R245, R312). -/
def memInstr (f : First) (x : XO) : Option Instr :=
  let h := f.hdr
  let d := f.d
  let a := f.a
  let b := f.b
  let withScope (k : Scope → Instr) : Option Instr := (Scope.ofCode? x.scope).map k
  let dbl := f.lo
  let u := f.fn.getLsbD 1
  let ord := Ord4.ofCode x.ord
  match x.sub.toNat with
  | 0x00 => withScope (fun s => .lda h (Size.ofCode f.fn) s d a)
  | 0x01 => withScope (fun s => .strel h (Size.ofCode f.fn) s d a)
  | 0x02 => (Ord3.ofCode? x.ord).bind fun o => withScope (fun s => .fence h s o)
  | 0x03 => withScope (fun s => .amoAdd h dbl s ord d a b)
  | 0x04 => withScope (fun s => .amoAnd h dbl s ord d a b)
  | 0x05 => withScope (fun s => .amoOr h dbl s ord d a b)
  | 0x06 => withScope (fun s => .amoXor h dbl s ord d a b)
  | 0x07 => withScope (fun s => .amoMin h u dbl s ord d a b)
  | 0x08 => withScope (fun s => .amoMax h u dbl s ord d a b)
  | 0x09 => withScope (fun s => .amoSwp h dbl s ord d a b)
  | 0x0A => withScope (fun s => .amocas h dbl s ord d a b x.srcc)
  | 0x0B => (Rnd.ofCode? x.rnd).bind fun r => withScope (fun s => .amofadd h r s ord d a b)
  | 0x0C => some (.vlds h x.block d a b)
  | 0x0D => some (.vsts h x.block d a b)
  | 0x0E => some (.vgath h d a b)
  | 0x0F => some (.vscat h d a b)
  | _ => none

/-- SUB of the XO majors (R245). -/
def xoInstr (f : First) (x : XO) : Option Instr :=
  let h := f.hdr
  match f.major.toNat with
  | 0x38 =>
    match x.sub.toNat with
    | 0x00 => some (.fshl h f.d f.a f.b x.srcc)
    | 0x01 => some (.fshr h f.d f.a f.b x.srcc)
    | 0x02 => some (.sel h f.d f.a f.b x.srcc)
    | _ => none
  | 0x39 => vecInstr f x
  | 0x3A => memInstr f x
  | 0x3B =>
    match x.sub.toNat with
    | 0x00 => (SuspOp.ofCode? (x.scope ++ x.ord)).bind fun op => (Rnd.ofCode? x.rnd).map fun r =>
        .susp h op f.d f.a f.b x.srcc x.fmt r x.satB x.brows x.bcols
    | 0x01 => some (.suspc h f.d f.a f.b x.srcc x.fmt x.ord x.brows x.bcols)
    | 0x02 => some (.sendc h f.d f.a f.b x.fmt)
    | 0x03 => some (.mcmd h f.d f.a f.b x.fmt)
    | _ => none
  | _ => none

/-- SUB of the XI majors (R246). -/
def xiInstr (f : First) (sub : BitVec 6) (imm : BitVec 26) : Option Instr :=
  let h := f.hdr
  match f.major.toNat with
  | 0x3C =>
    if 0x30 ≤ sub.toNat then some (.hint f.stall (sub.extractLsb' 0 4) imm)
    else
      match sub.toNat with
      | 0x00 =>
        let n := imm.extractLsb' 0 12
        pick f.fn (some (.csrr h f.d n)) (some (.csrw h f.d f.a n)) (some (.csrs h f.d f.a n))
          (some (.csrc h f.d f.a n))
      | 0x01 => some (.loopi h (imm.extractLsb' 12 14) (imm.extractLsb' 0 12))
      | 0x02 => some (.rpt h (imm.extractLsb' 14 4) (imm.extractLsb' 8 6) (imm.extractLsb' 0 8))
      | _ => none
  | 0x3D =>
    match sub.toNat with
    | 0x00 => some (.lop3 h f.d f.a f.b (imm.extractLsb' 8 6) (imm.extractLsb' 0 8))
    | 0x01 => some (.vlop3 h f.d f.a f.b (imm.extractLsb' 8 6) (imm.extractLsb' 0 8))
    | 0x02 => some (.extr h f.d f.a (imm.extractLsb' 0 6) (imm.extractLsb' 6 6))
    | 0x03 => some (.ins h f.d f.a (imm.extractLsb' 0 6) (imm.extractLsb' 6 6))
    | _ => none
  | 0x3E =>
    match sub.toNat with
    | 0x00 => some (.ldXi h (Size.ofCode f.fn) f.d f.a imm)
    | 0x01 => (USize3.ofCode? f.fn).map (fun sz => .ldUXi h sz f.d f.a imm)
    | 0x02 => some (.stXi h (Size.ofCode f.fn) f.d f.a imm)
    | 0x03 => some (.vldXi h f.d f.a imm)
    | 0x04 => some (.vstXi h f.d f.a imm)
    | 0x05 => some (.hrdXi h f.d f.a imm)
    | 0x06 => some (.hwrXi h f.d f.a imm)
    | 0x07 => some (.hvldXi h f.d f.a imm)
    | 0x08 => some (.hvstXi h f.d f.a imm)
    | _ => none
  | _ => none

/-- SUB of the XW major, which lies in first-word bits 5:0 (R242, R246). -/
def xwInstr (f : First) (imm : BitVec 32) : Option Instr :=
  let h := f.hdr
  match f.b.toNat with
  | 0x00 => some (.movi h f.d imm)
  | 0x01 => some (.li64 h f.d f.a imm)
  | 0x02 => some (.addiXw h f.d f.a imm)
  | 0x03 => some (.mrset h (f.d.extractLsb' 0 2) imm)
  | _ => none

/-- The instruction of a slot, before its unused fields are checked (R242). -/
def slotInstr : Raw → Option Instr
  | .base f => baseInstr f
  | .xo f x => xoInstr f x
  | .xi f sub imm => xiInstr f sub imm
  | .xw f imm => xwInstr f imm

/-- HINT is the one exception to the check of unused fields (R248). -/
def isHint : Instr → Bool
  | .hint .. => true
  | _ => false

/-- R242 and R247: the slot's instruction, when its operands and options are accepted and every field it does not
use holds what its encoding writes there. `none` traps ILLEGAL_INSTRUCTION. -/
def decodeRaw (r : Raw) : Option Instr :=
  match slotInstr r with
  | none => none
  | some i => if Machine.formOk i && (isHint i || toRaw i == some r) then some i else none

/-- The instruction at two consecutive words; a one-word instruction ignores the second (R228). -/
def decodeWords (w0 w1 : Word32) : Option Instr :=
  decodeRaw (Raw.ofWords w0 w1)

/-- A 32-bit word of four bytes, the lowest address first (R4). -/
def wordLE (b0 b1 b2 b3 : Byte) : Word32 :=
  b3 ++ b2 ++ b1 ++ b0

/-- The four bytes of a word, lowest address first (R4). -/
def bytesLE (w : Word32) : List Byte :=
  [w.extractLsb' 0 8, w.extractLsb' 8 8, w.extractLsb' 16 8, w.extractLsb' 24 8]

/-- The instruction at the front of a list of bytes, with the bytes after it; `none` where no word is there, where a
second word is missing, or where the word is refused. -/
def decode : List Byte → Option (Instr × List Byte)
  | b0 :: b1 :: b2 :: b3 :: rest =>
    let w0 := wordLE b0 b1 b2 b3
    if twoWords w0 then
      match rest with
      | c0 :: c1 :: c2 :: c3 :: rest' => (decodeWords w0 (wordLE c0 c1 c2 c3)).map (·, rest')
      | _ => none
    else (decodeWords w0 0).map (·, rest)
  | _ => none

/-! ### The encoder -/

/-- The words of an instruction; none for an event row. -/
def encode (i : Instr) : List Word32 :=
  match toRaw i with
  | some r => r.words
  | none => []

/-- The bytes of an instruction as memory holds them (R4). -/
def encodeBytes (i : Instr) : List Byte :=
  (encode i).flatMap bytesLE

/-- The length of an instruction in bytes (R228). -/
def instrBytes (i : Instr) : Nat :=
  4 * (encode i).length

/-- The instruction that the decoder reads from an opcode-table row's bits: bit 0 of `w` is the least significant bit
of the first word, bits 63:32 are the second word; every bit from `nbits` on is 0. -/
def decodeTableWord (nbits w : Nat) : Option Instr :=
  let v := w % 2 ^ nbits
  (decode (bytesLE (BitVec.ofNat 32 v) ++ bytesLE (BitVec.ofNat 32 (v / 2 ^ 32)))).map (·.1)

end Sys2Proof
end

