-- ==== Sys2Proof/Machine/Operands.lean ====
section
/-!
DEFINITION. Sys2Proof/Machine/Operands.lean: reading operands (R231 to R235), writing results, the distance history, the
scoreboard, hardware loops (R255) and repeat frames (R237), and what completing an instruction does.
-/

namespace Sys2Proof.Machine

open Sys2Proof

/-- The number of a class in a scoreboard entry. -/
def Cls.num : Cls → Nat
  | .g => 0
  | .v => 1
  | .h => 2
  | .p => 3

/-- The register of a class as it stands, in the low bits of 512; g0 reads zero and p0 reads 0xFFFF (R231, R233). -/
def Context.reg (c : Context) (k : Cls) (n : Nat) : Vec :=
  match k with
  | .g => if n = 0 then 0 else (c.g.get 0 n).zeroExtend 512
  | .v => c.v.get 0 n
  | .h => (c.h.get 0 n).zeroExtend 512
  | .p => if n = 0 then 0xFFFF else (c.p.get 0 n).zeroExtend 512

/-- A register that is written whole loses its poison (R224). -/
def Context.cleanReg (c : Context) (k : Cls) (n : Nat) : Context :=
  { c with ecc := List.filter (fun e => !(e.1 == k.num && e.2.1 == n)) c.ecc }

/-- The poisoned pieces of v register `n` that a write of the lanes of `m` leaves: a piece is two lanes, and only one that is
written whole is clean (R224). -/
def Context.keptPieces (c : Context) (n : Nat) (m : Mask) : List (Nat × Nat × Nat) :=
  c.ecc.filter fun e => e.1 == Cls.num .v && e.2.1 == n && !(m.getLsbD (2 * e.2.2) && m.getLsbD (2 * e.2.2 + 1))

/-- Write a register of a class; a write to g0 or p0 is dropped (R231, R233). -/
def Context.setReg (c : Context) (k : Cls) (n : Nat) (x : Vec) : Context :=
  let c := c.cleanReg k n
  match k with
  | .g => if n = 0 then c else { c with g := c.g.set 0 n (x.truncate 64) }
  | .v => { c with v := c.v.set 0 n x }
  | .h => { c with h := c.h.set 0 n (x.truncate 64) }
  | .p => if n = 0 then c else { c with p := c.p.set 0 n (x.truncate 16) }

/-- A value cut to its class: 64 bits for g and h, 16 for p (R232). -/
def cut (k : Cls) (x : Vec) : Vec :=
  match k with
  | .g => (x.truncate 64 : Word).zeroExtend 512
  | .v => x
  | .h => (x.truncate 64 : Word).zeroExtend 512
  | .p => (x.truncate 16 : Mask).zeroExtend 512

/-- The first outstanding fixed-latency write of a register that is still early (R235). -/
def Context.earlyPend (c : Context) (k : Cls) (n : Nat) : Option Pend :=
  c.pend.find? (fun e => e.cls == k.num && e.idx == n && decide (c.dist < e.readyAt))

/-- Reading a field in a class (R231, R232, R235): a distance operand reads the history; an early read gives the value
from before the write. -/
def Context.src (c : Context) (k : Cls) (f : Fld) : Vec :=
  if 56 ≤ f.toNat then cut k (c.hist.getD (f.toNat - 56) 0)
  else
    match c.earlyPend k f.toNat with
    | some e => e.old
    | none => c.reg k f.toNat

/-- A g source. -/
def Context.srcG (c : Context) (f : Fld) : Word :=
  (c.src .g f).truncate 64

/-- An h source. -/
def Context.srcH (c : Context) (f : Fld) : Word :=
  (c.src .h f).truncate 64

/-- A v source. -/
def Context.srcV (c : Context) (f : Fld) : Vec :=
  c.src .v f

/-- A p source. -/
def Context.srcP (c : Context) (f : Fld) : Mask :=
  (c.src .p f).truncate 16

/-- Register g n of a run, read like a source. -/
def Context.runG (c : Context) (f : Fld) (n : Nat) : Word :=
  c.srcG (f + BitVec.ofNat 6 n)

/-- Whether a distance operand names an entry that was never pushed (R232). -/
def Context.undefinedDist (c : Context) (f : Fld) : Bool :=
  56 ≤ f.toNat && c.hist.length ≤ f.toNat - 56

/-- Whether a register field is read early (R235). -/
def Context.readsEarly (c : Context) (k : Cls) (f : Fld) : Bool :=
  f.toNat < 56 && (c.earlyPend k f.toNat).isSome

/-- Whether lanes 0 and 1 of a v field, its low 64 bits, are poisoned (R224, R305). -/
def Context.readsLowPoison (c : Context) (f : Fld) : Bool :=
  if 56 ≤ f.toNat then c.histEcc.contains (f.toNat - 56, 0) else c.ecc.contains (Cls.num .v, f.toNat, 0)

/-- Whether a field names a register, or an entry of the distance history, whose bits of the class are poisoned (R224). -/
def Context.readsPoison (c : Context) (k : Cls) (f : Fld) : Bool :=
  if 56 ≤ f.toNat then c.histEcc.any fun e => e.1 == f.toNat - 56 && (e.2 == 0 || k == .v)
  else c.ecc.any fun e => e.1 == k.num && e.2.1 == f.toNat

/-- The cause of reading these fields, in the order of R273: DISTANCE_UNDEFINED over all of them, then UNDERSIZED_STALL
under CTX.SCHK; last, UNCORRECTABLE_ECC where what is consumed is poisoned (R224; DESIGN CHOICE, log entry 48). -/
def Context.causeOf (c : Context) (l : List (Cls × Fld)) (poisoned : Bool) : Option Nat :=
  if l.any (fun e => c.undefinedDist e.2) then some 0x002
  else if c.schk && l.any (fun e => c.readsEarly e.1 e.2) then some 0x003
  else if poisoned then some 0x160
  else none

/-- The cause of reading these fields whole. -/
def Context.readTrap (c : Context) (l : List (Cls × Fld)) : Option Nat :=
  c.causeOf l (l.any fun e => c.readsPoison e.1 e.2)

/-- The predicate field of a header as a field of class p. -/
def predFld (h : Hdr) : Fld :=
  h.pred.zeroExtend 6

/-- A, the active lanes (R233). -/
def Context.active (c : Context) (h : Hdr) : Mask :=
  c.srcP (predFld h) &&& c.lmask

/-- The cause of reading the predicate. -/
def Context.predTrap (c : Context) (h : Hdr) : Option Nat :=
  c.readTrap [(.p, predFld h)]

/-- The registers of a v field under a block extent, in block order (R234); a distance operand or the discard stands
for itself. -/
def blockFlds (bk : Block) (f : Fld) : List Fld :=
  if 56 ≤ f.toNat then [f]
  else
    (List.range (bk.rows1.toNat + 1)).flatMap fun i =>
      (List.range (bk.cols1.toNat + 1)).map fun j =>
        BitVec.ofNat 6 ((f.toNat / 8 + i) * 8 + (f.toNat % 8 + j))

/-- The number of registers of a block. -/
def blockSize (bk : Block) : Nat :=
  (bk.rows1.toNat + 1) * (bk.cols1.toNat + 1)

/-- Register `r` of a v field under a block, as a field: the field itself where it is a distance operand (R234). -/
def blockFld (bk : Block) (f : Fld) (r : Nat) : Fld :=
  if 56 ≤ f.toNat then f
  else
    BitVec.ofNat 6 ((f.toNat / 8 + r / (bk.cols1.toNat + 1)) * 8 + (f.toNat % 8 + r % (bk.cols1.toNat + 1)))

/-- A v field as sources of class v under a block. -/
def blockSrcs (bk : Block) (f : Fld) : List (Cls × Fld) :=
  (blockFlds bk f).map fun x => (.v, x)

/-! ### Results -/

/-- A latency: a fixed count of R274 or R294, or variable, which is interlocked. -/
inductive Lat
  | fixed (n : Nat)
  | variable_
deriving DecidableEq, Repr

/-- Write a register with a latency: the value before a fixed-latency write stays on the scoreboard until it can no
longer be read early; a variable-latency write comes after every outstanding one (R235). -/
def Context.writeReg (c : Context) (lat : Lat) (k : Cls) (n : Nat) (x : Vec) : Context :=
  match lat with
  | .fixed l =>
    let c' := c.setReg k n x
    if l ≤ 1 then c'
    else { c' with pend := c'.pend ++ [{ cls := k.num, idx := n, readyAt := c.dist + l, old := c.reg k n }] }
  | .variable_ =>
    let c' := c.setReg k n x
    { c' with pend := c'.pend.filter (fun e => !(e.cls == k.num && e.idx == n)) }

/-- The latency of what a per-lane instruction writes: with no active lane it writes nothing, so nothing is early (R235, R291; DEDUCED,
log entry 54). -/
def laneLat (m : Mask) (lat : Lat) : Lat :=
  if m = 0 then .fixed 1 else lat

/-- Write the lanes of `m` of a v register, of which `x` is the value with the other lanes as they were. -/
def Context.writeLanes (c : Context) (lat : Lat) (n : Nat) (m : Mask) (x : Vec) : Context :=
  let c' := c.writeReg (laneLat m lat) .v n x
  { c' with ecc := c'.ecc ++ c.keptPieces n m }

/-- Push a distance entry; eight are kept, the newest first (R232). -/
def Context.push (c : Context) (x : Vec) : Context :=
  { c with hist := (x :: c.hist).take 8, histEcc := (c.histEcc.map fun e => (e.1 + 1, e.2)).filter (·.1 < 8) }

/-- The newest entry has the poison of a register that it holds bits of (R224, R232). -/
def Context.entryEcc (c : Context) (l : List (Nat × Nat × Nat)) : Context :=
  { c with histEcc := (l.map fun e => (0, e.2.2)) ++ c.histEcc }

/-- The poison of a register. -/
def Context.regEcc (c : Context) (k : Cls) (n : Nat) : List (Nat × Nat × Nat) :=
  c.ecc.filter fun e => e.1 == k.num && e.2.1 == n

/-- Whether a register of a class drops what is written to it: g0 and p0 (R231, R233). -/
def drops (k : Cls) (n : Nat) : Bool :=
  n == 0 && (k == .g || k == .p)

/-- `Dst(d, class, value)` of R241: the destination field written, 63 and g0 dropped, and the entry pushed: what the
destination holds after, or for a discard and for g0 the value computed (R232) (log entry 16). -/
def Context.dst (c : Context) (lat : Lat) (k : Cls) (d : Fld) (x : Vec) : Context :=
  let y := cut k x
  if 56 ≤ d.toNat then c.push y
  else if drops k d.toNat then c.push (if k = .p then c.reg .p 0 else y)
  else (c.writeReg lat k d.toNat y).push y

/-- The same for the lanes of `m` of a v destination. -/
def Context.dstLanes (c : Context) (lat : Lat) (d : Fld) (m : Mask) (x : Vec) : Context :=
  if 56 ≤ d.toNat then c.push x else ((c.writeLanes lat d.toNat m x).push x).entryEcc (c.keptPieces d.toNat m)

/-- A destination written without an entry: the predicate of a b field (R340). -/
def Context.dstNoEntry (c : Context) (lat : Lat) (k : Cls) (d : Fld) (x : Vec) : Context :=
  if 56 ≤ d.toNat || drops k d.toNat then c else c.writeReg lat k d.toNat (cut k x)

/-- The entry of an instruction that leaves its destination unchanged: the value it holds, or zero for a discard
(R232, R273). -/
def Context.pushUnchanged (c : Context) (k : Cls) (d : Fld) : Context :=
  if 56 ≤ d.toNat then c.push 0 else (c.push (c.reg k d.toNat)).entryEcc (c.regEcc k d.toNat)

/-! ### Completing an instruction -/

/-- Bytes of a one-word and of a two-word instruction (R228). -/
def oneWord : Nat := 4
def twoWord : Nat := 8

/-- R255, no transfer of control: count iterations where the next pc is the exit of the innermost loop and the
instruction lies in its body. -/
def loopCount : List Loop → Word → Word → List Loop × Word
  | [], _, n => ([], n)
  | l :: ls, a, n =>
    if n = l.exit ∧ l.start.toNat ≤ a.toNat ∧ a.toNat < l.exit.toNat then
      if 1 < l.rem then ({ l with rem := l.rem - 1 } :: ls, l.start) else loopCount ls a n
    else (l :: ls, n)

/-- R255, a transfer of control: discard every loop whose body the target leaves. -/
def loopLeave : List Loop → Word → List Loop
  | [], _ => []
  | l :: ls, n => if l.start.toNat ≤ n.toNat ∧ n.toNat < l.exit.toNat then l :: ls else loopLeave ls n

/-- The scoreboard position and the issue cycle after an instruction with stall count `s` (R235); outstanding writes
that no later read can find early are dropped. -/
def Context.passed (c : Context) (clock : Nat) (stall : BitVec 3) : Context :=
  let dist := c.dist + 1 + stall.toNat
  { c with
    dist := dist, notBefore := clock + 1 + stall.toNat, replies := [], parts := none, retry := none
    pend := c.pend.filter (fun e => decide (dist < e.readyAt)) }

/-- The next pc of an instruction that transfers nothing, with the loop rules (R255). -/
def Context.fallTo (c : Context) (a n : Word) : Context :=
  let (ls, n') := loopCount c.loops a n
  { c with loops := ls, pc := n' }

/-- The pc after an instruction of `len` bytes: in a repeat frame, capture or replay goes on (R237); else the loop
rules apply. -/
def Context.sequel (c : Context) (len : Nat) : Context :=
  let a := c.pc
  let n := a + BitVec.ofNat 64 len
  match c.frame with
  | none => c.fallTo a n
  | some fr =>
    if fr.replay = 0 then
      let caps := fr.caps ++ (match c.ir with | some i => [(a, i)] | none => [])
      if caps.length < fr.len then { c with frame := some { fr with caps }, pc := n }
      else if fr.count ≤ 1 then { c with frame := none }.fallTo a n
      else
        match caps with
        | [] => { c with frame := none }.fallTo a n
        | (a0, _) :: _ => { c with frame := some { fr with caps, replay := 1, pos := 0 }, pc := a0 }
    else
      match fr.caps[fr.pos + 1]? with
      | some (a', _) => { c with frame := some { fr with pos := fr.pos + 1 }, pc := a' }
      | none =>
        if fr.replay + 1 < fr.count then
          match fr.caps with
          | [] => { c with frame := none }.fallTo a n
          | (a0, _) :: _ => { c with frame := some { fr with replay := fr.replay + 1, pos := 0 }, pc := a0 }
        else { c with frame := none }.fallTo a n

/-- The issuing context after its instruction has completed without a transfer of control. -/
def Context.complete (c : Context) (clock : Nat) (h : Hdr) (len : Nat) : Context :=
  (c.passed clock h.stall).sequel len

/-- The issuing context after a taken transfer to `t` (R252, R255). -/
def Context.jumped (c : Context) (clock : Nat) (h : Hdr) (t : Word) : Context :=
  let c := c.passed clock h.stall
  { c with loops := loopLeave c.loops t, pc := t }

/-- Complete the issuing instruction with its context changed by `f` first. -/
def State.done (s : State) (h : Hdr) (len : Nat) (f : Context → Context) : State :=
  s.setCtx ((f s.ctx).complete s.clock h len)

/-- Leave the instruction at the pc: the context stays Ready and issues it again, no earlier than the next cycle
(R56: an interlock). -/
def State.again (s : State) : State :=
  s.modCtx fun c => { c with notBefore := s.clock + 1 }

/-- Leave the instruction at the pc, stalled on a full FIFO, inbox or queue (R56, R61): the context stays Ready and has not issued,
so that another context of the core may issue in the cycle; it is looked at again in the next. -/
def State.stalledFull (s : State) : State :=
  { s.modCtx fun c => { c with st := .ready, full := true } with issued := s.issued.erase s.cur }

/-! ### The shape of an instruction -/

/-- The trap of an operand that cannot be read. Poisoned bits of a register or of an inbox slot have no virtual address, so
TRAP.ADDR of UNCORRECTABLE_ECC is a free value (DESIGN CHOICE, log entry 48). -/
def State.operandTrap (s : State) (code acc : Nat) : State :=
  if code = 0x160 then { s with fresh := s.fresh + 1 }.trap { code, acc, addr := Config.freeWord s.fresh }
  else s.trap { code, acc }


/-- The shape of every instruction that is not per lane (R233, R249, R273, R309, R326, R340, R359): the predicate is read
first; with no active lane there is no effect but the entry of a result-producing one (`res`), the unchanged
destination; then the other sources are read, whose cause is `cause`; then `act` on the state. -/
def State.guardedBy (s : State) (h : Hdr) (len : Nat) (res : Option (Cls × Fld)) (cause : Context → Option Nat)
    (act : State → State) : State :=
  let c := s.ctx
  match c.predTrap h with
  | some code => s.operandTrap code 0
  | none =>
    if c.active h = 0 then
      s.done h len fun c => match res with | some (k, d) => c.pushUnchanged k d | none => c
    else
      match cause c with
      | some code => s.operandTrap code 0
      | none => act s

/-- The same, for an instruction that reads its sources whole. -/
def State.guarded (s : State) (h : Hdr) (len : Nat) (res : Option (Cls × Fld)) (srcs : List (Cls × Fld))
    (act : State → State) : State :=
  s.guardedBy h len res (·.readTrap srcs) act

/-- The shape of a per-lane instruction or a reduction (R291): the predicate and every source are read, whatever lanes are
active, and their causes are looked for together. -/
def State.laneGuarded (s : State) (h : Hdr) (srcs : List (Cls × Fld)) (act : Context → Context) : State :=
  match s.ctx.readTrap ((.p, predFld h) :: srcs) with
  | some code => s.operandTrap code 0
  | none => s.done h twoWord act

/-- The scalar instructions (R273): as `guarded`, then the result is written with its latency. -/
def State.scalar (s : State) (h : Hdr) (len : Nat) (lat : Lat) (k : Cls) (d : Fld) (srcs : List (Cls × Fld))
    (f : Context → Vec) : State :=
  s.guarded h len (some (k, d)) srcs fun s => s.done h len fun c => c.dst lat k d (f c)

/-- Whether a repeat frame of the context is being captured. -/
def Context.capturing (c : Context) : Bool :=
  match c.frame with
  | some fr => fr.replay == 0
  | none => false

/-- A g operand. -/
def gs (f : Fld) : Cls × Fld := (.g, f)

/-- A 64-bit value as a result. -/
def ofWord (w : Word) : Vec :=
  w.zeroExtend 512

/-- A 16-bit value as a result. -/
def ofMask (m : Mask) : Vec :=
  m.zeroExtend 512

end Sys2Proof.Machine
end

