-- ==== Sys2Proof/Machine/Inbox.lean ====
section
/-!
DEFINITION. Sys2Proof/Machine/Inbox.lean: messages (R66, R413), the handler table (R68 to R70), acceptance into the inbox
and the ranked stores (R69 to R77), binding (R57, R61), the end of an activation (R262), and wakes (R60).
-/

namespace Sys2Proof

open Machine

/-- Fields of a message header (R66). -/
def Msg.key (m : Msg) : Nat := field m.w0 63 48
def Msg.tag (m : Msg) : Nat := field m.w0 43 32
def Msg.inf (m : Msg) : Bool := m.w0.getLsbD 31
def Msg.kind (m : Msg) : Nat := field m.w0 30 29
def Msg.len (m : Msg) : Nat := field m.w0 28 20
def Msg.src (m : Msg) : Nat := field m.w0 12 0
def Msg.dst (m : Msg) : Nat := field m.w1 63 51
def Msg.aux (m : Msg) : Nat := field m.w1 31 0

end Sys2Proof

namespace Sys2Proof.Machine

open Sys2Proof

/-! ### Headers (R66) -/

/-- Header word 0. -/
def headerWord (key tag : Nat) (inf : Bool) (kind len sctx src : Nat) : Word :=
  at_ 48 (key % 65536) ||| at_ 32 (tag % 4096) ||| bitAt 31 inf ||| at_ 29 (kind % 4) ||| at_ 20 (len % 512)
    ||| at_ 13 (sctx % 8) ||| at_ 0 (src % 8192)

/-- Header word 1. -/
def headerWord1 (dst aux : Nat) : Word :=
  at_ 51 (dst % 8192) ||| at_ 0 (aux % 2 ^ 32)

/-- A message of the device (R413). -/
def deviceMsg (kind tag dst src sctx aux : Nat) (payload : List Byte) : Msg :=
  { w0 := headerWord 0 tag false kind payload.length sctx src, w1 := headerWord1 dst aux, payload, own := true }

/-- An engine event (R361): the fields of the context that pushed the command, the status as payload. -/
def eventMsg (tag dst : Nat) (src : CtxId) (inf : Bool) (aux : Nat) (status : Word) (xfer : Bool) : Msg :=
  { w0 := headerWord 0 tag inf 3 8 src.ctx src.core, w1 := headerWord1 dst aux, payload := bytesOfWord status, xfer }

/-- Put a message on its way. -/
def State.post (s : State) (m : Msg) : State :=
  s.later .messageAccept { msg := m }

/-- PART.p and its fields (R408). -/
def State.part (s : State) (p : Nat) : Word := s.mgmt.parts.get 0 p
def partV (w : Word) : Bool := w.getLsbD 63
def partEvcore (w : Word) : Nat := field w 62 50
def partLtag (w : Word) : Nat := field w 47 36
def partTtag (w : Word) : Nat := field w 35 24
def partMtag (w : Word) : Nat := field w 23 12
def partKtag (w : Word) : Nat := field w 11 0

/-- The one reply of a kernel command (R409): its status, and a payload of zero, to the event core of the partition. -/
def State.kcmdReply (s : State) (p status : Nat) : State :=
  let w := s.part p
  s.post (deviceMsg 3 (partMtag w) (partEvcore w) (partEvcore w) 0 status (bytesOfWord 0))

/-! ### Handler-table entries (R68) -/

def TagEnt.v (e : TagEnt) : Bool := e.word.getLsbD 63
def TagEnt.blk (e : TagEnt) : Bool := e.word.getLsbD 60
def TagEnt.cen (e : TagEnt) : Bool := e.word.getLsbD 59
def TagEnt.kind (e : TagEnt) : Nat := field e.word 58 57
def TagEnt.prio (e : TagEnt) : BitVec 2 := e.word.extractLsb' 55 2
/-- Ranked depth k. -/
def TagEnt.depth (e : TagEnt) : Nat := field e.word 54 51 + 1
def TagEnt.keyf (e : TagEnt) : Bool := e.word.getLsbD 50
def TagEnt.fire (e : TagEnt) : Nat := field e.word 49 44
def TagEnt.tag (e : TagEnt) : Nat := field e.word 43 32
def TagEnt.hoff (e : TagEnt) : Nat := field e.word 31 2 * 4
def TagEnt.infr (e : TagEnt) : Bool := e.word.getLsbD 1

/-- An entry of a core. -/
def Core.tag (k : Core) (n : Nat) : TagEnt := k.tags.get {} n

def Core.setTag (k : Core) (n : Nat) (e : TagEnt) : Core :=
  { k with tags := k.tags.put n e }

/-- An entry as TAG.ENT.n reads (R68, R70). -/
def TagEnt.reg (e : TagEnt) : Word :=
  e.word ||| bitAt 62 e.en ||| bitAt 61 e.pend

/-- The entry that a tag selects (R69). -/
def Core.match_ (k : Core) (tag : Nat) : Option Nat :=
  (List.range 64).find? fun n => (k.tag n).v && (k.tag n).tag == tag

/-! ### Waits that end (R60) -/

/-- A waiting context goes on after its instruction, with the result it waited for. -/
def Context.finishWait (c : Context) (clock : Nat) (w : Wait) (res : Option (Fld × Word)) : Context :=
  let c := { c with st := .ready, wait := none, waiter := none }
  let c := match res with
    | some (d, x) => c.dst .variable_ .g d (ofWord x)
    | none => c
  c.complete clock w.h oneWord

/-- A waiting context issues its instruction again: a FORCE examines its object anew (R127). -/
def Context.rewait (c : Context) : Context :=
  { c with st := .ready, wait := none, waiter := none }

/-- The status of event `ev` of a transfer (R370, R371): none while it has not occurred. -/
def Core.copyStatus (k : Core) (id : Nat) : Option Word :=
  match k.copyLog.find? fun t => t.id == id % 65536 with
  | some t => if id / 65536 % 2 = 1 then t.vis else t.free
  | none => none

/-- The physical address of a save image that is read or written (R64, R146, R223, R271; DESIGN CHOICE, log entry 33): SAVE.BASE
is physical, an operand is translated in the space of the die. The memory of another die that has stopped answers nothing (R226). -/
def State.imagePa (s : State) (d addr : Nat) (virt : Bool) (k : Kind) : Option Nat :=
  if virt then
    match s.translateIn d (s.die d).space addr with
    | .ok x => if permits x.pte k ∧ (servingDie x.pa = d ∨ !(s.die (servingDie x.pa)).stopped) then some x.pa else none
    | .error _ => none
  else if isHbm addr ∧ (servingDie addr = d ∨ !(s.die (servingDie addr)).stopped) then some addr else none

/-- The migration that holds a page of a save image of `n` bytes at a virtual address (R156). -/
def State.imageHold (s : State) (d addr n : Nat) (virt : Bool) : Option Stall :=
  if virt then
    [addr, addr + n - 1].findSome? fun a =>
      match s.translateIn d (s.die d).space a with
      | .ok x => x.held.map fun f => .migration f (x.passage (spaceSid (s.die d).space) a)
      | .error _ => none
  else none

/-- The pending-wake bit of a saved image is set in its header (R60, R64). -/
def State.wakeImage (s : State) (i : CtxId) : State :=
  match (s.ctxAt i).image with
  | none => s
  | some (addr, virt) =>
    match s.imagePa (coreDie i.core) addr virt .store with
    | none => s
    | some pa => s.writeByte (pa + 2) (s.readByte (pa + 2) ||| 0x10)

/-- What a wake does to a context (R60, R127, R264, R367, R371). -/
def State.wakeCtx (s : State) (i : CtxId) : State :=
  let c := s.ctxAt i
  match c.st with
  | .waiting =>
    match c.wait with
    | none => s
    | some w =>
      match w.kind with
      | .force _ => s.setCtxAt i c.rewait
      | .barrier _ _ => s.setCtxAt i (c.finishWait s.clock w none)
      | .kbarrier _ _ => s.setCtxAt i (c.finishWait s.clock w none)
      | .sleep _ d => s.setCtxAt i (c.finishWait s.clock w (some (d, 1)))
      | .job id d =>
        match (s.engine (coreEngine i.core)).done.find? id with
        | none => s
        | some x =>
          let s := s.modEngine (coreEngine i.core) fun e => { e with done := e.done.erase id }
          s.setCtxAt i ({ c with jobs := c.jobs.filter (· != id) }.finishWait s.clock w (some (d, x)))
      | .copy id d =>
        match (s.core i.core).copyStatus id with
        | none => s
        | some x => s.setCtxAt i (c.finishWait s.clock w (some (d, x)))
  | .saving => s.setCtxAt i { c with pendingWake := true }
  | .saved => s.wakeImage i
  | .restoring => s.setCtxAt i { c with pendingWake := true }
  | .free => s
  | .dormant => s
  | .ready => s
  | .running => s
  | .trapped => s

/-- Send a wake to a context, for the wait it is in now. -/
def State.sendWake (s : State) (i : CtxId) : State :=
  s.nextCycle .wake { evCtx i with num := match (s.ctxAt i).wait with | some w => w.since + 1 | none => 0 }

/-- Send a wake to each of several contexts. -/
def State.sendWakes (s : State) : List CtxId → State
  | [] => s
  | i :: l => (s.sendWake i).sendWakes l

/-- The contexts of a core. -/
def ctxsOf (core : Nat) : List CtxId :=
  (List.range 8).map fun n => { core, ctx := n }

/-- An arrival at the inbox ends every SLEEP of the core (R264). -/
def State.wakeSleepers (s : State) (core : Nat) : State :=
  s.sendWakes ((ctxsOf core).filter fun i =>
    (s.ctxAt i).st == .waiting && match (s.ctxAt i).wait with
      | some { kind := .sleep _ _, .. } => true
      | _ => false)

/-! ### Acceptance (R69, R71, R72, R75 to R78) -/

/-- TAG.DROP after a drop (R69). -/
def dropWord (old : Word) (m : Msg) (why : Nat) : Word :=
  at_ 52 m.tag ||| at_ 39 m.src ||| at_ 36 why ||| at_ 0 (min (field old 31 0 + 1) 0xFFFFFFFF)

/-- The reason to drop a message that an entry took (R69, R78). -/
def dropReason (k : Core) (e : TagEnt) (m : Msg) : Option Nat :=
  if m.kind ≠ e.kind then some 2
  else if m.kind = 2 ∧ (!e.cen || k.ccap == 0 || k.ccap != m.cap) then some 3
  else if m.kind = 1 ∧ m.inf ≠ e.infr then some 4
  else none

/-- The effective key of a ranked arrival; none for a refused NaN (R76). -/
def ekeyOf (keyf : Bool) (key : Nat) : Option (BitVec 16) :=
  let b : BitVec 16 := BitVec.ofNat 16 key
  if !keyf then some b
  else if field (b.zeroExtend 64) 14 7 = 0xFF ∧ field (b.zeroExtend 64) 6 0 ≠ 0 then none
  else if b.getLsbD 15 then some (~~~b) else some (b ||| 0x8000)

/-- Rank order (R75): whether `x` ranks above `y`. -/
def ranksAbove (x y : Ranked) : Bool :=
  if x.ekey ≠ y.ekey then y.ekey.ult x.ekey
  else if field x.w1 31 0 ≠ field y.w1 31 0 then field x.w1 31 0 < field y.w1 31 0
  else x.order < y.order

/-- Insert in rank order. -/
def rankInsert (x : Ranked) : List Ranked → List Ranked
  | [] => [x]
  | y :: l => if ranksAbove x y then x :: y :: l else y :: rankInsert x l

/-- The store after a ranked arrival: inserted in rank order, the first k kept; a refused NaN changes nothing (R75). -/
def TagEnt.stored (e : TagEnt) (m : Msg) : List Ranked :=
  match ekeyOf e.keyf m.key with
  | none => e.store
  | some ekey =>
    List.take e.depth (rankInsert { w0 := m.w0, w1 := m.w1, payload := m.payload, ekey, order := e.orders } e.store)

/-- Whether the count of arrivals has reached FIRE (R77); 0 means every arrival. -/
def TagEnt.fires (e : TagEnt) : Bool :=
  !e.fired && !e.pend && (e.fire == 0 || e.count == e.fire)

/-- A ranked arrival merges and counts; the one that brings the count to FIRE makes the entry pending (R75 to R77). -/
def TagEnt.merge (e : TagEnt) (m : Msg) (clock : Nat) : TagEnt :=
  let recent := List.filter (fun x => x.1 == clock) e.recent ++ [(clock, m)]
  let e' := { e with store := e.stored m, count := e.count + 1, orders := e.orders + 1, recent }
  if e'.fires then { e' with pend := true, arrival := clock, level := e'.prio, since := clock } else e'

/-- A ranked entry after an RKCLR (R348): emptied, its count 0, a binding not yet made given up; the arrivals of the same cycle act
after it (R77). -/
def TagEnt.cleared (e : TagEnt) (clock : Nat) : TagEnt :=
  let e0 : TagEnt := { e with store := [], count := 0, pend := false, fired := false, recent := [] }
  (List.filter (fun x => x.1 == clock) e.recent).foldl (fun e x => e.merge x.2 clock) e0

/-- The lowest free inbox slot (R71). -/
def Core.freeSlot (k : Core) : Option Nat :=
  (List.range 64).find? fun n => (k.inbox.find? n).isNone

/-- A message that the core takes is matched in the same cycle (R69). -/
def State.matchMsg (s : State) (core : Nat) (m : Msg) (slot : Nat) : State :=
  let k := s.core core
  match k.match_ m.tag with
  | none => s.setCore core { k with drop := dropWord k.drop m 1 }
  | some n =>
    let e := k.tag n
    let m := if m.own then { m with w0 := (m.w0 &&& ~~~(bitAt 31 true)) ||| bitAt 31 e.infr } else m
    match dropReason k e m with
    | some why => s.setCore core { k with drop := dropWord k.drop m why }
    | none =>
      let k :=
        if m.kind = 1 then
          let nan := (ekeyOf e.keyf m.key).isNone
          { k.setTag n (e.merge m s.clock) with
            nanCnt := if nan ∧ k.nanCnt ≠ BitVec.allOnes 32 then k.nanCnt + 1 else k.nanCnt }
        else
          { k.setTag n { e with pend := true } with
            inbox := k.inbox.put slot
              { msg := m, arrival := s.clock, level := e.prio, since := s.clock, entry := n, kernel := e.kernel
                bound := false } }
      (s.setCore core k).wakeSleepers core

/-- A launch message that is accepted brings the kernel that it launches nearer to Running (R85). -/
def State.launchAccepted (s : State) (m : Msg) : State :=
  match m.launch with
  | none => s
  | some kid =>
    match s.kernels.find? kid with
    | none => s
    | some k =>
      if k.state = .launched ∧ k.launching.contains m.dst then
        let left := k.launching.erase m.dst
        { s with kernels := s.kernels.put kid { k with launching := left, state := if left = [] then .running else .launched } }
      else s

/-- The slot that a message takes as it is matched: a ranked one takes none (R71, R76). -/
def Core.slotFor (k : Core) (m : Msg) : Option Nat :=
  if m.kind = 1 then some 0 else k.freeSlot

/-- Held messages are matched in their order while there is room, and the others stay in the ingress queue (R21, R69). -/
def State.deliverHeld (s : State) (core : Nat) : List Msg → State
  | [] => s.modCore core fun k => { k with hold := [] }
  | m :: l =>
    match (s.core core).slotFor m with
    | some slot => (s.matchMsg core m slot).deliverHeld core l
    | none => s.modCore core fun k => { k with hold := m :: l }

/-- One attempt to accept a message at its core: none where there is no room (R72). While HOLD is set a message takes a place of the
ingress queue; after that, the messages that the queue still holds are delivered before it in the same cycle, or there is no room for it but for a ranked
message, which needs no slot and goes behind them (R21, R344; how fast the queue empties is the choice of log entry 49). -/
def State.accept (s : State) (m : Msg) : Option State :=
  let core := m.dst
  let k := s.core core
  if s.coreHeld core then
    if k.hold.length < 64 then some ((s.setCore core { k with hold := k.hold ++ [m] }).launchAccepted m) else none
  else
    let s' := s.deliverHeld core k.hold
    let left := (s'.core core).hold
    if left ≠ [] then
      if m.kind = 1 ∧ left.length < 64 then some (s'.modCore core fun k => { k with hold := left ++ [m] }) else none
    else
      match (s'.core core).slotFor m with
      | some slot => some ((s'.matchMsg core m slot).launchAccepted m)
      | none => none

/-! ### Ending an activation (R262, R71, R372) -/

/-- An entry has something to bind while a slot of it is unbound (R70). -/
def Core.refreshPend (k : Core) (n : Nat) : Core :=
  let e := k.tag n
  if e.kind = 1 then k
  else k.setTag n { e with pend := k.inbox.any fun x => x.2.entry == n && !x.2.bound }

/-- Free the inbox slot of a context (R71). -/
def State.freeInbox (s : State) (i : CtxId) : State :=
  match (s.ctxAt i).slot with
  | none => s
  | some n => s.modCore i.core fun k => { k with inbox := k.inbox.erase n }

/-- Answer a save or restore request with its status (R222, R271): the context that asked goes on with it. -/
def State.answerSave (s : State) (asker : Option CtxId) (status : Nat) : State :=
  match asker with
  | none => s
  | some i =>
    let c := s.ctxAt i
    match c.stall with
    | some (.save h d) =>
      s.setCtxAt i (({ c with stall := none }.dst .variable_ .g d (ofWord (BitVec.ofNat 64 status))).complete s.clock h oneWord)
    | _ => s

/-- Answer every request held for a context (R222). -/
def State.answerHeld (s : State) (l : List SaveReq) (status : Nat) : State :=
  match l with
  | [] => s
  | r :: l => (s.answerSave r.asker status).answerHeld l status

/-- The statuses of jobs that nobody holds any more are dropped (R372). -/
def State.dropJobs (s : State) (i : CtxId) : State :=
  let jobs := (s.ctxAt i).jobs
  s.modEngine (coreEngine i.core) fun e => { e with done := List.filter (fun x => !jobs.contains x.1) e.done }

/-- A context whose activation has ended: its registers hold what they held, since no rule clears them before the next binding
(R57, R262), and nothing else of the activation is left. -/
def Context.ended (c : Context) (kernel : Option Nat) (st : CtxState) : Context :=
  { st, kernel, pc := c.pc, g := c.g, v := c.v, h := c.h, p := c.p, inf := c.inf, rm := c.rm, fflags := c.fflags, schk := c.schk
    fdepthLim := c.fdepthLim, fspill := c.fspill, gprog := c.gprog, lmask := c.lmask, act := c.act, trapCause := c.trapCause
    trapPc := c.trapPc, trapAddr := c.trapAddr, trapObj := c.trapObj, cpyXid := c.cpyXid, win := c.win, ecc := c.ecc }

/-- A context that a LOAD takes for a kernel: what R7 resets at allocation, its control registers, is reset. -/
def Context.allocated (c : Context) (kid : Nat) : Context :=
  { st := .dormant, kernel := some kid, pc := c.pc, g := c.g, v := c.v, h := c.h, p := c.p, ecc := c.ecc }

/-- END: Dormant, the slot freed, held pre-emption requests answered DORMANT (R222, R262). -/
def State.endActivation (s : State) (i : CtxId) : State :=
  let c := s.ctxAt i
  let s := (s.freeInbox i).dropJobs i
  let s := s.setCtxAt i (c.ended c.kernel .dormant)
  s.answerHeld c.heldReqs 1

/-! ### Binding (R57, R61) -/

/-- A message or a ranked entry that could be bound: its level, arrival, entry and sender, and the slot it is in. -/
structure Candidate where
  level   : Nat
  arrival : Nat
  entry   : Nat
  sender  : Nat
  kernel  : Nat
  slot    : Option Nat
deriving DecidableEq, Repr

/-- Which of two candidates binds first (R61). R61 leaves a tie in level, arrival cycle, entry and sender open; the one in the
lower inbox slot goes first, which `bestCandidate` meets first (DESIGN CHOICE, log entry 49). -/
def Candidate.before (x y : Candidate) : Bool :=
  if x.level ≠ y.level then y.level < x.level
  else if x.arrival ≠ y.arrival then x.arrival < y.arrival
  else if x.entry ≠ y.entry then x.entry < y.entry
  else x.sender ≤ y.sender

/-- The header of rank 0, or the one of an empty store (R57). -/
def TagEnt.rankHeader (e : TagEnt) (core : Nat) : Word × Word :=
  match e.store with
  | r :: _ => (r.w0, r.w1)
  | [] => (headerWord 0 e.tag e.infr 1 0 0 0, headerWord1 core 0)

/-- The lowest Dormant, unreserved context of a kernel (R57, R259). -/
def Core.dormantOf (k : Core) (kid : Nat) : Option Nat :=
  (List.range 8).find? fun n => (k.ctx n).st == .dormant && (k.ctx n).kernel == some kid && !(k.ctx n).reserved

/-- Everything a core could bind. -/
def State.candidates (s : State) (core : Nat) : List Candidate :=
  let k := s.core core
  let slots := k.inbox.filterMap fun (n, x) =>
    if !x.bound ∧ (k.tag x.entry).en then
      some { level := x.level.toNat, arrival := x.arrival, entry := x.entry, sender := x.msg.src, kernel := x.kernel
             slot := some n : Candidate }
    else none
  let ranked := k.tags.filterMap fun (n, e) =>
    if e.v ∧ e.kind = 1 ∧ e.pend ∧ e.en then
      some { level := e.level.toNat, arrival := e.arrival, entry := n, sender := field (e.rankHeader core).1 12 0
             kernel := e.kernel, slot := none : Candidate }
    else none
  (slots ++ ranked).filter fun x => (k.dormantOf x.kernel).isSome

/-- The candidate that binds first. -/
def bestCandidate : List Candidate → Option Candidate
  | [] => none
  | x :: l =>
    match bestCandidate l with
    | none => some x
    | some y => some (if x.before y then x else y)

/-- The starting state of an activation (R57): everything that is not named here is its reset value. -/
def startContext (kid : Nat) (k : Option Kernel) (core entry : Nat) (e : TagEnt) (w0 w1 : Word) (len kind level : Nat)
    (slot : Option Nat) (xid : Word) : Context :=
  { kernel := some kid, st := .ready, slot, cpyXid := xid, start := (w0, w1)
    pc := if kind = 2 then 0 else BitVec.ofNat 64 ((match k with | some k => k.codeBase | none => 0) + e.hoff)
    g := ((FMap.set 0 [] 1 w0).set 0 2 w1).set 0 3 (BitVec.ofNat 64 len)
    win := match k with
      | some k => (List.range 8).foldl (fun m n => m.set 0 n (k.wins.getD n 0)) []
      | none => []
    inf := e.infr
    act := { orig := core, key := BitVec.ofNat 16 (field w0 63 48), prio := BitVec.ofNat 2 level
             kind := BitVec.ofNat 2 kind, entry } }

/-- The registers that a binding takes the poisoned header words to: g1 and g2 (R57, R224). -/
def headerEcc (ecc : List Nat) : List (Nat × Nat × Nat) :=
  (if ecc.contains 0 then [(0, 1, 0)] else []) ++ (if ecc.contains 1 then [(0, 2, 0)] else [])

/-- The poisoned words of the header that a ranked binding takes: those of rank 0 (R57, R224). -/
def TagEnt.rankEcc (e : TagEnt) : List (Nat × Nat × Nat) :=
  match e.store with
  | r :: _ => headerEcc r.ecc
  | [] => []

/-- Bind a candidate to a context of the core (R57, R35, R77); the poison of a header word goes with it. Job ids that a shipped
activation left with the context stay there (R63). -/
def State.bind (s : State) (core : Nat) (x : Candidate) (n : Nat) : State :=
  let k := s.core core
  let e := k.tag x.entry
  let i : CtxId := { core, ctx := n }
  let kn := s.kernels.find? x.kernel
  match x.slot with
  | none =>
    let (w0, w1) := e.rankHeader core
    let c := startContext x.kernel kn core x.entry e w0 w1 0 1 x.level none 0
    let c := { c with ecc := e.rankEcc, startEcc := e.rankEcc, jobs := (k.ctx n).jobs }
    s.setCore core ((k.setTag x.entry { e with pend := false, fired := true }).setCtx n { c with notBefore := s.clock + 1 })
  | some sl =>
    match k.inbox.find? sl with
    | none => s
    | some m =>
      let xid : Word := if m.msg.xfer then BitVec.ofNat 64 m.msg.aux else 0
      let c := startContext x.kernel kn core x.entry e m.msg.w0 m.msg.w1 m.msg.len m.msg.kind x.level (some sl) xid
      let c := { c with ecc := headerEcc m.ecc, startEcc := headerEcc m.ecc, jobs := (k.ctx n).jobs }
      let k := { k with inbox := k.inbox.put sl { m with bound := true } }
      let s := s.setCore core ((k.refreshPend x.entry).setCtx n { c with notBefore := s.clock + 1 })
      if m.msg.inf = e.infr then s
      else s.takeTrap i c.pc { code := 0x0C0 }

/-- MESSAGE_BIND (R57). -/
def State.bindMessage (s : State) (core : Nat) : State :=
  match bestCandidate (s.candidates core) with
  | none => s
  | some x =>
    match (s.core core).dormantOf x.kernel with
    | none => s
    | some n => s.bind core x n

/-- PRIORITY_PROMOTION (R61): each message pending for 4,096 cycles at its level rises by one. -/
def State.promote (s : State) (core : Nat) : State :=
  s.modCore core fun k =>
    { k with
      inbox := k.inbox.map fun (n, x) =>
        if !x.bound ∧ x.level ≠ 3 ∧ x.since + 4096 ≤ s.clock then (n, { x with level := x.level + 1, since := x.since + 4096 })
        else (n, x)
      tags := k.tags.map fun (n, e) =>
        if e.kind = 1 ∧ e.pend ∧ e.level ≠ 3 ∧ e.since + 4096 ≤ s.clock then
          (n, { e with level := e.level + 1, since := e.since + 4096 })
        else (n, e) }

/-! ### The activation's own message (R346) -/

/-- The slot of a context. -/
def State.slotOf (s : State) (i : CtxId) : Option Slot :=
  match (s.ctxAt i).slot with
  | none => none
  | some n => (s.core i.core).inbox.find? n

/-- Whether an activation is a handler context (R74): BLK = 0 of the entry that bound it, on its core of origin; a code
activation always is. -/
def State.isHandler (s : State) (i : CtxId) : Bool :=
  let c := s.ctxAt i
  c.act.kind == 2 || !((s.core c.act.orig).tag c.act.entry).blk

/-- Whether a context runs code of its message's payload (R78), and that payload's length. A FORK child or a shipped activation
of a code message holds no slot; the spec does not say what it fetches, and the model gives it a payload of no bytes
(DESIGN CHOICE, log entry 51). -/
def State.codeLen (s : State) (i : CtxId) : Option Nat :=
  let c := s.ctxAt i
  if c.act.kind = 2 ∧ !c.trapMode then
    match s.slotOf i with
    | some m => some m.msg.len
    | none => some 0
  else none

end Sys2Proof.Machine
end

