-- ==== Sys2Proof/Machine/HeapBase.lean ====
section
/-!
DEFINITION. Sys2Proof/Machine/HeapBase.lean: handles, headers, regions and the read barrier (R105 to R119): the parts of
the heap that memory accesses need, and what stops an access.
-/

namespace Sys2Proof.Machine

open Sys2Proof

/-- Why an access cannot be performed now: a trap; a stall of the issuing context until something ends; a planned object
that must be moved first (R113); a home-execute fault (R151) on a frame homed at a cluster; a host address whose
translation must be asked for (R149); a request of an engine that must be made beyond a port (R162). -/
inductive Stop
  | trap (k : Cause)
  | hold (st : Stall)
  | claim (region granule : Nat) (h : Word)
  | ship (home : Nat) (k : Cause)
  | ats (va : Nat) (write : Bool)
  | ask (port addr : Nat) (op : ExtOp)
deriving DecidableEq, Repr

/-- Whose access it is: a core's, through its cached leaves, or a die's own unit. -/
inductive Agent
  | core (id : Nat)
  | die (d : Nat)
deriving DecidableEq, Repr

/-- The die of an agent. -/
def Agent.dieOf : Agent → Nat
  | .core id => coreDie id
  | .die d => d

/-- The space that an agent works in (R142). -/
def State.sidOf (s : State) (ag : Agent) : Nat :=
  spaceSid (s.die ag.dieOf).space

/-- Translation for an agent of an address in a paged window (R142, R147). -/
def State.xlate (s : State) (ag : Agent) (va : Nat) : Except (Nat × Nat) Xlat :=
  match ag with
  | .core id => s.translate id va
  | .die d =>
    s.translateIn d (s.die d).space va

/-- The physical address of one address in a paged window, with the permission and migration checks (R146, R156). -/
def State.vaddr (s : State) (ag : Agent) (k : Kind) (va : Nat) : Except Stop Nat :=
  if !(windowOf va).paged then .error (.trap { code := 0x040, acc := k.acc, addr := BitVec.ofNat 64 va })
  else
    match s.xlate ag va with
    | .error (code, level) => .error (.trap { code, acc := k.acc, level, addr := BitVec.ofNat 64 va })
    | .ok x =>
      if !permits x.pte k then .error (.trap { code := 0x047, acc := k.acc, level := x.level, addr := BitVec.ofNat 64 va })
      else
        match x.held with
        | some frame => .error (.hold (.migration frame (x.passage (s.sidOf ag) va)))
        | none =>
          if servingDie x.pa ≠ ag.dieOf ∧ (s.die (servingDie x.pa)).stopped then .error (.trap { code := 0x163, acc := k.acc })
          else .ok x.pa

/-- Read an aligned 8-byte word of a paged window. -/
def State.vread (s : State) (ag : Agent) (va : Nat) : Except Stop Word :=
  match s.vaddr ag .heap va with
  | .error e => .error e
  | .ok pa =>
    if s.poisoned pa then .error (.trap { code := 0x160, acc := 7, addr := BitVec.ofNat 64 va })
    else .ok (s.readWord pa)

/-- Write an aligned 8-byte word of a paged window: the hardware's own writes need R and W (R146). -/
def State.vwrite (s : State) (ag : Agent) (va : Nat) (w : Word) : Except Stop State :=
  match s.vaddr ag .heapCas va with
  | .error e => .error e
  | .ok pa => .ok (s.writeWord pa w)

/-! ### Handles (R105) -/

def hColor (h : Word) : Nat := field h 63 62
def hRegion (h : Word) : Nat := field h 47 30
def hGran (h : Word) : Nat := field h 29 4
/-- Object offset in granules: handle bits 47:4. -/
def hOff (h : Word) : Nat := field h 47 4

/-- A handle of a color and an object offset, VH 0. -/
def mkHandle (color off : Nat) : Word := at_ 62 (color % 4) ||| at_ 4 (off % 2 ^ 44)

/-- The first address of the heap window (R48). -/
def heapBase : Nat := 0x8000000000000

/-- Address of a handle's header (R105). -/
def hAddr (h : Word) : Nat := heapBase + hOff h * 16

/-- VH set by whether the target is a VALUE (R116). -/
def withVh (h : Word) (value : Bool) : Word := (h &&& ~~~8#64) ||| bitAt 3 value

/-! ### Headers (R106) -/

/-- KIND codes. -/
def kVALUE : Nat := 0
def kTHUNK : Nat := 1
def kBLACKHOLE : Nat := 2
def kINDIRECT : Nat := 3
def kFAILED : Nat := 4
def kBYTES : Nat := 5
def kSTUB : Nat := 6

def hdrKind (w : Word) : Nat := field w 63 61
def hdrRows (w : Word) : Nat := 2 ^ field w 60 58
def hdrCols (w : Word) : Nat := 2 ^ field w 57 55
def hdrFmt (w : Word) : BitVec 5 := w.extractLsb' 50 5
def hdrScaled (w : Word) : Bool := w.getLsbD 48
def hdrPcnt (w : Word) : Nat := field w 47 40
def hdrSpk (w : Word) : Bool := w.getLsbD 39
def hdrHref (w : Word) : Bool := w.getLsbD 38
def hdrSize (w : Word) : Nat := field w 31 0

/-- A reserved bit of word 1 that is not zero: all of it for VALUE and BYTES (R106), and the fields that R122 reserves for
THUNK, BLACKHOLE and FAILED. Word 1 of INDIRECT and STUB is a handle, which the barrier judges as one (log entry 43). -/
def hdrBad1 (kind : Nat) (w1 : Word) : Bool :=
  if kind = kVALUE ∨ kind = kBYTES then w1 != 0
  else if kind = kTHUNK then field w1 50 32 != 0
  else if kind = kBLACKHOLE then field w1 30 0 != 0
  else if kind = kFAILED then field w1 38 0 != 0
  else false

/-- A header with a reserved KIND or a reserved bit that is not zero, in either of its words (R106, R122). -/
def hdrBad (w w1 : Word) : Bool := hdrKind w == 7 || field w 37 32 != 0 || hdrBad1 (hdrKind w) w1

/-- PCNT replaced, with PIN following it (R106). -/
def hdrWithPcnt (w : Word) (n : Nat) : Word :=
  setField (setField w 47 40 n) 49 49 (if n = 0 then 0 else 1)

/-! ### Regions (R107) -/

/-- STATE codes of a region (R107). -/
def rFREE : Nat := 0
def rACTIVE : Nat := 1
def rMARKING : Nat := 2
def rEVACUATING : Nat := 3
def rEVACUATED : Nat := 4

/-- Address of word `i` of a region descriptor (R107); HEAP.RTBASE is a virtual address. -/
def State.regionAddr (s : State) (ag : Agent) (n i : Nat) : Nat :=
  (s.die ag.dieOf).rtbase.toNat % 2 ^ 52 + n * 64 + 8 * i

def State.regionWord (s : State) (ag : Agent) (n i : Nat) : Except Stop Word :=
  s.vread ag (s.regionAddr ag n i)

def State.setRegionWord (s : State) (ag : Agent) (n i : Nat) (w : Word) : Except Stop State :=
  s.vwrite ag (s.regionAddr ag n i) w

def rgColor (w0 : Word) : Nat := field w0 63 62
def rgState (w0 : Word) : Nat := field w0 61 59
def rgEvok (w0 : Word) : Bool := w0.getLsbD 58
def rgHome (w0 : Word) : Nat := field w0 57 55
def rgDest (w0 : Word) : Nat := field w0 47 30
def rgTop (w1 : Word) : Nat := field w1 31 0
def rgQuota (w1 : Word) : Nat := field w1 63 32
def rgFwd (w2 : Word) : Nat := field w2 51 0
def rgLive (w3 : Word) : Nat := field w3 51 0
def rgUsed (w4 : Word) : Nat := field w4 63 32
def rgLiveBytes (w4 : Word) : Nat := field w4 31 0

/-- The color before a color (R111, R115): 1 → 3, 2 → 1, 3 → 2. -/
def prevColor (c : Nat) : Nat := if c = 1 then 3 else c - 1

/-- The color after a color (R111). -/
def nextColor (c : Nat) : Nat := if c = 3 then 1 else c + 1

/-! ### Forwarding entries (R112) -/

def fwdState (e : Word) : Nat := field e 63 61
def fwdOff (e : Word) : Nat := field e 47 4
def mkFwd (st claim off : Nat) : Word := at_ 61 (st % 8) ||| at_ 48 (claim % 8192) ||| at_ 4 (off % 2 ^ 44)

/-- Address of the forwarding entry of a granule. -/
def fwdAddr (w2 : Word) (gran : Nat) : Nat := rgFwd w2 + 8 * gran

/-! ### The read barrier (R115) -/

/-- A heap cause names the handle (R326) (log entry 44). -/
def heapCause (code : Nat) (h : Word) : Cause :=
  { code, acc := 7, objk := 1, obj := h }

/-- A stop of an access made for a handle carries the handle too (R326). -/
def stopFor (h : Word) : Stop → Stop
  | .trap k => .trap { k with acc := 7, objk := 1, obj := h }
  | .ship home k => .ship home { k with acc := 7, objk := 1, obj := h }
  | .hold st => .hold st
  | .claim r g _ => .claim r g h
  | .ats va write => .ats va write
  | .ask port a op => .ask port a op

/-- An access made for a handle. -/
def forHandle {α : Type} (h : Word) : Except Stop α → Except Stop α
  | .error e => .error (stopFor h e)
  | .ok x => .ok x

/-- The forwarding entry of a handle's granule, under word 2 of its region's descriptor. The table has entries for the
granules of [0, TOP) (R107); every other granule is NONE (R111 step 4) (log entry 42). -/
def State.forwardEntry (s : State) (ag : Agent) (h w2 : Word) : Except Stop Word :=
  match s.regionWord ag (hRegion h) 1 with
  | .error e => .error e
  | .ok w1 => if hGran h * 16 < rgTop w1 then s.vread ag (fwdAddr w2 (hGran h)) else .ok 0

/-- Steps 1 to 6 of R115: where a handle points now. -/
def State.resolve (s : State) (ag : Agent) (h : Word) : Except Stop Word :=
  if h = 0 then .error (.trap (heapCause 0x080 h))
  else if field h 61 48 != 0 || field h 2 0 != 0 || hColor h == 0 then .error (.trap (heapCause 0x081 h))
  else
    match forHandle h (s.regionWord ag (hRegion h) 0) with
    | .error e => .error e
    | .ok w0 =>
      if rgState w0 = rFREE then .error (.trap (heapCause 0x082 h))
      else if hColor h = rgColor w0 then .ok h
      else if hColor h = prevColor (rgColor w0) ∧ (rgState w0 = rEVACUATING ∨ rgState w0 = rEVACUATED) then
        match forHandle h (s.regionWord ag (hRegion h) 2) with
        | .error e => .error e
        | .ok w2 =>
          match forHandle h (s.forwardEntry ag h w2) with
          | .error e => .error e
          | .ok e =>
            if fwdState e = 1 then .error (.claim (hRegion h) (hGran h) h)
            else if fwdState e = 2 then .error (.hold (.copy (hRegion h) (hGran h) none))
            else if fwdState e = 3 then
              match forHandle h (s.regionWord ag (fwdOff e / 2 ^ 26) 0) with
              | .error e => .error e
              | .ok d0 => .ok (mkHandle (rgColor d0) (fwdOff e))
            else if fwdState e = 4 then .ok (mkHandle (rgColor w0) (hOff h))
            else .error (.trap (heapCause 0x084 h))
      else .error (.trap (heapCause 0x083 h))

/-- What the barrier finds: the final target as the healed handle, and its header word 0. -/
structure Target where
  handle : Word
  hdr    : Word
deriving DecidableEq, Repr

/-- Step 8 of R115: a target that is the handle itself stands as it is; any other is healed, with VH as R116 says. Handles
are compared without their VH (R105). -/
def healedHandle (orig t : Word) (value : Bool) : Word :=
  if withVh t false = withVh orig false then orig else withVh t value

/-- R115 with step 7: INDIRECT and STUB are followed, at most 4 hops. `orig` is the operand, which a trap names. -/
def State.barrierFrom (s : State) (ag : Agent) (orig : Word) : (hops : Nat) → (h : Word) → Except Stop Target
  | 0, _ => .error (.trap (heapCause 0x085 orig))
  | hops + 1, h =>
    match s.resolve ag h with
    | .error e => .error (stopFor orig e)
    | .ok t =>
      match forHandle orig (s.vread ag (hAddr t)) with
      | .error e => .error e
      | .ok w =>
        match forHandle orig (s.vread ag (hAddr t + 8)) with
        | .error e => .error e
        | .ok w1 =>
          if hdrBad w w1 then .error (.trap (heapCause 0x08B orig))
          else if hdrKind w = kINDIRECT ∨ hdrKind w = kSTUB then s.barrierFrom ag orig hops w1
          else .ok { handle := healedHandle orig t (hdrKind w == kVALUE), hdr := w }

/-- The read barrier (R115): the handle itself and up to 4 hops. -/
def State.barrier (s : State) (ag : Agent) (h : Word) : Except Stop Target :=
  s.barrierFrom ag h 5 h

/-! ### Pinned objects (R50, R117) -/

/-- The SIZE of a recorded object that is pinned: its header says so where it can be read, or stands on a page that cannot. -/
def State.pinnedSize (s : State) (ag : Agent) (gran size : Nat) : Option Nat :=
  match s.xlate ag (heapBase + gran * 16) with
  | .error _ => some size
  | .ok x =>
    let w := s.readWord x.pa
    if hdrPcnt w = 0 then none else some (hdrSize w)

/-- The pinned object that contains a heap address, as its first address and its size (R50). -/
def State.pinnedAt (s : State) (ag : Agent) (va : Nat) : Option (Nat × Nat) :=
  s.pins.findSome? fun (sid, gran, size) =>
    let base := heapBase + gran * 16
    if sid ≠ s.sidOf ag ∨ va < base then none
    else
      match s.pinnedSize ag gran size with
      | some n => if va < base + n then some (base, n) else none
      | none => none

/-- Whether a region of a die's space holds a pinned object. -/
def State.pinnedIn (s : State) (ag : Agent) (region : Nat) : Bool :=
  s.pins.any fun (sid, gran, size) =>
    sid == s.sidOf ag && gran / 2 ^ 26 == region && (s.pinnedSize ag gran size).isSome

/-- PCNT of an object changed by PIN or UNPIN: the object is among the pinned ones while it is not zero. -/
def State.notePin (s : State) (ag : Agent) (h : Word) (size pcnt : Nat) : State :=
  let sid := s.sidOf ag
  let rest := s.pins.filter fun x => !(x.1 == sid && x.2.1 == hOff h)
  { s with pins := if pcnt = 0 then rest else (sid, hOff h, size) :: rest }

end Sys2Proof.Machine
end

