-- ==== Sys2Proof/Machine/Numbers.lean ====
section
/-!
DEFINITION. Sys2Proof/Machine/Numbers.lean: the number formats and the arithmetic of R28 to R47: decoding a code to its
exact value, one rounding of an exact value to a format, and the exact operations between. Every value is a dyadic
fraction m × 2^e with a sign; a quotient, a root or a transcendental carries a sticky bit for the part below.
-/

namespace Sys2Proof.Machine

/-- The sticky exception flags of R44: NV, DZ, OF, UF, NX in bits 4 to 0. -/
abbrev Flags := BitVec 5

def flagNV : Flags := 16
def flagDZ : Flags := 8
def flagOF : Flags := 4
def flagUF : Flags := 2
def flagNX : Flags := 1

/-- The four rounding modes of R38. -/
inductive Mode
  | rne | rtz | rdn | rup
deriving DecidableEq, Repr

/-- An exact value: a NaN (signalling or not), an infinity, or (−1)^neg × m × 2^e, where `st` says that the value lies
strictly between m × 2^e and (m + 1) × 2^e in magnitude. -/
inductive Num
  | nan (sig : Bool)
  | inf (neg : Bool)
  | fin (neg : Bool) (m : Nat) (e : Int) (st : Bool)
deriving DecidableEq, Repr

/-- A floating format, binary8 of any precision included: its finite codes are numbered by magnitude, code
E × 2^(P−1) + T standing for the value of R31, which for FP32, FP16 and BF16 is the IEEE 754 value (R36). -/
structure FP where
  prec    : Nat
  bias    : Int
  bits    : Nat
  signed  : Bool
  maxCode : Nat
  infs    : Bool
  nan     : Nat
  wide    : Bool
deriving DecidableEq, Repr

def fp32 : FP :=
  { prec := 24, bias := 127, bits := 32, signed := true, maxCode := 0x7F7FFFFF, infs := true, nan := 0x7FC00000
    wide := true }

def fp16 : FP :=
  { prec := 11, bias := 15, bits := 16, signed := true, maxCode := 0x7BFF, infs := true, nan := 0x7E00
    wide := true }

def bf16 : FP :=
  { prec := 8, bias := 127, bits := 16, signed := true, maxCode := 0x7F7F, infs := true, nan := 0x7FC0
    wide := true }

/-- b8pPs under an infinity reading (R30 to R33). -/
def b8s (p : Nat) (inf : Bool) : FP :=
  { prec := p, bias := 2 ^ (7 - p), bits := 8, signed := true, maxCode := if inf then 0x7E else 0x7F, infs := inf
    nan := 0x80, wide := false }

/-- b8pPu under an infinity reading (R30 to R33). -/
def b8u (p : Nat) (inf : Bool) : FP :=
  { prec := p, bias := 2 ^ (8 - p), bits := 8, signed := false, maxCode := if inf then 0xFD else 0xFE, infs := inf
    nan := 0xFF, wide := false }

/-- The floating format of a code (R28); none for raw, the integers and reserved codes. -/
def fpOf (f : BitVec 5) (inf : Bool) : Option FP :=
  if 0x01 ≤ f.toNat ∧ f.toNat ≤ 0x07 then some (b8s f.toNat inf)
  else if 0x09 ≤ f.toNat ∧ f.toNat ≤ 0x0F then some (b8u (f.toNat - 8) inf)
  else if f.toNat = 0x10 then some fp32
  else if f.toNat = 0x11 then some fp16
  else if f.toNat = 0x12 then some bf16
  else none

/-- The element size of a code in bytes (R28). -/
def fmtBytes (f : BitVec 5) : Nat :=
  if f.toNat = 0x10 ∨ f.toNat = 0x14 then 4 else if f.toNat = 0x11 ∨ f.toNat = 0x12 then 2 else 1

/-- Exponent of the smallest step of a format: 2 − B − P (R31). -/
def FP.qmin (f : FP) : Int :=
  2 - f.bias - f.prec

/-- R31, R32, R36: the value of a code. -/
def decodeFp (f : FP) (c : Nat) : Num :=
  let c := c % 2 ^ f.bits
  let neg := f.signed && c.testBit (f.bits - 1)
  let mag := if f.signed then c % 2 ^ (f.bits - 1) else c
  let finite : Num :=
    let ex := mag / 2 ^ (f.prec - 1)
    let t := mag % 2 ^ (f.prec - 1)
    if ex = 0 then .fin neg t f.qmin false
    else .fin neg (2 ^ (f.prec - 1) + t) (f.qmin + ex - 1) false
  if f.wide then
    if mag ≤ f.maxCode then finite
    else if mag = f.maxCode + 1 then .inf neg
    else .nan (!mag.testBit (f.prec - 2))
  else if c = f.nan then .nan false
  else if f.infs ∧ mag = f.maxCode + 1 then .inf neg
  else finite

/-- What one rounding makes of a magnitude: the number of its code, were there no largest one, and whether it was
inexact and tiny (R38, R39). -/
structure Rounded where
  code    : Nat
  inexact : Bool
  tiny    : Bool
deriving DecidableEq, Repr

/-- Whether a rounding goes up in magnitude (R38): `half` is the first bit dropped, `rest` whether any later one or the
sticky part is set, `odd` the least significant bit of the code below. -/
def roundsUp (mode : Mode) (neg half rest odd : Bool) : Bool :=
  match mode with
  | .rne => half && (rest || odd)
  | .rtz => false
  | .rdn => neg && (half || rest)
  | .rup => !neg && (half || rest)

/-- R39: m × 2^e, with its sticky part, rounded once to the precision of a format, with no largest exponent. -/
def roundMag (f : FP) (mode : Mode) (neg : Bool) (m : Nat) (e : Int) (st : Bool) : Rounded :=
  if m = 0 then
    { code := if roundsUp mode neg false st false then 1 else 0, inexact := st, tiny := st }
  else
    let top : Int := e + Nat.log2 m
    let q : Int := max (top - (f.prec - 1)) f.qmin
    let sh : Int := q - e
    let step : Nat := (q - f.qmin).toNat * 2 ^ (f.prec - 1)
    let tiny := decide (top < f.qmin + (f.prec - 1))
    if sh ≤ 0 then
      { code := step + m * 2 ^ (-sh).toNat + (if roundsUp mode neg false st false then 1 else 0)
        inexact := st, tiny }
    else if Nat.log2 m + 1 < sh.toNat then
      { code := step + (if roundsUp mode neg false true false then 1 else 0), inexact := true, tiny }
    else
      let n := m / 2 ^ sh.toNat
      let half := m.testBit (sh.toNat - 1)
      let rest := st || m % 2 ^ (sh.toNat - 1) != 0
      let code := step + n
      { code := code + (if roundsUp mode neg half rest (code % 2 == 1) then 1 else 0)
        inexact := half || rest, tiny }

/-- The code of a sign and a magnitude; a binary8 zero has no sign (R30, R39). -/
def FP.signedCode (f : FP) (neg : Bool) (mag : Nat) : Nat :=
  if neg && f.signed && (f.wide || mag != 0) then 2 ^ (f.bits - 1) + mag else mag

/-- R40: what an overflow gives. -/
def overflowCode (f : FP) (mode : Mode) (sat neg : Bool) : Nat :=
  let toInf :=
    match mode with
    | .rne => true
    | .rtz => false
    | .rdn => neg
    | .rup => !neg
  if sat || !toInf then f.signedCode neg f.maxCode
  else if f.infs then f.signedCode neg (f.maxCode + 1)
  else f.nan

/-- R39 to R43: the exact value encoded in a floating format by one rounding, and the flags it raises. -/
def encodeFp (f : FP) (mode : Mode) (sat : Bool) : Num → Nat × Flags
  | .nan sig => (f.nan, if sig then flagNV else 0)
  | .inf neg =>
    if neg && !f.signed then (if sat then 0 else f.nan, flagNV)
    else if f.infs then (f.signedCode neg (f.maxCode + 1), 0)
    else if sat then (f.signedCode neg f.maxCode, flagOF ||| flagNX)
    else (f.nan, flagNV)
  | .fin neg m e st =>
    let r := roundMag f mode neg m e st
    let low : Flags := (if r.inexact then flagNX else 0) ||| (if r.tiny && r.inexact then flagUF else 0)
    if neg && !f.signed && r.code != 0 then (if sat then 0 else f.nan, flagNV)
    else if f.maxCode < r.code then (overflowCode f mode sat neg, flagOF ||| flagNX)
    else (f.signedCode neg r.code, low)

/-- R42: the exact value converted to a signed integer of `n` bits, and the flags. -/
def encodeInt (n : Nat) (mode : Mode) : Num → Int × Flags
  | .nan _ => (0, flagNV)
  | .inf neg => (if neg then -2 ^ (n - 1) else 2 ^ (n - 1) - 1, flagNV)
  | .fin neg m e st =>
    let (k, inexact) : Nat × Bool :=
      if 0 ≤ e then (m * 2 ^ (min e.toNat 64), st)
      else
        let sh := (-e).toNat
        if Nat.log2 m + 1 < sh then
          let rest := m != 0 || st
          (if roundsUp mode neg false rest false then 1 else 0, rest)
        else
          let half := m.testBit (sh - 1)
          let rest := st || m % 2 ^ (sh - 1) != 0
          let k := m / 2 ^ sh
          (k + (if roundsUp mode neg half rest (k % 2 == 1) then 1 else 0), half || rest)
    let v : Int := if neg then -(k : Int) else k
    if v < -2 ^ (n - 1) then (-2 ^ (n - 1), flagNV)
    else if 2 ^ (n - 1) - 1 < v then (2 ^ (n - 1) - 1, flagNV)
    else (v, if inexact then flagNX else 0)

/-- An integer as an exact value. -/
def numOfInt (v : Int) : Num :=
  .fin (decide (v < 0)) v.natAbs 0 false

/-! ### Exact operations (R36, R37, R44) -/

/-- A NaN operand makes the result a quiet NaN; a signalling one also raises NV (R37). -/
def nanFlags (x : Num) : Flags :=
  match x with
  | .nan true => flagNV
  | _ => 0

def Num.isNan : Num → Bool
  | .nan _ => true
  | _ => false

def Num.isZero : Num → Bool
  | .fin _ m _ st => m == 0 && !st
  | _ => false

def Num.isNeg : Num → Bool
  | .nan _ => false
  | .inf n => n
  | .fin n _ _ _ => n

def Num.neg : Num → Num
  | .nan s => .nan s
  | .inf n => .inf (!n)
  | .fin n m e st => .fin (!n) m e st

/-- The exact sum of two finite terms; a zero sum has the sign of both terms, or by the mode (R295). -/
def addFin (mode : Mode) (n1 : Bool) (m1 : Nat) (e1 : Int) (n2 : Bool) (m2 : Nat) (e2 : Int) : Num :=
  let e := min e1 e2
  let a : Int := (if n1 then -1 else 1) * (m1 * 2 ^ (e1 - e).toNat : Nat)
  let b : Int := (if n2 then -1 else 1) * (m2 * 2 ^ (e2 - e).toNat : Nat)
  let s := a + b
  if s = 0 then .fin (if m1 = 0 ∧ m2 = 0 ∧ n1 = n2 then n1 else mode == .rdn) 0 0 false
  else .fin (decide (s < 0)) s.natAbs e false

/-- Sum: ∞ − ∞ is invalid. -/
def Num.add (mode : Mode) (x y : Num) : Num × Flags :=
  match x, y with
  | .nan _, _ => (.nan false, nanFlags x ||| nanFlags y)
  | _, .nan _ => (.nan false, nanFlags x ||| nanFlags y)
  | .inf a, .inf b => if a = b then (.inf a, 0) else (.nan false, flagNV)
  | .inf a, .fin .. => (.inf a, 0)
  | .fin .., .inf b => (.inf b, 0)
  | .fin n1 m1 e1 _, .fin n2 m2 e2 _ => (addFin mode n1 m1 e1 n2 m2 e2, 0)

/-- Product: 0 × ∞ is invalid. -/
def Num.mul (x y : Num) : Num × Flags :=
  match x, y with
  | .nan _, _ => (.nan false, nanFlags x ||| nanFlags y)
  | _, .nan _ => (.nan false, nanFlags x ||| nanFlags y)
  | .inf a, .inf b => (.inf (a != b), 0)
  | .inf a, .fin b m _ _ => if m = 0 then (.nan false, flagNV) else (.inf (a != b), 0)
  | .fin a m _ _, .inf b => if m = 0 then (.nan false, flagNV) else (.inf (a != b), 0)
  | .fin a m e _, .fin b m' e' _ => (.fin (a != b) (m * m') (e + e') false, 0)

/-- x × y + z, exact. -/
def Num.fma (mode : Mode) (x y z : Num) : Num × Flags :=
  let (p, f1) := x.mul y
  let (s, f2) := p.add mode z
  (s, f1 ||| f2)

/-- Quotient with a sticky part, 80 bits and more; 0/0 and ∞/∞ are invalid, x/0 raises DZ (R45, R296). -/
def Num.div (x y : Num) : Num × Flags :=
  match x, y with
  | .nan _, _ => (.nan false, nanFlags x ||| nanFlags y)
  | _, .nan _ => (.nan false, nanFlags x ||| nanFlags y)
  | .inf _, .inf _ => (.nan false, flagNV)
  | .inf a, .fin b _ _ _ => (.inf (a != b), 0)
  | .fin a _ _ _, .inf b => (.fin (a != b) 0 0 false, 0)
  | .fin a m e _, .fin b m' e' _ =>
    if m' = 0 then
      if m = 0 then (.nan false, flagNV) else (.inf (a != b), flagDZ)
    else
      let k := 80 + Nat.log2 m'
      (.fin (a != b) (m * 2 ^ k / m') (e - e' - k) (m * 2 ^ k % m' != 0), 0)

/-- The bits of an integer square root, from the highest one tried. -/
def isqrtAux (n : Nat) : Nat → Nat → Nat
  | 0, r => r
  | k + 1, r => if (r + 2 ^ k) * (r + 2 ^ k) ≤ n then isqrtAux n k (r + 2 ^ k) else isqrtAux n k r

/-- floor of the square root. -/
def isqrt (n : Nat) : Nat :=
  isqrtAux n (Nat.log2 n / 2 + 1) 0

/-- √(m × 2^e) for m > 0, with a sticky part, to at least 80 bits. -/
def sqrtFin (m : Nat) (e : Int) : Num :=
  let k : Nat := if e % 2 = 0 then 160 else 161
  let n := m * 2 ^ k
  let r := isqrt n
  .fin false r ((e - k) / 2) (r * r != n)

/-- R296: √x. -/
def Num.sqrt (x : Num) : Num × Flags :=
  match x with
  | .nan _ => (.nan false, nanFlags x)
  | .inf n => if n then (.nan false, flagNV) else (.inf false, 0)
  | .fin n m e _ =>
    if m = 0 then (x, 0) else if n then (.nan false, flagNV) else (sqrtFin m e, 0)

/-- R296: 1/x. -/
def Num.rcp (x : Num) : Num × Flags :=
  match x with
  | .nan _ => (.nan false, nanFlags x)
  | .inf n => (.fin n 0 0 false, 0)
  | .fin n m _ _ => if m = 0 then (.inf n, flagDZ) else (Num.fin false 1 0 false).div x

/-- R296: 1/√x. The exact root of x is irrational or a dyadic fraction; 1/√x is formed as √(1/x) to 200 bits, whose
sticky part is exact because 1/x is formed with its own. -/
def Num.rsq (x : Num) : Num × Flags :=
  match x with
  | .nan _ => (.nan false, nanFlags x)
  | .inf n => if n then (.nan false, flagNV) else (.fin false 0 0 false, 0)
  | .fin n m e _ =>
    if m = 0 then (.inf n, flagDZ)
    else if n then (.nan false, flagNV)
    else
      let k : Nat := 320 + 2 * Nat.log2 m + (if e % 2 = 0 then 0 else 1)
      let q := 2 ^ k / m
      let r := isqrt q
      (.fin false r ((-e - k) / 2) (r * r != q || 2 ^ k % m != 0), 0)

/-- Comparison of two values that are not NaN: −1, 0 or 1; −0 equals +0 (R37). -/
def Num.compare (x y : Num) : Int :=
  match x, y with
  | .inf a, .inf b => if a = b then 0 else if a then -1 else 1
  | .inf a, _ => if a then -1 else 1
  | _, .inf b => if b then 1 else -1
  | .fin n1 m1 e1 _, .fin n2 m2 e2 _ =>
    match addFin .rne n1 m1 e1 (!n2) m2 e2 with
    | .fin n m _ _ => if m = 0 then 0 else if n then -1 else 1
    | _ => 0
  | _, _ => 0

/-- R37: minimum; any NaN gives the default NaN, and −0 ranks below +0. -/
def Num.minNum (x y : Num) : Num × Flags :=
  if x.isNan || y.isNan then (.nan false, nanFlags x ||| nanFlags y)
  else
    let c := x.compare y
    (if c < 0 then x else if 0 < c then y else if x.isNeg then x else y, 0)

/-- R37: maximum. -/
def Num.maxNum (x y : Num) : Num × Flags :=
  if x.isNan || y.isNan then (.nan false, nanFlags x ||| nanFlags y)
  else
    let c := x.compare y
    (if c < 0 then y else if 0 < c then x else if x.isNeg then y else x, 0)

/-! ### Powers and logarithms of two (R296)

Both are formed in fixed point with 320 bits after the point, from series whose terms are summed until they vanish.
The part below is taken as non-zero (sticky), which the result's irrationality grants; that no FP32 boundary lies within
the error of the sum is an assumption (UNVERIFIED, log entry 8). -/

/-- Bits after the point of the fixed-point sums. -/
def fxBits : Nat := 320

/-- 2 × Σ t^(2k+1)/(2k+1): twice the inverse hyperbolic tangent of t / 2^320, for k from `k` on. -/
def atanhSum (t2 : Nat) : Nat → Nat → Nat → Nat
  | 0, _, _ => 0
  | n + 1, k, p => 2 * p / (2 * k + 1) + atanhSum t2 n (k + 1) (p * t2 / 2 ^ fxBits)

/-- ln 2 in fixed point: 2 atanh(1/3). -/
def ln2Fx : Nat :=
  atanhSum (2 ^ fxBits / 9) 110 0 (2 ^ fxBits / 3)

/-- Σ z^i/i! in fixed point, from the term `p` of index i. -/
def expSum (z : Nat) : Nat → Nat → Nat → Nat
  | 0, _, _ => 0
  | n + 1, i, p => p + expSum z n (i + 1) (p * z / 2 ^ fxBits / (i + 1))

/-- 2^f for a fraction f of 2^-320, in fixed point. -/
def exp2Frac (f : Nat) : Nat :=
  expSum (f * ln2Fx / 2 ^ fxBits) 80 0 (2 ^ fxBits)

/-- 2^(±m × 2^e), exact for an integer exponent, else with a sticky part. -/
def exp2Fin (neg : Bool) (m : Nat) (e : Int) : Num :=
  if m = 0 then .fin false 1 0 false
  else if 12 ≤ e + Nat.log2 m then
    -- far beyond every format: overflows, or is tiny
    .fin false 1 (if neg then -100000 else 100000) (0 > e)
  else if 0 ≤ e then
    let k : Int := m * 2 ^ e.toNat
    .fin false 1 (if neg then -k else k) false
  else
    let sh := (-e).toNat
    let whole : Int := m / 2 ^ sh
    let part : Nat := m % 2 ^ sh
    if part = 0 then .fin false 1 (if neg then -whole else whole) false
    else
      let (n, f) : Int × Nat := if neg then (-whole - 1, 2 ^ sh - part) else (whole, part)
      .fin false (exp2Frac (f * 2 ^ fxBits / 2 ^ sh)) (n - fxBits) true

/-- R296: 2^x. -/
def Num.exp2 (x : Num) : Num × Flags :=
  match x with
  | .nan _ => (.nan false, nanFlags x)
  | .inf n => if n then (.fin false 0 0 false, 0) else (.inf false, 0)
  | .fin n m e _ => (exp2Fin n m e, 0)

/-- log₂(m × 2^e) for m > 0: exact for a power of two, else with a sticky part. -/
def log2Fin (m : Nat) (e : Int) : Num :=
  let l := Nat.log2 m
  let whole : Int := e + l
  if m = 2 ^ l then .fin (decide (whole < 0)) whole.natAbs 0 false
  else
    -- y = m / 2^l lies between 1 and 2; t = (y − 1)/(y + 1)
    let t := (m - 2 ^ l) * 2 ^ fxBits / (m + 2 ^ l)
    let ln := atanhSum (t * t / 2 ^ fxBits) 110 0 t
    let r : Int := whole * 2 ^ fxBits + (ln * 2 ^ fxBits / ln2Fx : Nat)
    if 0 ≤ r then .fin false r.natAbs (-fxBits) true else .fin true (r.natAbs - 1) (-fxBits) true

/-- R296: log₂ x. -/
def Num.log2 (x : Num) : Num × Flags :=
  match x with
  | .nan _ => (.nan false, nanFlags x)
  | .inf n => if n then (.nan false, flagNV) else (.inf false, 0)
  | .fin n m e _ =>
    if m = 0 then (.inf true, flagDZ) else if n then (.nan false, flagNV) else (log2Fin m e, 0)

/-- x × 2^n, exact (R295). -/
def Num.scale (x : Num) (n : Int) : Num :=
  match x with
  | .nan s => .nan s
  | .inf a => .inf a
  | .fin a m e st => .fin a m (e + n) st

/-! ### FP32 lanes -/

/-- A lane read as FP32. -/
def f32 (w : Word32) : Num :=
  decodeFp fp32 w.toNat

/-- `RoundToFormat(·, FP32, mode)` (R241), with the flags of the operation before it. -/
def toF32 (mode : Mode) (r : Num × Flags) : Word32 × Flags :=
  let (c, fl) := encodeFp fp32 mode false r.1
  (BitVec.ofNat 32 c, r.2 ||| fl)

/-- RND resolved: DYN reads CTX.FMODE.RM (R38). -/
def Rnd.mode (rm : BitVec 2) : Rnd → Mode
  | .rne => .rne
  | .rtz => .rtz
  | .rdn => .rdn
  | .rup => .rup
  | .dyn => if rm = 0 then .rne else if rm = 1 then .rtz else if rm = 2 then .rdn else .rup

/-- The mode of a two-bit code (R38). -/
def modeOf (rm : BitVec 2) : Mode :=
  Rnd.mode rm .dyn

end Sys2Proof.Machine
end

