-- ==== Sys2Proof/Machine/Flags.lean ====
section
/-!
DEFINITION. Sys2Proof/Machine/Flags.lean: the sticky exception flags CTX.FFLAGS (R44).
-/

namespace Sys2Proof.Machine

/-- OR flags into CTX.FFLAGS. -/
def Context.raise (c : Context) (f : Flags) : Context :=
  { c with fflags := c.fflags ||| f }

/-- CTX.FFLAGS as a register. -/
def Context.fflagsReg (c : Context) : Word :=
  c.fflags.zeroExtend 64

/-- OR of the flags of the lanes below `n` (R44: active lanes only). -/
def orLanes (f : Nat → Flags) : Nat → Flags
  | 0 => 0
  | n + 1 => orLanes f n ||| f n

/-- The rounding mode of an option under CTX.FMODE.RM (R38). -/
def Context.mode (c : Context) (r : Rnd) : Mode :=
  Rnd.mode c.rm r

end Sys2Proof.Machine
end

