-- ==== Sys2Proof/Machine/Scalar.lean ====
section
/-!
DEFINITION. Sys2Proof/Machine/Scalar.lean: the scalar integer and address instructions (R273 to R290). The arithmetic of
each family stands first, as a function of values; the meanings read the operands, apply it and write the result.
-/

namespace Sys2Proof.Machine

open Sys2Proof

/-- An outcome that goes on. -/
abbrev Res := Host.Outcome State Fault Refusal

/-! ### Values -/

/-- MULH (R276): bits 127:64 of the product, signed or unsigned. -/
def mulHigh (u : Bool) (x y : Word) : Word :=
  if u then BitVec.ofNat 64 (x.toNat * y.toNat / 2 ^ 64)
  else BitVec.ofInt 64 (x.toInt * y.toInt / 2 ^ 64)

/-- DIV (R277): rounded toward zero; a zero divisor gives all ones, the most negative number by −1 itself. -/
def divWord (u : Bool) (x y : Word) : Word :=
  if u then if y = 0 then BitVec.allOnes 64 else x.udiv y
  else if y = 0 then BitVec.allOnes 64 else BitVec.ofInt 64 (x.toInt.tdiv y.toInt)

/-- REM (R277): with the sign of the dividend; a zero divisor gives the dividend. -/
def remWord (u : Bool) (x y : Word) : Word :=
  if u then if y = 0 then x else x.umod y
  else if y = 0 then x else BitVec.ofInt 64 (x.toInt.tmod y.toInt)

/-- Less-than, signed or unsigned (R278). -/
def ltWord (u : Bool) (x y : Word) : Bool :=
  if u then x.ult y else x.slt y

/-- MIN and MAX (R278). -/
def minWord (u : Bool) (x y : Word) : Word :=
  if ltWord u y x then y else x

def maxWord (u : Bool) (x y : Word) : Word :=
  if ltWord u x y then y else x

/-- The conditions of CMP and CMPI (R285). -/
def condHolds (c : Cond) (x y : Word) : Bool :=
  match c with
  | .eq => x == y
  | .ne => x != y
  | .lt => x.slt y
  | .le => x.sle y

def ucondHolds (c : UCond) (x y : Word) : Bool :=
  match c with
  | .ltu => x.ult y
  | .leu => x.ule y

/-- All 16 bits of a predicate (R285). -/
def allLanes (b : Bool) : Mask :=
  if b then 0xFFFF else 0

/-- ROL (R281). -/
def rolWord (x : Word) (n : Nat) : Word :=
  x.rotateLeft n

/-- FSHL (R282): the high word of hi:lo shifted left. -/
def fshlWord (hi lo : Word) (n : Nat) : Word :=
  ((hi ++ lo : BitVec 128) <<< n).extractLsb' 64 64

/-- FSHR (R282): the low word of hi:lo shifted right. -/
def fshrWord (hi lo : Word) (n : Nat) : Word :=
  ((hi ++ lo : BitVec 128) >>> n).extractLsb' 0 64

/-- The three-input table (R280), for any width. -/
def lop3 {n : Nat} (tt : BitVec 8) (x y z : BitVec n) : BitVec n :=
  let t (k : Nat) (v : BitVec n) : BitVec n := if tt.getLsbD k then v else 0
  t 0 (~~~x &&& ~~~y &&& ~~~z) ||| t 1 (~~~x &&& ~~~y &&& z) ||| t 2 (~~~x &&& y &&& ~~~z)
    ||| t 3 (~~~x &&& y &&& z) ||| t 4 (x &&& ~~~y &&& ~~~z) ||| t 5 (x &&& ~~~y &&& z)
    ||| t 6 (x &&& y &&& ~~~z) ||| t 7 (x &&& y &&& z)

/-- CLZ and CTZ (R283). -/
def clzWord (x : Word) : Nat :=
  if x = 0 then 64 else 63 - Nat.log2 x.toNat

def ctzWord (x : Word) : Nat :=
  lowestOne x.toNat 64

/-- SEXT of the low `w` bits (R283). -/
def sextLow (x : Word) (w : Nat) : Word :=
  (x <<< (64 - w)).sshiftRight (64 - w)

/-- EXTR (R284). -/
def extrWord (x : Word) (pos w : Nat) : Word :=
  (x >>> pos) &&& BitVec.ofNat 64 (2 ^ w - 1)

/-- INS (R284). -/
def insWord (old x : Word) (pos w : Nat) : Word :=
  let mask : Word := BitVec.ofNat 64 (2 ^ w - 1) <<< pos
  (old &&& ~~~mask) ||| ((x <<< pos) &&& mask)

/-- Bytes of a size or a scale (R244). -/
def Size.bytes : Size → Nat
  | .b => 1
  | .h => 2
  | .w => 4
  | .d => 8

/-- Base plus a scaled index, mod 2^64 (R288). -/
def scaled (x y : Word) (sc : Size) : Word :=
  x + y * BitVec.ofNat 64 (Size.bytes sc)

/-- LI64 (R287). -/
def li64Word (x : Word) (imm : BitVec 32) : Word :=
  imm ++ (x.truncate 32 : BitVec 32)

/-- The shift amount of a register form (R281). -/
def amount (y : Word) : Nat :=
  y.toNat % 64

/-! ### Shapes -/

/-- gd := f ga gb. -/
def State.scalar2 (s : State) (h : Hdr) (lat : Nat) (d a b : Fld) (f : Word → Word → Word) : State :=
  s.scalar h oneWord (.fixed lat) .g d [gs a, gs b] fun c => ofWord (f (c.srcG a) (c.srcG b))

/-- gd := f ga, in one word. -/
def State.scalar1 (s : State) (h : Hdr) (lat : Nat) (d a : Fld) (f : Word → Word) : State :=
  s.scalar h oneWord (.fixed lat) .g d [gs a] fun c => ofWord (f (c.srcG a))

/-- gd := f ga, in two words. -/
def State.scalar1x (s : State) (h : Hdr) (d a : Fld) (f : Word → Word) : State :=
  s.scalar h twoWord (.fixed 1) .g d [gs a] fun c => ofWord (f (c.srcG a))

/-- gd := f ga gb gc, in two words. -/
def State.scalar3x (s : State) (h : Hdr) (d a b x : Fld) (f : Word → Word → Word → Word) : State :=
  s.scalar h twoWord (.fixed 1) .g d [gs a, gs b, gs x] fun c => ofWord (f (c.srcG a) (c.srcG b) (c.srcG x))

/-- gd := f ga gb with variable latency (R274: DIV and REM). -/
def State.scalar2v (s : State) (h : Hdr) (d a b : Fld) (f : Word → Word → Word) : State :=
  s.scalar h oneWord .variable_ .g d [gs a, gs b] fun c => ofWord (f (c.srcG a) (c.srcG b))

/-! ### Meanings -/

def execAdd (h : Hdr) (d a b : Fld) (s : State) : Res :=
  .next (s.scalar2 h 1 d a b (· + ·))

def execSub (h : Hdr) (d a b : Fld) (s : State) : Res :=
  .next (s.scalar2 h 1 d a b (· - ·))

def execMul (h : Hdr) (d a b : Fld) (s : State) : Res :=
  .next (s.scalar2 h 3 d a b (· * ·))

def execMov (h : Hdr) (d a : Fld) (s : State) : Res :=
  .next (s.scalar1 h 1 d a id)

def execMulh (h : Hdr) (u : Bool) (d a b : Fld) (s : State) : Res :=
  .next (s.scalar2 h 3 d a b (mulHigh u))

def execDiv (h : Hdr) (u : Bool) (d a b : Fld) (s : State) : Res :=
  .next (s.scalar2v h d a b (divWord u))

def execRem (h : Hdr) (u : Bool) (d a b : Fld) (s : State) : Res :=
  .next (s.scalar2v h d a b (remWord u))

def execMin (h : Hdr) (u : Bool) (d a b : Fld) (s : State) : Res :=
  .next (s.scalar2 h 1 d a b (minWord u))

def execMax (h : Hdr) (u : Bool) (d a b : Fld) (s : State) : Res :=
  .next (s.scalar2 h 1 d a b (maxWord u))

def execAnd (h : Hdr) (d a b : Fld) (s : State) : Res :=
  .next (s.scalar2 h 1 d a b (· &&& ·))

def execOr (h : Hdr) (d a b : Fld) (s : State) : Res :=
  .next (s.scalar2 h 1 d a b (· ||| ·))

def execXor (h : Hdr) (d a b : Fld) (s : State) : Res :=
  .next (s.scalar2 h 1 d a b (· ^^^ ·))

def execAndn (h : Hdr) (d a b : Fld) (s : State) : Res :=
  .next (s.scalar2 h 1 d a b (fun x y => x &&& ~~~y))

def execShl (h : Hdr) (d a b : Fld) (s : State) : Res :=
  .next (s.scalar2 h 1 d a b (fun x y => x <<< amount y))

def execShr (h : Hdr) (d a b : Fld) (s : State) : Res :=
  .next (s.scalar2 h 1 d a b (fun x y => x >>> amount y))

def execSar (h : Hdr) (d a b : Fld) (s : State) : Res :=
  .next (s.scalar2 h 1 d a b (fun x y => x.sshiftRight (amount y)))

def execRol (h : Hdr) (d a b : Fld) (s : State) : Res :=
  .next (s.scalar2 h 1 d a b (fun x y => rolWord x (amount y)))

def execShlImm (h : Hdr) (d a : Fld) (n : BitVec 6) (s : State) : Res :=
  .next (s.scalar1 h 1 d a (· <<< n.toNat))

def execShrImm (h : Hdr) (d a : Fld) (n : BitVec 6) (s : State) : Res :=
  .next (s.scalar1 h 1 d a (· >>> n.toNat))

def execSarImm (h : Hdr) (d a : Fld) (n : BitVec 6) (s : State) : Res :=
  .next (s.scalar1 h 1 d a (·.sshiftRight n.toNat))

def execRolImm (h : Hdr) (d a : Fld) (n : BitVec 6) (s : State) : Res :=
  .next (s.scalar1 h 1 d a (rolWord · n.toNat))

def execPopc (h : Hdr) (d a : Fld) (s : State) : Res :=
  .next (s.scalar1 h 2 d a (fun x => BitVec.ofNat 64 (popcount x.toNat 64)))

def execClz (h : Hdr) (d a : Fld) (s : State) : Res :=
  .next (s.scalar1 h 2 d a (fun x => BitVec.ofNat 64 (clzWord x)))

def execCtz (h : Hdr) (d a : Fld) (s : State) : Res :=
  .next (s.scalar1 h 2 d a (fun x => BitVec.ofNat 64 (ctzWord x)))

def execSext (h : Hdr) (d a : Fld) (w1 : BitVec 6) (s : State) : Res :=
  .next (s.scalar1 h 1 d a (sextLow · (w1.toNat + 1)))

/-- CMP (R285). -/
def execCmp (h : Hdr) (c : Cond) (d a b : Fld) (s : State) : Res :=
  .next (s.scalar h oneWord (.fixed 1) .p d [gs a, gs b] fun x =>
    ofMask (allLanes (condHolds c (x.srcG a) (x.srcG b))))

def execCmpUnsigned (h : Hdr) (c : UCond) (d a b : Fld) (s : State) : Res :=
  .next (s.scalar h oneWord (.fixed 1) .p d [gs a, gs b] fun x =>
    ofMask (allLanes (ucondHolds c (x.srcG a) (x.srcG b))))

def execCmpi (h : Hdr) (c : Cond) (d a : Fld) (imm : BitVec 6) (s : State) : Res :=
  .next (s.scalar h oneWord (.fixed 1) .p d [gs a] fun x =>
    ofMask (allLanes (condHolds c (x.srcG a) (sext64 imm))))

def execCmpiUnsigned (h : Hdr) (c : UCond) (d a : Fld) (imm : BitVec 6) (s : State) : Res :=
  .next (s.scalar h oneWord (.fixed 1) .p d [gs a] fun x =>
    ofMask (allLanes (ucondHolds c (x.srcG a) (imm.zeroExtend 64))))

def execAddi (h : Hdr) (d a : Fld) (imm : BitVec 6) (s : State) : Res :=
  .next (s.scalar1 h 1 d a (· + sext64 imm))

def execAddiXw (h : Hdr) (d a : Fld) (imm : BitVec 32) (s : State) : Res :=
  .next (s.scalar1x h d a (· + sext64 imm))

def execLea (h : Hdr) (sc : Size) (d a b : Fld) (s : State) : Res :=
  .next (s.scalar2 h 1 d a b (fun x y => scaled x y sc))

/-- LEAW (R289): the base's window, then the result's, are checked; the exact sum is signed. -/
def execLeaw (h : Hdr) (sc : Size) (d a b : Fld) (s : State) : Res :=
  .next (s.guarded h oneWord (some (.g, d)) [gs a, gs b] fun s =>
    let x := s.ctx.srcG a
    let r : Int := x.toNat + (s.ctx.srcG b).toInt * (Size.bytes sc : Nat)
    let base := windowOf x.toNat
    if base = .none then s.trap { code := 0x040, addr := x }
    else if r < 0 ∨ windowOf r.toNat ≠ base then s.trap { code := 0x041, addr := BitVec.ofInt 64 r }
    else s.done h oneWord (·.dst (.fixed 2) .g d (ofWord (BitVec.ofInt 64 r))))

def execFshl (h : Hdr) (d a b c : Fld) (s : State) : Res :=
  .next (s.scalar3x h d a b c (fun x y z => fshlWord x y (amount z)))

def execFshr (h : Hdr) (d a b c : Fld) (s : State) : Res :=
  .next (s.scalar3x h d a b c (fun x y z => fshrWord x y (amount z)))

/-- SEL (R286): the predicate is masked by LMASK. -/
def execSel (h : Hdr) (d a b c : Fld) (s : State) : Res :=
  .next (s.scalar h twoWord (.fixed 1) .g d [gs a, gs b, (.p, c)] fun x =>
    ofWord (if x.srcP c &&& x.lmask ≠ 0 then x.srcG a else x.srcG b))

def execLop3 (h : Hdr) (d a b c : Fld) (tt : BitVec 8) (s : State) : Res :=
  .next (s.scalar3x h d a b c (lop3 tt))

def execExtr (h : Hdr) (d a : Fld) (pos w1 : BitVec 6) (s : State) : Res :=
  .next (s.scalar1x h d a (extrWord · pos.toNat (w1.toNat + 1)))

/-- INS (R284) reads its destination as a source. -/
def execIns (h : Hdr) (d a : Fld) (pos w1 : BitVec 6) (s : State) : Res :=
  .next (s.scalar h twoWord (.fixed 1) .g d [gs a, gs d] fun c =>
    ofWord (insWord (c.srcG d) (c.srcG a) pos.toNat (w1.toNat + 1)))

def execMovi (h : Hdr) (d : Fld) (imm : BitVec 32) (s : State) : Res :=
  .next (s.scalar h twoWord (.fixed 1) .g d [] fun _ => ofWord (sext64 imm))

def execLi64 (h : Hdr) (d a : Fld) (imm : BitVec 32) (s : State) : Res :=
  .next (s.scalar1x h d a (li64Word · imm))

end Sys2Proof.Machine
end

