-- ==== Sys2Proof/Machine/Vector.lean ====
section
/-!
DEFINITION. Sys2Proof/Machine/Vector.lean: the vector, conversion and softmax instructions (R291 to R308), over FP32 and
INT32 lanes.
-/

namespace Sys2Proof.Machine

open Sys2Proof

/-! ### Shapes -/

/-- A per-lane result merged into what the destination holds: inactive lanes keep their values (R291), and a discarded
one reads zero there (R232). -/
def Context.mergeV (c : Context) (m : Mask) (d : Fld) (f : Nat → Word32) : Vec :=
  let old : Vec := if 56 ≤ d.toNat then 0 else c.reg .v d.toNat
  vecOf fun l => if m.getLsbD l then f l else lane old l

/-- What one lane computes: the value and its flags. -/
abbrev LaneFn := Nat → Word32 × Flags

/-- The flags of the active lanes (R44). -/
def activeFlags (m : Mask) (f : LaneFn) : Flags :=
  orLanes (fun l => if m.getLsbD l then (f l).2 else 0) 16

/-- Write the registers of a block one by one; every source was read before (`f` is of the context before), the entry
pushed is the last register's (R232, R234). -/
def Context.writeBlock (c0 : Context) (m : Mask) (lat : Lat) (bk : Block) (d : Fld) (f : Nat → LaneFn) :
    Nat → Context → Context
  | 0, c => c
  | n + 1, c =>
    let r := blockSize bk - (n + 1)
    let dr := blockFld bk d r
    let x := c0.mergeV m dr (fun l => (f r l).1)
    let c := c.raise (activeFlags m (f r))
    let c := if 56 ≤ dr.toNat then c else c.writeLanes lat dr.toNat m x
    Context.writeBlock c0 m lat bk d f n
      (if n = 0 then (c.push x).entryEcc (if 56 ≤ dr.toNat then [] else c0.keptPieces dr.toNat m) else c)

/-- The latency of a block of n registers: L + n − 1 (R293). -/
def blockLat (lat : Lat) (bk : Block) : Lat :=
  match lat with
  | .fixed l => .fixed (l + blockSize bk - 1)
  | .variable_ => .variable_

/-- The per-lane instructions with a v destination (R291): predicate, then every source even when no lane is active,
then the active lanes of every register of the block. -/
def State.vlanes (s : State) (h : Hdr) (lat : Lat) (bk : Block) (d : Fld) (srcs : List (Cls × Fld))
    (f : Context → Nat → LaneFn) : State :=
  s.laneGuarded h srcs fun c => c.writeBlock (c.active h) (blockLat lat bk) bk d (f c) (blockSize bk) c

/-- One register, no block. -/
def block1 : Block := { rows1 := 0, cols1 := 0 }

/-- vd := f va per lane. -/
def State.vlane1 (s : State) (h : Hdr) (lat : Lat) (bk : Block) (d a : Fld) (f : Context → Word32 → Word32 × Flags) :
    State :=
  s.vlanes h lat bk d (blockSrcs bk a) fun c r l => f c (lane (c.srcV (blockFld bk a r)) l)

/-- vd := f va vb per lane. -/
def State.vlane2 (s : State) (h : Hdr) (lat : Lat) (bk : Block) (d a b : Fld)
    (f : Context → Word32 → Word32 → Word32 × Flags) : State :=
  s.vlanes h lat bk d (blockSrcs bk a ++ blockSrcs bk b) fun c r l =>
    f c (lane (c.srcV (blockFld bk a r)) l) (lane (c.srcV (blockFld bk b r)) l)

/-- vd := f va vb vd per lane: the destination is read as well. -/
def State.vlane2d (s : State) (h : Hdr) (lat : Lat) (bk : Block) (d a b : Fld)
    (f : Context → Word32 → Word32 → Word32 → Word32 × Flags) : State :=
  s.vlanes h lat bk d (blockSrcs bk a ++ blockSrcs bk b ++ blockSrcs bk d) fun c r l =>
    f c (lane (c.srcV (blockFld bk a r)) l) (lane (c.srcV (blockFld bk b r)) l)
      (lane (c.srcV (blockFld bk d r)) l)

/-- vd := f va vb vc per lane. -/
def State.vlane3 (s : State) (h : Hdr) (lat : Lat) (bk : Block) (d a b x : Fld)
    (f : Word32 → Word32 → Word32 → Word32) : State :=
  s.vlanes h lat bk d (blockSrcs bk a ++ blockSrcs bk b ++ blockSrcs bk x) fun c r l =>
    (f (lane (c.srcV (blockFld bk a r)) l) (lane (c.srcV (blockFld bk b r)) l)
      (lane (c.srcV (blockFld bk x r)) l), 0)

/-! ### FP32 lanes (R295, R296) -/

/-- Sum of two FP32 lanes. -/
def f32Add (m : Mode) (x y : Word32) : Word32 × Flags :=
  toF32 m ((f32 x).add m (f32 y))

/-- Difference. -/
def f32Sub (m : Mode) (x y : Word32) : Word32 × Flags :=
  toF32 m ((f32 x).add m (f32 y).neg)

/-- Product. -/
def f32Mul (m : Mode) (x y : Word32) : Word32 × Flags :=
  toF32 m ((f32 x).mul (f32 y))

/-- Fused product and sum. -/
def f32Fma (m : Mode) (x y z : Word32) : Word32 × Flags :=
  toF32 m (Num.fma m (f32 x) (f32 y) (f32 z))

/-- A NaN lane gives the default NaN, and a signalling one raises NV; any other lane gives `y` (R295). -/
def f32Sign (x y : Word32) : Word32 × Flags :=
  match f32 x with
  | .nan sig => (0x7FC00000, if sig then flagNV else 0)
  | .inf _ => (y, 0)
  | .fin .. => (y, 0)

/-- VSCAL (R295): ±0, ±∞ and NaN return the input, with NaN made default and no flag, a signalling one too (DESIGN CHOICE, log
entry 55). -/
def f32Scale (m : Mode) (x y : Word32) : Word32 × Flags :=
  match f32 x with
  | .nan _ => (0x7FC00000, 0)
  | .inf _ => (x, 0)
  | .fin n k e st => if k = 0 then (x, 0) else toF32 m (.fin n k (e + y.toInt) st, 0)

/-- The condition of VCMP on FP32 lanes (R297): NaN is unordered. -/
def f32Cond (c : Cond) (x y : Word32) : Bool × Flags :=
  let a := f32 x
  let b := f32 y
  let fl := nanFlags a ||| nanFlags b
  if a.isNan || b.isNan then (c == .ne, fl)
  else
    let o := a.compare b
    (match c with
      | .eq => o == 0
      | .ne => o != 0
      | .lt => decide (o < 0)
      | .le => decide (o ≤ 0), fl)

/-- The condition on INT32 lanes. -/
def i32Cond (c : Cond) (x y : Word32) : Bool :=
  match c with
  | .eq => x == y
  | .ne => x != y
  | .lt => x.slt y
  | .le => x.sle y

/-- Minimum and maximum of a lane (R298). -/
def laneMin (t : LaneT) (x y : Word32) : Word32 × Flags :=
  match t with
  | .f32 => toF32 .rne ((f32 x).minNum (f32 y))
  | .i32 => (if y.slt x then y else x, 0)

def laneMax (t : LaneT) (x y : Word32) : Word32 × Flags :=
  match t with
  | .f32 => toF32 .rne ((f32 x).maxNum (f32 y))
  | .i32 => (if x.slt y then y else x, 0)

/-! ### Reductions (R47, R299) -/

/-- One step of a reduction. -/
def redStep (op : RedOp) (t : LaneT) (m : Mode) (x y : Word32) : Word32 × Flags :=
  match op, t with
  | .add, .f32 => f32Add m x y
  | .add, .i32 => (x + y, 0)
  | .min, t => laneMin t x y
  | .max, t => laneMax t x y

/-- The identity that an inactive lane enters as (R299). -/
def redId (op : RedOp) (t : LaneT) : Word32 :=
  match op, t with
  | .add, .f32 => 0x80000000
  | .min, .f32 => 0x7F800000
  | .max, .f32 => 0xFF800000
  | .add, .i32 => 0
  | .min, .i32 => 0x7FFFFFFF
  | .max, .i32 => 0x80000000

/-- The pairwise tree of R47 over 2^n inputs from lane `k` on. -/
def redTree (step : Word32 → Word32 → Word32 × Flags) (f : LaneFn) : (n k : Nat) → Word32 × Flags
  | 0, k => f k
  | n + 1, k =>
    let a := redTree step f n k
    let b := redTree step f n (k + 2 ^ n)
    let r := step a.1 b.1
    (r.1, a.2 ||| b.2 ||| r.2)

/-- VRED and VDOT: the result in gd, with the flags of the tree (R299). Every source is read, whatever lanes are active
(R291). -/
def State.vreduce (s : State) (h : Hdr) (d : Fld) (srcs : List (Cls × Fld)) (op : RedOp) (t : LaneT) (rnd : Rnd)
    (f : Context → LaneFn) : State :=
  s.laneGuarded h srcs fun c =>
    let m := c.active h
    let r := redTree (redStep op t (c.mode rnd)) (fun l => if m.getLsbD l then f c l else (redId op t, 0)) 4 0
    (c.raise r.2).dst (.fixed 6) .g d (ofWord (r.1.zeroExtend 64))

/-! ### Integer lanes (R300, R301) -/

/-- The exact result wrapped, or clamped with SAT (R300). -/
def satLane (sat : Bool) (v : Int) : Word32 × Flags :=
  (BitVec.ofInt 32 (if sat then max (-2 ^ 31) (min (2 ^ 31 - 1) v) else v), 0)

/-- A lane shift amount (R301). -/
def amount5 (y : Word32) : Nat :=
  y.toNat % 32

/-- Funnel shifts of lanes (R301). -/
def fshlLane (hi lo n : Word32) : Word32 :=
  ((hi ++ lo : BitVec 64) <<< amount5 n).extractLsb' 32 32

def fshrLane (hi lo n : Word32) : Word32 :=
  ((hi ++ lo : BitVec 64) >>> amount5 n).extractLsb' 0 32

/-! ### Conversion (R303, R304) -/

/-- The element of a format at the low bits of a lane, as an exact value (R303, R54). -/
def elemNum (fmt : BitVec 5) (inf : Bool) (w : Nat) : Num :=
  if fmt = 0x13 then numOfInt (BitVec.ofNat 8 w).toInt
  else if fmt = 0x14 then numOfInt (BitVec.ofNat 32 w).toInt
  else
    match fpOf fmt inf with
    | some f => decodeFp f w
    | none => numOfInt 0

/-- The code of an exact value in a format; an INT8 or INT32 code by R42. -/
def encodeElem (fmt : BitVec 5) (inf : Bool) (m : Mode) (sat : Bool) (x : Num) : Nat × Flags :=
  if fmt = 0x13 then
    let r := encodeInt 8 m x
    ((BitVec.ofInt 8 r.1).toNat, r.2)
  else if fmt = 0x14 then
    let r := encodeInt 32 m x
    ((BitVec.ofInt 32 r.1).toNat, r.2)
  else
    match fpOf fmt inf with
    | some f => encodeFp f m sat x
    | none => (0, 0)

/-- INT32 narrowed to INT8: bits 7:0, or clamped with SAT; no flag (R42). -/
def narrowInt (sat : Bool) (w : Word32) : Nat :=
  if sat then (BitVec.ofInt 8 (max (-128) (min 127 w.toInt))).toNat else w.toNat % 256

/-- A code written back into a lane (R303): INT8 sign-extended, every other narrow code zero-extended. -/
def laneOfCode (fmt : BitVec 5) (c : Nat) : Word32 :=
  if fmt = 0x13 then (BitVec.ofNat 8 c).signExtend 32 else BitVec.ofNat 32 c

/-- VCVT of one lane (R303). -/
def cvtLane (fmt src : BitVec 5) (inf : Bool) (m : Mode) (sat : Bool) (w : Word32) : Word32 × Flags :=
  if fmt = 0x13 ∧ src = 0x14 then (laneOfCode fmt (narrowInt sat w), 0)
  else
    let r := encodeElem fmt inf m sat (elemNum src inf w.toNat)
    (laneOfCode fmt r.1, r.2)

/-- A lane encoded to an element: FP32 lanes to a floating format, INT32 lanes to INT8 (R304, R54). -/
def laneToElem (fmt : BitVec 5) (inf : Bool) (m : Mode) (sat : Bool) (w : Word32) : Nat × Flags :=
  if fmt = 0x13 then (narrowInt sat w, 0)
  else if fmt = 0x10 ∨ fmt = 0x14 then (w.toNat, 0)
  else encodeElem fmt inf m sat (f32 w)

/-- An element decoded to its lane: FP32, exactly, a NaN becoming the default NaN; INT8 sign-extended (R54, R304). The
flag is NV of a signalling NaN. -/
def elemToLane (fmt : BitVec 5) (inf : Bool) (w : Nat) : Word32 × Flags :=
  if fmt = 0x13 then ((BitVec.ofNat 8 w).signExtend 32, 0)
  else if fmt = 0x10 ∨ fmt = 0x14 then (BitVec.ofNat 32 w, 0)
  else toF32 .rne (elemNum fmt inf w, nanFlags (elemNum fmt inf w))

/-- The element of part `q` that belongs to lane `l` of a v register (R304). -/
def packedElem (fmt : BitVec 5) (q l : Nat) (v : Vec) : Nat :=
  if fmt16 fmt then (vbyte v (32 * q + 2 * l)).toNat + 256 * (vbyte v (32 * q + 2 * l + 1)).toNat
  else (vbyte v (16 * q + l)).toNat

/-! ### Online softmax (R305 to R307) -/

/-- What a softmax step leaves: M, L, the 16 lanes of O and the flags; `none` where the row stands unchanged. -/
structure SoftRow where
  m     : Word32
  l     : Word32
  o     : Nat → Word32
  flags : Flags

/-- The NaN row (R305). -/
def nanRow : SoftRow :=
  { m := 0x7FC00000, l := 0x7FC00000, o := fun _ => 0x7FC00000, flags := flagNV }

/-- A product one of whose factors may be an exact zero coefficient: a zero term is +0, uncomputed (R305). -/
def softTerm (x c : Num) : Num × Flags :=
  if c.isZero then (.fin false 0 0 false, 0) else x.mul c

/-- x × c + y × e, one rounding (R306, R307). -/
def softSum (m : Mode) (x c y e : Num) : Word32 × Flags :=
  let p := softTerm x c
  let q := softTerm y e
  let r := p.1.add m q.1
  toF32 m (r.1, p.2 ||| q.2 ||| r.2)

/-- 2^(x − y) rounded (R306). -/
def softCoef (m : Mode) (x y : Num) : Word32 × Flags :=
  match x with
  | .inf true => (0, 0)
  | _ => toF32 m ((x.add .rne y.neg).1.exp2)

/-- R306: one score and its value row folded in. -/
def softFold (m : Mode) (mw lw sw : Word32) (o v : Nat → Word32) : SoftRow :=
  let mx := f32 mw
  let lx := f32 lw
  let sx := f32 sw
  if mx.isNan || lx.isNan || sx.isNan || mx == .inf false || sx == .inf false then nanRow
  else
    let big := (mx.maxNum sx).1
    if big = .inf true then { m := 0xFF800000, l := 0, o := fun _ => 0, flags := 0 }
    else
      let c := softCoef m mx big
      let e := softCoef m sx big
      let l' := softSum m lx (f32 c.1) (f32 e.1) (.fin false 1 0 false)
      let o' := fun i => softSum m (f32 (o i)) (f32 c.1) (f32 (v i)) (f32 e.1)
      { m := (toF32 m (big, 0)).1, l := l'.1, o := fun i => (o' i).1
        flags := c.2 ||| e.2 ||| l'.2 ||| orLanes (fun i => (o' i).2) 16 }

/-- R307: partial 2 merged into partial 1. -/
def softMerge (m : Mode) (m1 l1 m2 l2 : Word32) (o1 o2 : Nat → Word32) : Option SoftRow :=
  let a := f32 m1
  let b := f32 m2
  let anyNan := a.isNan || (f32 l1).isNan || b.isNan || (f32 l2).isNan
    || (List.range 16).any (fun i => (f32 (o1 i)).isNan || (f32 (o2 i)).isNan)
  if anyNan || a == .inf false || b == .inf false then some nanRow
  else if a = .inf true ∧ b = .inf true then some { m := 0xFF800000, l := 0, o := fun _ => 0, flags := 0 }
  else if b = .inf true then none
  else if a = .inf true then some { m := m2, l := l2, o := o2, flags := 0 }
  else
    let big := (a.maxNum b).1
    let c1 := softCoef m a big
    let c2 := softCoef m b big
    let l' := softSum m (f32 l1) (f32 c1.1) (f32 l2) (f32 c2.1)
    let o' := fun i => softSum m (f32 (o1 i)) (f32 c1.1) (f32 (o2 i)) (f32 c2.1)
    some { m := (toF32 m (big, 0)).1, l := l'.1, o := fun i => (o' i).1
           flags := c1.2 ||| c2.2 ||| l'.2 ||| orLanes (fun i => (o' i).2) 16 }

/-- ML with its two low lanes replaced; the other lanes are never written (R305). -/
def mlWith (ml : Vec) (m l : Word32) : Vec :=
  vecOf fun i => if i = 0 then m else if i = 1 then l else lane ml i

/-- ML written: lanes 0 and 1, and no entry (R305, R340). -/
def Context.writeMl (c : Context) (x : Fld) (m l : Word32) : Context :=
  if 56 ≤ x.toNat then c else c.writeLanes .variable_ x.toNat 3 (mlWith (c.reg .v x.toNat) m l)

/-- The cause of reading the sources of a softmax instruction: `srcs` are read whole, and of the `mls` lanes 0 and 1 alone
(R224, R305). -/
def Context.softTrap (c : Context) (srcs : List (Cls × Fld)) (mls : List Fld) : Option Nat :=
  c.causeOf (srcs ++ mls.map fun f => (.v, f)) (srcs.any (fun e => c.readsPoison e.1 e.2) || mls.any c.readsLowPoison)

/-- Both softmax instructions act whole: O through the destination, which is read as well, M and L through SRCC; the new
O is the entry (R305). With no active lane nothing is read and nothing else happens (R233, R291). -/
def State.softmax (s : State) (h : Hdr) (d x : Fld) (srcs : List (Cls × Fld)) (mls : List Fld)
    (f : Context → Option SoftRow) : State :=
  s.guardedBy h twoWord (some (.v, d)) (·.softTrap ((.v, d) :: srcs) (mls ++ [x])) fun s => s.done h twoWord fun c =>
    match f c with
    | none => c.push (if 56 ≤ d.toNat then c.srcV d else c.reg .v d.toNat)
    | some r => ((c.writeMl x r.m r.l).raise r.flags).dst .variable_ .v d (vecOf r.o)

/-! ### Meanings: arithmetic -/

def execVadd (h : Hdr) (bk : Block) (rnd : Rnd) (d a b : Fld) (s : State) : Res :=
  .next (s.vlane2 h (.fixed 2) bk d a b fun c => f32Add (c.mode rnd))

def execVsub (h : Hdr) (bk : Block) (rnd : Rnd) (d a b : Fld) (s : State) : Res :=
  .next (s.vlane2 h (.fixed 2) bk d a b fun c => f32Sub (c.mode rnd))

def execVmul (h : Hdr) (bk : Block) (rnd : Rnd) (d a b : Fld) (s : State) : Res :=
  .next (s.vlane2 h (.fixed 4) bk d a b fun c => f32Mul (c.mode rnd))

def execVfma (h : Hdr) (bk : Block) (rnd : Rnd) (d a b : Fld) (s : State) : Res :=
  .next (s.vlane2d h (.fixed 4) bk d a b fun c => f32Fma (c.mode rnd))

def execVabs (h : Hdr) (bk : Block) (d a : Fld) (s : State) : Res :=
  .next (s.vlane1 h (.fixed 1) bk d a fun _ x => f32Sign x (x &&& 0x7FFFFFFF))

def execVneg (h : Hdr) (bk : Block) (d a : Fld) (s : State) : Res :=
  .next (s.vlane1 h (.fixed 1) bk d a fun _ x => f32Sign x (x ^^^ 0x80000000))

def execVscal (h : Hdr) (bk : Block) (rnd : Rnd) (d a b : Fld) (s : State) : Res :=
  .next (s.vlane2 h (.fixed 2) bk d a b fun c => f32Scale (c.mode rnd))

def execVrcp (h : Hdr) (bk : Block) (rnd : Rnd) (d a : Fld) (s : State) : Res :=
  .next (s.vlane1 h .variable_ bk d a fun c x => toF32 (c.mode rnd) (f32 x).rcp)

def execVrsq (h : Hdr) (bk : Block) (rnd : Rnd) (d a : Fld) (s : State) : Res :=
  .next (s.vlane1 h .variable_ bk d a fun c x => toF32 (c.mode rnd) (f32 x).rsq)

def execVsqrt (h : Hdr) (bk : Block) (rnd : Rnd) (d a : Fld) (s : State) : Res :=
  .next (s.vlane1 h .variable_ bk d a fun c x => toF32 (c.mode rnd) (f32 x).sqrt)

def execVexp2 (h : Hdr) (bk : Block) (rnd : Rnd) (d a : Fld) (s : State) : Res :=
  .next (s.vlane1 h .variable_ bk d a fun c x => toF32 (c.mode rnd) (f32 x).exp2)

def execVlog2 (h : Hdr) (bk : Block) (rnd : Rnd) (d a : Fld) (s : State) : Res :=
  .next (s.vlane1 h .variable_ bk d a fun c x => toF32 (c.mode rnd) (f32 x).log2)

/-! ### Meanings: compare, select, reduce -/

/-- The lanes of VCMP. -/
def cmpLane (c : Cond) (t : LaneT) (x y : Word32) : Bool × Flags :=
  match t with
  | .f32 => f32Cond c x y
  | .i32 => (i32Cond c x y, 0)

/-- A p register that is not written whole keeps its poison (R224). -/
def Context.keepPred (c c0 : Context) (d : Fld) (m : Mask) : Context :=
  if m = 0xFFFF ∨ 56 ≤ d.toNat then c
  else { c with ecc := c0.regEcc .p d.toNat ++ List.filter (fun e => !(c0.regEcc .p d.toNat).contains e) c.ecc }.entryEcc
    (c0.regEcc .p d.toNat)

/-- VCMP (R297): the active bits of pd; the inactive ones keep their values, or read zero in a discarded entry. -/
def execVcmp (h : Hdr) (cc : Cond) (t : LaneT) (d a b : Fld) (s : State) : Res :=
  .next (s.laneGuarded h [(.v, a), (.v, b)] fun c =>
    let m := c.active h
    let old : Mask := if 56 ≤ d.toNat then 0 else (c.reg .p d.toNat).truncate 16
    let r := fun l => cmpLane cc t (lane (c.srcV a) l) (lane (c.srcV b) l)
    let x := maskOf fun l => if m.getLsbD l then (r l).1 else old.getLsbD l
    ((c.raise (orLanes (fun l => if m.getLsbD l then (r l).2 else 0) 16)).dst (laneLat m (.fixed 2)) .p d (ofMask x)).keepPred c d m)

def execVmin (h : Hdr) (bk : Block) (t : LaneT) (d a b : Fld) (s : State) : Res :=
  .next (s.vlane2 h (.fixed 2) bk d a b fun _ => laneMin t)

def execVmax (h : Hdr) (bk : Block) (t : LaneT) (d a b : Fld) (s : State) : Res :=
  .next (s.vlane2 h (.fixed 2) bk d a b fun _ => laneMax t)

/-- VSEL (R298): pc applies to every register of the block. -/
def execVsel (h : Hdr) (bk : Block) (d a b x : Fld) (s : State) : Res :=
  .next (s.vlanes h (.fixed 1) bk d (blockSrcs bk a ++ blockSrcs bk b ++ [(.p, x)]) fun c r l =>
    (if (c.srcP x).getLsbD l then lane (c.srcV (blockFld bk a r)) l else lane (c.srcV (blockFld bk b r)) l, 0))

def execVred (h : Hdr) (op : RedOp) (t : LaneT) (rnd : Rnd) (d a : Fld) (s : State) : Res :=
  .next (s.vreduce h d [(.v, a)] op t rnd fun c l => (lane (c.srcV a) l, 0))

/-- VDOT (R299): each lane's product, rounded once or mod 2^32, then the tree. -/
def execVdot (h : Hdr) (t : LaneT) (rnd : Rnd) (d a b : Fld) (s : State) : Res :=
  .next (s.vreduce h d [(.v, a), (.v, b)] .add t rnd fun c l =>
    let x := lane (c.srcV a) l
    let y := lane (c.srcV b) l
    match t with
    | .f32 => f32Mul (c.mode rnd) x y
    | .i32 => (x * y, 0))

/-! ### Meanings: moves and permutes (R302) -/

def execVmov (h : Hdr) (bk : Block) (d a : Fld) (s : State) : Res :=
  .next (s.vlane1 h (.fixed 1) bk d a fun _ x => (x, 0))

def execVbcast (h : Hdr) (bk : Block) (d a : Fld) (s : State) : Res :=
  .next (s.vlanes h (.fixed 1) bk d [gs a] fun c _ _ => ((c.srcG a).truncate 32, 0))

/-- VEXT acts whole (R302): with no active lane it reads nothing and writes nothing (R233, R291). -/
def execVext (h : Hdr) (d a b : Fld) (s : State) : Res :=
  .next (s.scalar h twoWord (.fixed 2) .g d [(.v, a), gs b] fun c =>
    ofWord ((lane (c.srcV a) ((c.srcG b).toNat % 16)).zeroExtend 64))

def execVperm (h : Hdr) (bk : Block) (d a b : Fld) (s : State) : Res :=
  .next (s.vlanes h (.fixed 2) bk d (blockSrcs bk a ++ blockSrcs bk b) fun c r l =>
    (lane (c.srcV (blockFld bk a r)) ((lane (c.srcV (blockFld bk b r)) l).toNat % 16), 0))

def execVrot (h : Hdr) (bk : Block) (d a b : Fld) (s : State) : Res :=
  .next (s.vlanes h (.fixed 2) bk d (blockSrcs bk a ++ [gs b]) fun c r l =>
    (lane (c.srcV (blockFld bk a r)) ((l + 16 - (c.srcG b).toNat % 16) % 16), 0))

/-! ### Meanings: integers and logic (R300, R301) -/

def execViadd (h : Hdr) (bk : Block) (sat : Bool) (d a b : Fld) (s : State) : Res :=
  .next (s.vlane2 h (.fixed 2) bk d a b fun _ x y => satLane sat (x.toInt + y.toInt))

def execVisub (h : Hdr) (bk : Block) (sat : Bool) (d a b : Fld) (s : State) : Res :=
  .next (s.vlane2 h (.fixed 2) bk d a b fun _ x y => satLane sat (x.toInt - y.toInt))

def execVimul (h : Hdr) (bk : Block) (sat : Bool) (d a b : Fld) (s : State) : Res :=
  .next (s.vlane2 h (.fixed 4) bk d a b fun _ x y => satLane sat (x.toInt * y.toInt))

def execVimad (h : Hdr) (bk : Block) (sat : Bool) (d a b : Fld) (s : State) : Res :=
  .next (s.vlane2d h (.fixed 4) bk d a b fun _ x y z => satLane sat (x.toInt * y.toInt + z.toInt))

def execVand (h : Hdr) (bk : Block) (d a b : Fld) (s : State) : Res :=
  .next (s.vlane2 h (.fixed 1) bk d a b fun _ x y => (x &&& y, 0))

def execVor (h : Hdr) (bk : Block) (d a b : Fld) (s : State) : Res :=
  .next (s.vlane2 h (.fixed 1) bk d a b fun _ x y => (x ||| y, 0))

def execVxor (h : Hdr) (bk : Block) (d a b : Fld) (s : State) : Res :=
  .next (s.vlane2 h (.fixed 1) bk d a b fun _ x y => (x ^^^ y, 0))

def execVshl (h : Hdr) (bk : Block) (d a b : Fld) (s : State) : Res :=
  .next (s.vlane2 h (.fixed 2) bk d a b fun _ x y => (x <<< amount5 y, 0))

def execVshr (h : Hdr) (bk : Block) (d a b : Fld) (s : State) : Res :=
  .next (s.vlane2 h (.fixed 2) bk d a b fun _ x y => (x >>> amount5 y, 0))

def execVfshl (h : Hdr) (bk : Block) (d a b x : Fld) (s : State) : Res :=
  .next (s.vlane3 h (.fixed 2) bk d a b x fshlLane)

def execVfshr (h : Hdr) (bk : Block) (d a b x : Fld) (s : State) : Res :=
  .next (s.vlane3 h (.fixed 2) bk d a b x fshrLane)

def execVpopc (h : Hdr) (bk : Block) (d a : Fld) (s : State) : Res :=
  .next (s.vlane1 h (.fixed 2) bk d a fun _ x => (BitVec.ofNat 32 (popcount x.toNat 32), 0))

def execVlop3 (h : Hdr) (d a b x : Fld) (tt : BitVec 8) (s : State) : Res :=
  .next (s.vlane3 h (.fixed 1) block1 d a b x (lop3 tt))

/-! ### Meanings: conversion and softmax -/

def execVcvt (h : Hdr) (bk : Block) (rnd : Rnd) (sat : Bool) (fmt src : BitVec 5) (d a : Fld) (s : State) : Res :=
  .next (s.vlane1 h (.fixed 3) bk d a fun c x => cvtLane fmt src c.inf (c.mode rnd) sat x)

/-- VPACK of one register (R304): the elements of active lanes in part q, every other byte of vd unchanged. -/
def packReg (fmt : BitVec 5) (q : Nat) (m : Mask) (code : Nat → Nat) (old : Vec) : Vec :=
  vecOfBytes fun k =>
    let w := if fmt16 fmt then 2 else 1
    let base := 16 * w * q
    if base ≤ k ∧ k < base + 16 * w ∧ m.getLsbD ((k - base) / w) then
      BitVec.ofNat 8 (code ((k - base) / w) / 256 ^ ((k - base) % w))
    else vbyte old k

/-- Whether VPACK writes a byte of lane i: an active element lies in it (R232, R304). -/
def packTouches (fmt : BitVec 5) (q : Nat) (m : Mask) (i : Nat) : Bool :=
  let w := if fmt16 fmt then 2 else 1
  (List.range 4).any fun j => decide (16 * w * q ≤ 4 * i + j) && decide (4 * i + j < 16 * w * (q + 1))
    && m.getLsbD ((4 * i + j - 16 * w * q) / w)

/-- The registers of a VPACK block, one after the other, as `writeBlock`. Of a discard, the entry holds the lanes that were
written, and zero elsewhere (R232). -/
def Context.packBlock (c0 : Context) (m : Mask) (bk : Block) (fmt : BitVec 5) (q : Nat) (d a : Fld)
    (f : Word32 → Nat × Flags) : Nat → Context → Context
  | 0, c => c
  | n + 1, c =>
    let r := blockSize bk - (n + 1)
    let dr := blockFld bk d r
    let e := fun l => f (lane (c0.srcV (blockFld bk a r)) l)
    let y := packReg fmt q m (fun l => (e l).1) (if 56 ≤ dr.toNat then c0.srcV dr else c0.reg .v dr.toNat)
    let x := if 56 ≤ dr.toNat then vecOf fun i => if packTouches fmt q m i then lane y i else 0 else y
    let c := c.raise (orLanes (fun l => if m.getLsbD l then (e l).2 else 0) 16)
    let c := if 56 ≤ dr.toNat then c else c.writeReg (laneLat m (blockLat (.fixed 3) bk)) .v dr.toNat x
    Context.packBlock c0 m bk fmt q d a f n (if n = 0 then c.push x else c)

def execVpack (h : Hdr) (bk : Block) (rnd : Rnd) (sat : Bool) (fmt : BitVec 5) (q : BitVec 2) (d a : Fld) (s : State) :
    Res :=
  .next (s.laneGuarded h (blockSrcs bk a ++ blockSrcs bk d) fun c =>
    c.packBlock (c.active h) bk fmt q.toNat d a (laneToElem fmt c.inf (c.mode rnd) sat) (blockSize bk) c)

def execVunpk (h : Hdr) (bk : Block) (fmt : BitVec 5) (q : BitVec 2) (d a : Fld) (s : State) : Res :=
  .next (s.vlanes h (.fixed 3) bk d (blockSrcs bk a) fun c r l =>
    elemToLane fmt c.inf (packedElem fmt q.toNat l (c.srcV (blockFld bk a r))))

def execVsmax (h : Hdr) (rnd : Rnd) (d a b x : Fld) (s : State) : Res :=
  .next (s.softmax h d x [(.v, a), gs b] [] fun c =>
    some (softFold (c.mode rnd) (lane (c.srcV x) 0) (lane (c.srcV x) 1) ((c.srcG b).truncate 32)
      (lane (c.srcV d)) (lane (c.srcV a))))

def execVsmrg (h : Hdr) (rnd : Rnd) (d a b x : Fld) (s : State) : Res :=
  .next (s.softmax h d x [(.v, a)] [b] fun c =>
    softMerge (c.mode rnd) (lane (c.srcV x) 0) (lane (c.srcV x) 1) (lane (c.srcV b) 0) (lane (c.srcV b) 1)
      (lane (c.srcV d)) (lane (c.srcV a)))

end Sys2Proof.Machine
end

