-- ==== Sys2Proof/Machine/Access.lean ====
section
/-!
DEFINITION. Sys2Proof/Machine/Access.lean: one access of a core: its checks in order (R49, R309 to R311), the bytes it
names, the windows' decoding (R53 to R55), what its stops do to the issuing context, and requests that leave the package
(R149, R160, R162).
-/

namespace Sys2Proof.Machine

open Sys2Proof

/-! ### Window descriptors (R53) -/

def wdFmt (w : Word) : BitVec 5 := w.extractLsb' 0 5
def wdScale (w : Word) : Bool := w.getLsbD 5
def wdRnd (w : Word) : Nat := field w 8 6
def wdSat (w : Word) : Bool := w.getLsbD 9
def wdRowsh (w : Word) : Nat := field w 31 28
def wdSbase (w : Word) : Nat := field w 51 32

/-- The conditions under which WDSET refuses a descriptor (R53). -/
def wdBad (w : Word) : Bool :=
  !fmtOk (wdFmt w) || 5 ≤ wdRnd w
    || (wdScale w && (wdFmt w == 0 || wdFmt w == 0x13 || wdFmt w == 0x14))
    || field w 33 32 != 0 || field w 63 52 != 0 || field w 27 10 != 0

/-- The rounding mode of a descriptor (R38, R53). -/
def Context.wdMode (c : Context) (w : Word) : Mode :=
  if wdRnd w = 0 then .rne else if wdRnd w = 1 then .rtz else if wdRnd w = 2 then .rdn
  else if wdRnd w = 3 then .rup else modeOf c.rm

/-- Scratchpad offset of the row scale of the element at an offset (R55). -/
def wdScaleAt (w : Word) (x : Nat) : Nat :=
  wdSbase w + 4 * (x / 2 ^ wdRowsh w)

/-- The descriptor that governs an address: none outside a local window or where FMT is raw (R54). -/
def Context.wd (c : Context) (va : Nat) : Option Word :=
  match windowOf va with
  | .local_ n => if wdFmt (c.win.get 0 n) = 0 then none else some (c.win.get 0 n)
  | .none => none
  | .remote _ => none
  | .hbm => none
  | .heap => none
  | .host => none
  | .link _ => none

/-- The element size of an address, `n` where no format window governs it (R310). -/
def Context.elemBytes (c : Context) (va n : Nat) : Nat :=
  match c.wd va with
  | some w => fmtBytes (wdFmt w)
  | none => n

/-- The scratchpad offset of the row scale of an element, where its window has one (R55). -/
def Context.scaleAt (c : Context) (va : Nat) : Option Nat :=
  match c.wd va with
  | some w => if wdScale w then some (wdScaleAt w (va % 0x100000)) else none
  | none => none

/-! ### One access -/

/-- An access: what it does, its first address, the bytes it names as offsets from there, the alignment its first address
must have, whether its window admits it as an atomic (R323), whether its window's format refuses it (R54, R315), and the
row scales it reads (R55), each with the address of its element and its scratchpad offset. -/
structure Elem where
  kind     : Kind
  va       : Nat
  offs     : List Nat
  align    : Nat
  atomicOk : Bool := true
  fmtBad   : Bool := false
  scales   : List (Nat × Nat) := []
deriving DecidableEq, Repr

/-- Where the bytes of an access are: in the package, at these physical addresses, with the addresses whose pages were
walked for it; or beyond a port, at addresses of its own. -/
inductive Place
  | here (pas walked : List Nat)
  | away (port : Nat) (addrs : List Nat)
deriving DecidableEq, Repr

/-- The trap of an access. -/
def Elem.fault {α : Type} (e : Elem) (code a : Nat) : Except Stop α :=
  .error (.trap { code, acc := e.kind.acc, addr := BitVec.ofNat 64 a })

/-- Whether a physical address is served by a die that runs, or by the asker's own (R226). -/
def State.dieServes (s : State) (id pa : Nat) : Bool :=
  servingDie pa == coreDie id || !(s.die (servingDie pa)).stopped

/-- Translation of one byte of a core's access, with permissions, home-execute and migration (R143 to R151, R156). The home that
home-execute asks for is that of the frame in the leaf: a request that the old home queued or forwards is applied (R156). -/
def State.pagedByte (s : State) (id : Nat) (k : Kind) (a : Nat) : Except Stop Xlat :=
  match s.translate id a with
  | .error (code, level) => .error (.trap { code, acc := k.acc, level, addr := BitVec.ofNat 64 a })
  | .ok x =>
    if !permits x.pte k then .error (.trap { code := 0x047, acc := k.acc, level := x.level, addr := BitVec.ofNat 64 a })
    else if pteHx x.pte ∧ homeOf x.named ≠ coreEngine id then
      .error (.ship (homeOf x.named) { code := 0x04B, acc := k.acc, level := x.level, addr := BitVec.ofNat 64 a })
    else
      match x.held with
      | some frame => .error (.hold (.migration frame (x.passage (spaceSid (s.coreSpace id)) a)))
      | none => .ok x

/-- Translation of the bytes of a paged access, in ascending order: the first that fails decides. -/
def State.pagedBytes (s : State) (id : Nat) (k : Kind) (va : Nat) : List Nat → Except Stop (List Nat × List Nat)
  | [] => .ok ([], [])
  | o :: os =>
    match s.pagedByte id k (va + o) with
    | .error e => .error e
    | .ok x =>
      match s.pagedBytes id k va os with
      | .error e => .error e
      | .ok (pas, walked) =>
        .ok (x.pa :: pas, if x.walked ∧ !(walked.any fun a => a / 0x10000 == (va + o) / 0x10000)
          then (va + o) :: walked else walked)

/-- The first address that an access names: of a vector access with inactive lanes, its lowest active byte (R314). -/
def Elem.first (e : Elem) : Nat := e.va + e.offs.headD 0

/-- Whether the bytes of an access in the heap window lie inside the one pinned object of the first (R50). -/
def State.insidePinned (s : State) (id : Nat) (e : Elem) : Bool :=
  match s.pinnedAt (.core id) e.first with
  | some (base, size) => e.offs.all fun o => decide (base ≤ e.va + o ∧ e.va + o < base + size)
  | none => e.offs.isEmpty

/-- Whether a port carries requests (R158). -/
def Port.carries (p : Port) : Bool :=
  p.state == .up || p.state == .degraded

/-- Whether responses arrive by a port: none in either direction while it is Isolated, or has no link (R158). -/
def Port.hears (p : Port) : Bool :=
  p.state == .up || p.state == .degraded || p.state == .quiesced

/-- The port of a peer, when its traffic can leave: V = 1 and the port Up or Degraded (R160). -/
def State.peerPort (s : State) (peer : Nat) : Option Nat :=
  let w := s.peers.get 0 peer
  let p := field w 62 59
  if w.getLsbD 63 ∧ p < 8 ∧ (s.port p).carries then some p else none

/-- Whether the host port carries requests (R158, R163). -/
def State.hostUp (s : State) : Bool :=
  (s.port 8).carries

/-- Whether a kind writes, or may write, the bytes it names. -/
def Kind.writes : Kind → Bool
  | .store => true
  | .scatter => true
  | .atomic => true
  | .engineWrite => true
  | .heapCas => true
  | .heapStore => true
  | .load => false
  | .gather => false
  | .fetch => false
  | .heap => false
  | .engineRead => false

/-- The host address of a host-window address in a space, when a translation that permits the access is cached (R149) by the cluster or
the units `unit`. -/
def State.hostAddr (s : State) (unit sid : Nat) (write : Bool) (va : Nat) : Option Nat :=
  let a := va - 0x9000000000000
  (s.ats.find? fun e => e.unit == unit && e.sid == sid && e.page == a / 4096 && (e.write || !write)).map fun e => e.host * 4096 + a % 4096

/-- The first unpopulated byte of an access to a scratchpad slot (R49 step 4). An element whose row scale is unpopulated fails as
such: the byte is its first (R55, R311). -/
def State.unpopulated (s : State) (slot : Nat) (self : Nat) (e : Elem) : Option Nat :=
  let own := (e.offs.find? fun o => !s.spadPopulated slot (e.va % 0x100000 + o)).map (e.va + ·)
  let scale := (e.scales.find? fun x => (List.range 4).any fun i => !s.spadPopulated self (x.2 + i)).map (·.1)
  match own, scale with
  | some a, some b => some (min a b)
  | some a, none => some a
  | none, b => b

/-- R311: the checks of an access in order, and where its bytes are. -/
def State.place (s : State) (id : Nat) (e : Elem) : Except Stop Place :=
  let w := windowOf e.va
  if w = .none then e.fault 0x040 e.va
  else if e.offs.any fun o => windowOf (e.va + o) != w then e.fault 0x041 e.va
  else if e.va % e.align ≠ 0 then e.fault 0x04C e.va
  else if !e.atomicOk then e.fault 0x04D e.va
  else
    let pad (slot : Nat) : Except Stop Place :=
      match s.unpopulated slot id e with
      | some a => e.fault 0x042 a
      | none =>
        if e.fmtBad then e.fault 0x045 e.va
        else if !s.dieServes id (spadBase slot) then .error (.trap { code := 0x163, acc := e.kind.acc })
        else .ok (.here (e.offs.map fun o => spadBase slot + e.va % 0x100000 + o) [])
    let paged : Except Stop Place :=
      if e.fmtBad then e.fault 0x045 e.va
      else
        match s.pagedBytes id e.kind e.va e.offs with
        | .error x => .error x
        | .ok (pas, walked) =>
          if pas.all (s.dieServes id) then .ok (.here pas walked)
          else .error (.trap { code := 0x163, acc := e.kind.acc })
    match w with
    | .none => e.fault 0x040 e.va
    | .local_ _ => pad id
    | .remote n => pad n
    | .hbm => paged
    | .heap =>
      if s.insidePinned id e then paged else e.fault 0x043 e.first
    | .host =>
      if e.fmtBad then e.fault 0x045 e.va
      else if !s.hostUp then .error (.trap { code := 0x142, acc := e.kind.acc })
      else
        let host (o : Nat) : Option Nat := s.hostAddr (coreEngine id) (spaceSid (s.coreSpace id)) e.kind.writes (e.va + o)
        match e.offs.find? fun o => (host o).isNone with
        | some o => .error (.ats (e.va + o) e.kind.writes)
        | none => .ok (.away 8 (e.offs.map fun o => (host o).getD 0))
    | .link p =>
      if e.fmtBad then e.fault 0x045 e.va
      else
        match s.peerPort p with
        | some port => .ok (.away port (e.offs.map fun o => e.va + o))
        | none => .error (.trap { code := 0x142, acc := e.kind.acc })

/-- Whether a kind reads the bytes it names. -/
def Kind.reads : Kind → Bool
  | .load => true
  | .atomic => true
  | .fetch => true
  | .gather => true
  | .heap => true
  | .engineRead => true
  | .heapCas => true
  | .store => false
  | .scatter => false
  | .engineWrite => false
  | .heapStore => false

/-- The checks of `place`, and the poison of what the access reads, its row scales among it (R224). -/
def State.access (s : State) (id : Nat) (e : Elem) : Except Stop Place :=
  match s.place id e with
  | .error x => .error x
  | .ok (.away p a) => .ok (.away p a)
  | .ok (.here pas walked) =>
    match (e.offs.zip pas).find? fun x => e.kind.reads && s.poisoned x.2 with
    | some x => e.fault 0x160 ((e.va + x.1) / 8 * 8)
    | none =>
      match e.scales.find? fun x => s.poisoned (spadBase id + x.2) with
      | some x => e.fault 0x160 ((e.va / 0x100000 * 0x100000 + x.2) / 8 * 8)
      | none => .ok (.here pas walked)

/-! ### The bytes -/

/-- The bytes at physical addresses. -/
def State.bytesAt (s : State) (pas : List Nat) : List Byte :=
  pas.map s.readByte

/-- Write bytes at physical addresses, one by one. -/
def State.writeAll (s : State) : List (Nat × Byte) → State
  | [] => s
  | (a, b) :: l => (s.writeByte a b).writeAll l

/-- Write bytes; a granule all of whose bytes are written loses its poison (R224). -/
def State.writeAt (s : State) (l : List (Nat × Byte)) : State :=
  let s' := s.writeAll l
  { s' with poison := List.filter (fun e => !((List.range 8).all fun i => (l.any fun x => x.1 == 8 * e.1 + i))) s'.poison }

/-- Pages walked for an access: their leaves reach the core's cache later (R147). -/
def State.noteWalks (s : State) (i : CtxId) : List Nat → State
  | [] => s
  | a :: l => (s.later .walkDone { evCtx i with w0 := BitVec.ofNat 64 a }).noteWalks i l

/-! ### Elements through a window (R54, R55, R313) -/

/-- The row scale at a scratchpad offset of a core. -/
def State.rowScale (s : State) (id off : Nat) : Word32 :=
  BitVec.ofNat 32 (natOfBytes (s.readBytes (spadBase id + off) 4))

/-- R45: an element decoded exactly, multiplied by its row scale and rounded once by RNE. -/
def scaledLoad (fmt : BitVec 5) (inf : Bool) (code : Nat) (scale : Word32) : Word32 × Flags :=
  toF32 .rne ((elemNum fmt inf code).mul (f32 scale))

/-- R45: a value divided by its row scale, the quotient encoded with SAT = 0. -/
def scaledStore (fmt : BitVec 5) (inf : Bool) (m : Mode) (x : Word32) (scale : Word32) : Nat × Flags :=
  let q := (f32 x).div (f32 scale)
  let r := encodeElem fmt inf m false q.1
  (r.1, q.2 ||| r.2)

/-- The lane a code becomes through a window, with the flags of its scaling (R54, R55, R309). -/
def State.windowLoad (s : State) (id : Nat) (c : Context) (w : Word) (va code : Nat) : Word32 × Flags :=
  match c.scaleAt va with
  | some off => scaledLoad (wdFmt w) c.inf code (s.rowScale id off)
  | none => ((elemToLane (wdFmt w) c.inf code).1, 0)

/-- The code a lane becomes through a window (R54, R55). -/
def State.windowStore (s : State) (id : Nat) (c : Context) (w : Word) (va : Nat) (x : Word32) : Nat × Flags :=
  match c.scaleAt va with
  | some off => scaledStore (wdFmt w) c.inf (c.wdMode w) x (s.rowScale id off)
  | none => laneToElem (wdFmt w) c.inf (c.wdMode w) (wdSat w) x

/-! ### Stops -/

/-- A request put in the queue of the migration that holds its frame, once (R156). -/
def State.enqueue (s : State) (frame : Nat) (x : Held) : State :=
  match s.frames.find? frame with
  | none => s
  | some r =>
    if r.queue.any fun y => y.asker == x.asker then s
    else { s with frames := s.frames.put frame { r with queue := r.queue ++ [x] } }

/-- A stall put on a context; a request for a page under migration joins its queue. -/
def State.stallAt (s : State) (i : CtxId) (st : Stall) : State :=
  let s := s.modCtxAt i fun c => { c with stall := some st }
  match st with
  | .migration frame p => s.enqueue frame ⟨.ctx i, p⟩
  | _ => s

/-- The errand of the event that is carried out goes on: the event is tried again (R162). -/
def State.keepErrand (s : State) : State :=
  { s with errands := s.errands.map fun x => if x.asker = s.asker then { x with kept := true } else x }

/-- An event that cannot be carried out yet because of a stall is tried again in the next cycle, in its place in a queue. -/
def State.await (s : State) (row : Instr) (st : Stall) : State :=
  let s' := match st with
    | .migration frame p => s.enqueue frame ⟨.event row s.ev, p⟩
    | _ => s
  s'.keepErrand.nextCycle row s.ev

/-- Put a stall on the issuing context. It stays Ready and issues the same instruction again when it ends (R56). -/
def State.stallOn (s : State) (st : Stall) : State :=
  s.stallAt s.cur st

/-- The request timeout of a port in cycles (R159: microseconds, 0 reads as 1; 2,000 cycles each). -/
def Port.tmoCycles (p : Port) : Nat :=
  (if p.tmo = 0 then 1 else p.tmo.toNat) * 2000

/-- Whether a request writes at the peer. -/
def opWrites : ExtOp → Bool
  | .write _ => true
  | .atomic _ _ _ _ => true
  | .message _ => true
  | .read _ => false

/-- The cycle in which window N + 2 begins, for a write that leaves in window N of `w` nanoseconds at a cycle (R164; two cycles are a
nanosecond). -/
def windowEnd (w clock : Nat) : Nat := 2 * w * (clock / 2 / w + 2)

/-- A write to a peer is looked at again when window N + 2 begins (R164). -/
def State.watchWindow (s : State) (port req : Nat) (op : ExtOp) : State :=
  if opWrites op ∧ port < 8 then
    s.schedule (windowEnd s.mgmt.vwin.toNat s.clock) .windowOverrun { unit := port, sub := req, flag := true }
  else s

/-- Send a request through a port for a context or an event: it waits in the port's list until its answer or its timeout (R162). `until_`
is the cycle of a timeout that runs already (R344). -/
def State.sendRequest (s : State) (who : Asker) (port addr : Nat) (op : ExtOp) (until_ : Option Nat := none) : State × Nat :=
  let p := s.port port
  let due := until_.getD (s.clock + p.tmoCycles)
  let s := s.setPort port { p with reqs := p.reqs ++ [{ id := p.nextReq, src := who, addr, op, since := s.clock, due }]
                                   nextReq := p.nextReq + 1 }
  ((s.schedule due .linkRequestTimeout { unit := port, sub := p.nextReq }).watchWindow port p.nextReq op, p.nextReq)

/-- The errand of the event that is carried out (R162). -/
def State.errand (s : State) : Option Errand :=
  s.errands.find? fun x => x.asker == s.asker

/-- An event is begun: an errand of an earlier one like it that has been carried out is forgotten. -/
def State.beginErrand (s : State) : State :=
  { s with
    asked := 0
    errands := (s.errands.filter fun x => x.asker != s.asker || x.kept).map fun x =>
      if x.asker = s.asker then { x with kept := false } else x }

/-- The next request of an errand leaves, unless one has no answer yet (R162). -/
def State.sendErrand (s : State) (port addr : Nat) (op : ExtOp) : State :=
  let x := s.errand.getD { asker := s.asker }
  if x.req.isSome then s
  else
    let (s', id) := s.sendRequest s.asker port addr op
    { s' with errands := { x with req := some (port, id) } :: s'.errands.filter fun y => y.asker != s.asker }

/-- The answer to a request of an errand, or the cause that it ends with (R162). -/
def State.answerErrand (s : State) (port : Nat) (r : LinkReq) (code : Nat) (data : List Byte) : State :=
  { s with errands := s.errands.map fun x =>
      if x.req = some (port, r.id) then { x with got := x.got ++ [{ port, addr := r.addr, code, data }], req := none } else x }

/-- What the errand of the event has brought for the request that it makes next, when that is one at an address of a port. -/
def State.brought (s : State) (port addr : Nat) : Option Brought :=
  (s.errand.bind fun x => x.got[s.asked]?).filter fun x => x.port == port && x.addr == addr

/-- A request of an event beyond a port: what it has brought, or that it must be made first (R162). -/
def State.asking (s : State) (k : Kind) (port addr : Nat) (op : ExtOp) : State × Except Stop (List Byte) :=
  match s.brought port addr with
  | none => (s, .error (.ask port addr op))
  | some x =>
    ({ s with asked := s.asked + 1 },
      if x.code = 0 then .ok x.data else .error (.trap { code := x.code, acc := k.acc, indet := k == .engineWrite }))

/-- The issuing instruction sends a request and its context waits for the answer. -/
def State.request (s : State) (port addr : Nat) (op : ExtOp) (w : Waiter) : State :=
  let (s', id) := s.sendRequest (.ctx s.cur) port addr op s.ctx.retry
  s'.stallOn (.link port id w)

/-- Host translations that a cluster, or the units of a die, keep: the newest 1,024 (DESIGN CHOICE, log entry 36). -/
def keepAts (unit : Nat) (l : List AtsEnt) : List AtsEnt :=
  (l.filter fun e => e.unit == unit).take 1024 ++ l.filter fun e => e.unit != unit

/-- A host translation that is not cached: ATS is asked, and what it answers is cached for a cluster or the units of a die. None where it
answers no access (R149). -/
def State.askAts (s : State) (unit sid va : Nat) (write : Bool) : State × Bool :=
  let page := (va - 0x9000000000000) / 4096
  let s' := { s with fresh := s.fresh + 1 }
  match Config.atsAnswer s.fresh (if Config.hostPasid then sid else 0) (page * 4096) write with
  | some host => ({ s' with ats := keepAts unit ({ unit, sid, page, host := host / 4096, write } :: s.ats) }, true)
  | none => (s', false)

/-- A unit of a die that is no core asks for a host translation: no access makes a PRI page request, and it tries again until the response has
come (R149). -/
def State.askHostUnit (s : State) (d va : Nat) (write : Bool) : State :=
  let sid := spaceSid (s.die d).space
  let page := (va - 0x9000000000000) / 4096
  let mine (x : PriAsk) : Bool := x.asker == s.asker && x.sid == sid && x.page == page
  if s.pris.any fun x => mine x && x.failed.isNone then s
  else
    match s.askAts (1024 + d) sid va write with
    | (s', true) => s'
    | (s', false) =>
      let (s', id) := s'.sendRequest s.asker 8 (va - 0x9000000000000) (.read 0)
      { s' with pris := { asker := s.asker, sid, page, req := id, failed := none } :: List.filter (fun x => !mine x) s'.pris }

/-- The cause with which the page request of the one who makes this access has just ended. -/
def State.priFailed (s : State) (sid va : Nat) : Option Nat :=
  s.pris.findSome? fun x =>
    match x.failed with
    | some (code, at_) =>
      if x.asker = s.asker ∧ x.sid = sid ∧ x.page = (va - 0x9000000000000) / 4096 ∧ s.clock ≤ at_ + 1 then some code else none
    | none => none

/-- Whether a stop only makes an access wait. -/
def Stop.waits : Stop → Bool
  | .hold _ => true
  | .ats _ _ => true
  | .ask _ _ _ => true
  | .trap _ => false
  | .claim _ _ _ => false
  | .ship _ _ => false

/-- An event of a unit of die `d` that must wait is tried again in the next cycle. -/
def State.awaitStop (s : State) (row : Instr) (d : Nat) : Stop → State
  | .hold st => s.await row st
  | .ats va write => (s.keepErrand.askHostUnit d va write).nextCycle row s.ev
  | .ask port a op => (s.keepErrand.sendErrand port a op).nextCycle row s.ev
  | .trap _ => s
  | .claim _ _ _ => s
  | .ship _ _ => s

/-- The issuing context asks for a host translation: no access makes a PRI page request, whose response the stalled context awaits
(R149). -/
def State.askHost (s : State) (va : Nat) (write : Bool) (acc : Nat) : State :=
  match s.askAts (coreEngine s.cur.core) (spaceSid (s.coreSpace s.cur.core)) va write with
  | (s', true) => s'.again
  | (s', false) =>
    let (s', id) := s'.sendRequest (.ctx s.cur) 8 (va - 0x9000000000000) (.read 0)
    s'.stallOn (.pri id acc)

/-- R113 step 1: the issuing core claims a planned object, PLANNED → COPYING, and the copy begins. -/
def State.claimObject (s : State) (id region gran : Nat) : Except Stop State :=
  match s.regionWord (.core id) region 2 with
  | .error e => .error e
  | .ok w2 =>
    match s.vread (.core id) (fwdAddr w2 gran) with
    | .error e => .error e
    | .ok f =>
      match s.vwrite (.core id) (fwdAddr w2 gran) (mkFwd 2 id (fwdOff f)) with
      | .error e => .error e
      | .ok s' => .ok (s'.later .objectCopyDone { unit := region, sub := gran, num := id })

/-- R63 step 1: the Dormant context to which a faulting activation can be shipped. -/
def State.shipTarget (s : State) (home : Nat) (kernel : Option Nat) : Option CtxId :=
  (List.range 8).findSome? fun j =>
    let k := s.core (home * 8 + j)
    if s.coreMapped (home * 8 + j) then
      ((List.range 8).find? fun n =>
        (k.ctx n).st == .dormant && (k.ctx n).kernel == kernel && kernel.isSome && !(k.ctx n).reserved).map
        fun n => { core := home * 8 + j, ctx := n }
    else none

/-- Address of the save area of a context (R63, R223): SAVE.BASE of its die + (id × 8 + context) × 6 KiB. -/
def State.saveArea (s : State) (i : CtxId) : Nat :=
  (s.die (coreDie i.core)).saveBase.toNat + (i.core * 8 + i.ctx) * 6144

/-- A home-execute fault (R63, R141, R151): ship the activation, or trap where there is no target or the force chain is not empty; a home
on a die that has stopped answers nothing (R226). -/
def State.shipOrTrap (s : State) (home : Nat) (k : Cause) : State :=
  let c := s.ctx
  if s.answersNot (coreDie (home * 8)) then s.trap { code := 0x163, acc := k.acc }
  else match (if c.fdepth = 0 then s.shipTarget home c.kernel else none) with
  | none => s.trap k
  | some t =>
    let req : SaveReq := { image := s.saveArea t, ship := some t, acc := k.acc, level := k.level, addr := k.addr }
    let s := s.setCtx { c with st := .saving, stall := none, pend := [], saveReq := some req }
    let s := s.modCtxAt t fun c => { c with st := .restoring }
    s.later .saveComplete (evCtx s.cur)

/-- What a stop of an access of kind `acc` (R217) does to the issuing context. -/
def State.halt (s : State) (acc : Nat) : Stop → State
  | .trap k => s.trap k
  | .hold st => s.stallOn st
  | .claim region gran h =>
    match forHandle h (s.claimObject s.cur.core region gran) with
    | .ok s' => s'.stallOn (.copy region gran (some h))
    | .error (.trap k) => s.trap k
    | .error (.hold st) => s.stallOn st
    | .error _ => s.again
  | .ship home k => s.shipOrTrap home k
  | .ats va write => s.askHost va write acc
  | .ask _ _ _ => s.again

/-- The parts of an access after the answer to the one that was asked for last. -/
def Parts.answered (x : Parts) (replies : List (List Byte)) : Parts :=
  match replies, x.todo with
  | r :: _, .away k _ _ _ :: rest => { x with todo := rest, got := x.got.put k r }
  | _, _ => x

/-- How an instruction performs an element in the package: from its number, its address and its physical bytes, which are looked up again
where there are none; what was read and the flags. -/
abbrev Perform := State → (k va : Nat) → (pas : List Nat) → Except Stop (State × List Byte × Flags)

/-- A part as it is kept for a later action. -/
def Part.kept : Part → Part
  | .here k va _ => .here k va []
  | .away k port a op => .away k port a op

/-- The parts that are left for a later action of the instruction. -/
def State.keepParts (s : State) (x : Parts) : State :=
  s.modCtx fun c => { c with parts := some { x with todo := x.todo.map Part.kept }, replies := [] }

/-- The parts of an instruction that are left, in their order: an element in the package is performed, and a part beyond a port is asked
for, unless its port has ceased to carry requests (R158, R160): a port that is cut off ends it as an outstanding request (R162). `fin`
completes the instruction. -/
def State.partsFrom (s : State) (h : Hdr) (len : Nat) (d : Fld) (acc : Nat) (perform : Perform) (fin : State → Parts → State)
    (got : FMap (List Byte)) (flags : Flags) : List Part → State
  | [] => fin s { todo := [], got, flags }
  | .here k va pas :: l =>
    match perform s k va pas with
    | .error e => (s.keepParts { todo := .here k va pas :: l, got, flags }).halt acc e
    | .ok (s', bytes, fl) => s'.partsFrom h len d acc perform fin (got.put k bytes) (flags ||| fl) l
  | .away k port a op :: l =>
    if (s.port port).carries then
      (s.keepParts { todo := .away k port a op :: l, got, flags }).request port a op { h, len, d, acc, ans := .element }
    else s.trap { code := if (s.port port).hears then 0x142 else 0x144, acc, indet := acc == 2 }

/-- One action of an instruction that has parts beyond a port, all checked before the first of them was performed: it goes on with the
part after the one that has been answered. -/
def State.sendParts (s : State) (h : Hdr) (len : Nat) (d : Fld) (acc : Nat) (perform : Perform) (x : Parts)
    (fin : State → Parts → State) : State :=
  let x := x.answered s.ctx.replies
  s.partsFrom h len d acc perform fin x.got x.flags x.todo

/-- For an access without an element in the package. -/
def noPart : Perform := fun s _ _ _ => .ok (s, [], 0)

end Sys2Proof.Machine
end

