-- ==== Sys2Proof/Machine/Memory.lean ====
section
/-!
DEFINITION. Sys2Proof/Machine/Memory.lean: the memory, atomic and fence instructions (R309 to R325).
-/

namespace Sys2Proof.Machine

open Sys2Proof

/-! ### Scalar loads and stores (R313, R318) -/

/-- The single element of a scalar access of `n` bytes: the window's own where a format window governs it (R310). -/
def Context.elem (c : Context) (kind : Kind) (va n : Nat) : Elem :=
  { kind, va, offs := List.range (c.elemBytes va n), align := c.elemBytes va n
    scales := (c.scaleAt va).toList.map fun x => (va, x) }

/-- A value of `n` bytes as a word, sign- or zero-extended. -/
def extend (signed : Bool) (n code : Nat) : Word :=
  if signed then BitVec.ofInt 64 (Int.bmod code (2 ^ (8 * n))) else BitVec.ofNat 64 code

/-- What a scalar load of the element with this code gives: a decoded lane through a format window, else the value
extended from `n` bytes. -/
def State.loaded (s : State) (c : Context) (va n : Nat) (signed : Bool) (code : Nat) : Word × Flags :=
  match c.wd va with
  | some w =>
    let r := s.windowLoad s.cur.core c w va code
    (r.1.zeroExtend 64, r.2)
  | none => (extend signed n code, 0)

/-- The code that a scalar store writes. -/
def State.stored (s : State) (c : Context) (va : Nat) (x : Word) : Nat × Flags :=
  match c.wd va with
  | some w => s.windowStore s.cur.core c w va (x.truncate 32)
  | none => (x.toNat, 0)

/-- A scalar load of `n` bytes (R313). -/
def State.loadScalar (s : State) (h : Hdr) (len : Nat) (d : Fld) (srcs : List (Cls × Fld)) (addr : Context → Word)
    (n : Nat) (signed : Bool) : State :=
  s.guarded h len (some (.g, d)) srcs fun s =>
    let c := s.ctx
    let va := (addr c).toNat
    match s.access s.cur.core (c.elem .load va n) with
    | .error st => s.halt 1 st
    | .ok (.away port addrs) =>
      s.request port (addrs.headD 0) (.read n) { h, len, d, acc := 1, ans := .scalar n signed }
    | .ok (.here pas walked) =>
      let r := s.loaded c va n signed (natOfBytes (s.bytesAt pas))
      (s.noteWalks s.cur walked).done h len fun c => (c.raise r.2).dst .variable_ .g d (ofWord r.1)

/-- A scalar store of `n` bytes of gd (R313). -/
def State.storeScalar (s : State) (h : Hdr) (len : Nat) (d : Fld) (srcs : List (Cls × Fld)) (addr : Context → Word)
    (n : Nat) : State :=
  s.guarded h len none (gs d :: srcs) fun s =>
    let c := s.ctx
    let va := (addr c).toNat
    let e := c.elem .store va n
    match s.access s.cur.core e with
    | .error st => s.halt 2 st
    | .ok (.away port addrs) =>
      s.request port (addrs.headD 0) (.write (bytesOfNat n (c.srcG d).toNat)) { h, len, d, acc := 2, ans := .nothing }
    | .ok (.here pas walked) =>
      let r := s.stored c va (c.srcG d)
      ((s.noteWalks s.cur walked).writeAt (pas.zip (bytesOfNat e.offs.length r.1))).done h len (·.raise r.2)

/-- Base plus a signed offset (R309). -/
def Context.based {n : Nat} (c : Context) (a : Fld) (imm : BitVec n) : Word :=
  c.srcG a + sext64 imm

def USize3.size : USize3 → Size
  | .b => .b
  | .h => .h
  | .w => .w

def execLd (h : Hdr) (sz : Size) (d a : Fld) (imm : BitVec 6) (s : State) : Res :=
  .next (s.loadScalar h oneWord d [gs a] (·.based a imm) (Size.bytes sz) true)

def execLdU (h : Hdr) (sz : USize3) (d a : Fld) (imm : BitVec 6) (s : State) : Res :=
  .next (s.loadScalar h oneWord d [gs a] (·.based a imm) (Size.bytes (USize3.size sz)) false)

def execSt (h : Hdr) (sz : Size) (d a : Fld) (imm : BitVec 6) (s : State) : Res :=
  .next (s.storeScalar h oneWord d [gs a] (·.based a imm) (Size.bytes sz))

def execLdIndexed (h : Hdr) (sz : Size) (d a b : Fld) (s : State) : Res :=
  .next (s.loadScalar h oneWord d [gs a, gs b] (fun c => scaled (c.srcG a) (c.srcG b) sz) (Size.bytes sz) true)

def execStIndexed (h : Hdr) (sz : Size) (d a b : Fld) (s : State) : Res :=
  .next (s.storeScalar h oneWord d [gs a, gs b] (fun c => scaled (c.srcG a) (c.srcG b) sz) (Size.bytes sz))

def execLdXi (h : Hdr) (sz : Size) (d a : Fld) (imm : BitVec 26) (s : State) : Res :=
  .next (s.loadScalar h twoWord d [gs a] (·.based a imm) (Size.bytes sz) true)

def execLdUXi (h : Hdr) (sz : USize3) (d a : Fld) (imm : BitVec 26) (s : State) : Res :=
  .next (s.loadScalar h twoWord d [gs a] (·.based a imm) (Size.bytes (USize3.size sz)) false)

def execStXi (h : Hdr) (sz : Size) (d a : Fld) (imm : BitVec 26) (s : State) : Res :=
  .next (s.storeScalar h twoWord d [gs a] (·.based a imm) (Size.bytes sz))

/-- LDA (R318): a load; the order it gives holds of every access in this model (DESIGN CHOICE, log entry 2). -/
def execLda (h : Hdr) (sz : Size) (_scope : Scope) (d a : Fld) (s : State) : Res :=
  .next (s.loadScalar h twoWord d [gs a] (·.srcG a) (Size.bytes sz) false)

/-- STREL (R318). -/
def execStrel (h : Hdr) (sz : Size) (_scope : Scope) (d a : Fld) (s : State) : Res :=
  .next (s.storeScalar h twoWord d [gs a] (·.srcG a) (Size.bytes sz))

/-- FENCE (R319): every earlier access has been performed already (DESIGN CHOICE, log entry 2). -/
def execFence (h : Hdr) (_scope : Scope) (_ord : Ord3) (s : State) : Res :=
  .next (s.guarded h twoWord none [] fun s => s.done h twoWord id)

/-- PREF (R324): no access, no event, no cause. -/
def execPref (h : Hdr) (_w : Bool) (_a : Fld) (_imm : BitVec 6) (s : State) : Res :=
  .next (s.guarded h oneWord none [] fun s => s.done h oneWord id)

/-- WDSET (R325, R53). -/
def execWdset (h : Hdr) (a : Fld) (n : BitVec 3) (s : State) : Res :=
  .next (s.guarded h oneWord none [gs a] fun s =>
    let w := s.ctx.srcG a
    if wdBad w then s.trapCode 0x044
    else s.done h oneWord fun c => { c with win := c.win.set 0 n.toNat w })

/-- WDGET (R325). -/
def execWdget (h : Hdr) (d : Fld) (n : BitVec 3) (s : State) : Res :=
  .next (s.scalar h oneWord (.fixed 1) .g d [] fun c => ofWord (c.win.get 0 n.toNat))

/-! ### Vector loads and stores (R314, R315) -/

/-- The active lanes in ascending order. -/
def lanesOf (m : Mask) : List Nat :=
  (List.range 16).filter fun l => m.getLsbD l

/-- The one access of VLD and VST: the bytes of the active lanes (R314). -/
def Context.vecElem (c : Context) (kind : Kind) (va : Nat) (m : Mask) : Elem :=
  let n := c.elemBytes va 4
  { kind, va, align := n
    offs := (lanesOf m).flatMap fun l => (List.range n).map fun i => l * n + i
    scales := (lanesOf m).filterMap fun l => (c.scaleAt (va + l * n)).map fun x => (va + l * n, x) }

/-- The code at an offset of an access whose bytes were read in the order of its offsets. -/
def codeAt (offs : List Nat) (bytes : List Byte) (o n : Nat) : Nat :=
  natOfBytes ((List.range n).map fun i => ((offs.zip bytes).lookup (o + i)).getD 0)

/-- Runs of consecutive addresses, cut at 256-byte boundaries: the requests a port carries (R160, R314). -/
def runsOf : List Nat → List (Nat × Nat)
  | [] => []
  | a :: l =>
    match runsOf l with
    | [] => [(a, 1)]
    | (b, n) :: rs => if a + 1 = b ∧ b % 256 ≠ 0 then (a, n + 1) :: rs else (a, 1) :: (b, n) :: rs

/-- The writes that carry bytes to runs of addresses. -/
def writesOf : List (Nat × Nat) → List Byte → List (Nat × ExtOp)
  | [], _ => []
  | (a, n) :: rs, bytes => (a, .write (bytes.take n)) :: writesOf rs (bytes.drop n)

/-- Requests through one port as the parts of an access. -/
def partsTo (port : Nat) (l : List (Nat × ExtOp)) : List Part :=
  l.zipIdx.map fun x => .away x.2 port x.1.1 x.1.2

/-- The lane of an element with a code: through its window, or the bits. -/
def State.laneLoaded (s : State) (c : Context) (va code : Nat) : Word32 × Flags :=
  match c.wd va with
  | some w => s.windowLoad s.cur.core c w va code
  | none => (BitVec.ofNat 32 code, 0)

/-- The code of a lane for an element. -/
def State.laneStored (s : State) (c : Context) (va : Nat) (x : Word32) : Nat × Flags :=
  match c.wd va with
  | some w => s.windowStore s.cur.core c w va x
  | none => (x.toNat, 0)

/-- VLD (R314). Beyond a port, each run is a request of its own. -/
def State.loadVec (s : State) (h : Hdr) (len : Nat) (d a : Fld) (addr : Context → Word) : State :=
  s.guarded h len (some (.v, d)) [gs a] fun s =>
    let c := s.ctx
    let m := c.active h
    let va := (addr c).toNat
    let e := c.vecElem .load va m
    let n := c.elemBytes va 4
    let fin (s : State) (bytes : List Byte) : State :=
      let f : LaneFn := fun l => s.laneLoaded c (va + l * n) (codeAt e.offs bytes (l * n) n)
      s.done h len fun c =>
        (c.raise (activeFlags m f)).dstLanes .variable_ d m (c.mergeV m d fun l => (f l).1)
    let ask (x : Parts) : State := s.sendParts h len d 1 noPart x fun s x => fin s (x.got.flatMap fun y => y.2)
    match c.parts with
    | some x => ask x
    | none =>
      match s.access s.cur.core e with
      | .error st => s.halt 1 st
      | .ok (.here pas walked) => fin (s.noteWalks s.cur walked) (s.bytesAt pas)
      | .ok (.away port addrs) =>
        ask { todo := partsTo port ((runsOf addrs).map fun r => (r.1, .read r.2)), got := [], flags := 0 }

/-- VST (R314). -/
def State.storeVec (s : State) (h : Hdr) (len : Nat) (d a : Fld) (addr : Context → Word) : State :=
  s.guarded h len none [(.v, d), gs a] fun s =>
    let c := s.ctx
    let m := c.active h
    let va := (addr c).toNat
    let e := c.vecElem .store va m
    let n := c.elemBytes va 4
    let f : Nat → Nat × Flags := fun l => s.laneStored c (va + l * n) (lane (c.srcV d) l)
    let bytes := (lanesOf m).flatMap fun l => bytesOfNat n (f l).1
    let fl := activeFlags m fun l => (0, (f l).2)
    let send (x : Parts) : State := s.sendParts h len d 2 noPart x fun s _ => s.done h len id
    match c.parts with
    | some x => send x
    | none =>
      match s.access s.cur.core e with
      | .error st => s.halt 2 st
      | .ok (.here pas walked) => ((s.noteWalks s.cur walked).writeAt (pas.zip bytes)).done h len (·.raise fl)
      | .ok (.away port addrs) => send { todo := partsTo port (writesOf (runsOf addrs) bytes), got := [], flags := 0 }

def execVld (h : Hdr) (d a : Fld) (imm : BitVec 6) (s : State) : Res :=
  .next (s.loadVec h oneWord d a (·.based a imm))

def execVst (h : Hdr) (d a : Fld) (imm : BitVec 6) (s : State) : Res :=
  .next (s.storeVec h oneWord d a (·.based a imm))

def execVldXi (h : Hdr) (d a : Fld) (imm : BitVec 26) (s : State) : Res :=
  .next (s.loadVec h twoWord d a (·.based a imm))

def execVstXi (h : Hdr) (d a : Fld) (imm : BitVec 26) (s : State) : Res :=
  .next (s.storeVec h twoWord d a (·.based a imm))

/-- An element of a strided block: its number, its address, and where it is. -/
structure Placed where
  k     : Nat
  va    : Nat
  place : Place
deriving DecidableEq, Repr

/-- The access of one element of a strided block, of the size that the window of ga gives (R315). -/
def Context.stridedElem (c : Context) (kind : Kind) (va n : Nat) : Elem :=
  { kind, va, offs := List.range n, align := n, fmtBad := c.elemBytes va 4 != n
    scales := (c.scaleAt va).toList.map fun x => (va, x) }

/-- Every active element of a block, checked in order before any is performed (R315). -/
def State.placeStrided (s : State) (c : Context) (kind : Kind) (ga gb : Word) (n : Nat) : List Nat → Except Stop (List Placed)
  | [] => .ok []
  | k :: ks =>
    let va := (ga + BitVec.ofNat 64 k * gb).toNat
    match s.access s.cur.core (c.stridedElem kind va n) with
    | .error x => .error x
    | .ok place =>
      match s.placeStrided c kind ga gb n ks with
      | .error x => .error x
      | .ok l => .ok ({ k, va, place } :: l)

/-- The active elements of a block in block order (R315). -/
def stridedElems (m : Mask) (bk : Block) : List Nat :=
  (List.range (16 * blockSize bk)).filter fun k => m.getLsbD (k % 16)

/-- The pages walked for a block. -/
def walkedOf (l : List Placed) : List Nat :=
  l.flatMap fun p => match p.place with | .away _ _ => [] | .here _ walked => walked

/-- The elements of a block as the parts of one access, in block order (R188, R315); `op` is what a port is asked for an element. -/
def partsOf (op : Placed → ExtOp) (l : List Placed) : Parts :=
  { todo := l.map fun p => match p.place with
      | .here pas _ => .here p.k p.va pas
      | .away port addrs => .away p.k port (addrs.headD 0) (op p)
    got := [], flags := 0 }

/-- The physical bytes of an element that is performed now: those its check has found in this action, or those it finds again. -/
def State.elemPas (s : State) (e : Elem) (pas : List Nat) : Except Stop (List Nat) :=
  if pas ≠ [] then .ok pas
  else
    match s.access s.cur.core e with
    | .error x => .error x
    | .ok (.here pas _) => .ok pas
    | .ok (.away _ _) => .ok []

/-- An element of VLDS in the package, read and decoded in its turn: its lane, and the flags. -/
def stridedRead (c : Context) (n : Nat) : Perform := fun s _ va pas =>
  match s.elemPas (c.stridedElem .load va n) pas with
  | .error e => .error e
  | .ok pas =>
    let r := s.laneLoaded c va (natOfBytes (s.bytesAt pas))
    .ok (s, bytesOfNat 4 r.1.toNat, r.2)

/-- An element of VSTS in the package, encoded and written in its turn. -/
def stridedWrite (c : Context) (n : Nat) (x : Nat → Word32) : Perform := fun s k va pas =>
  match s.elemPas (c.stridedElem .store va n) pas with
  | .error e => .error e
  | .ok pas =>
    let e := s.laneStored c va (x k)
    .ok (s.writeAt (pas.zip (bytesOfNat n e.1)), [], e.2)

/-- VLDS (R315): every element is checked, then each is read, and the block is written. -/
def State.loadStrided (s : State) (h : Hdr) (bk : Block) (d a b : Fld) : State :=
  s.guarded h twoWord (some (.v, blockFld bk d (blockSize bk - 1))) [gs a, gs b] fun s =>
    let c := s.ctx
    let m := c.active h
    let n := c.elemBytes (c.srcG a).toNat 4
    let fin (s : State) (x : Parts) : State :=
      let f (r l : Nat) : Word32 × Flags := (BitVec.ofNat 32 (natOfBytes ((x.got.find? (16 * r + l)).getD [])), 0)
      s.done h twoWord fun c => (c.raise x.flags).writeBlock m .variable_ bk d f (blockSize bk) (c.raise x.flags)
    match c.parts with
    | some x => s.sendParts h twoWord d 1 (stridedRead c n) x fin
    | none =>
      match s.placeStrided c .load (c.srcG a) (c.srcG b) n (stridedElems m bk) with
      | .error st => s.halt 1 st
      | .ok l => (s.noteWalks s.cur (walkedOf l)).sendParts h twoWord d 1 (stridedRead c n) (partsOf (fun _ => .read n) l) fin

/-- VSTS (R315): every element is checked, then each is performed. -/
def State.storeStrided (s : State) (h : Hdr) (bk : Block) (d a b : Fld) : State :=
  s.guarded h twoWord none (blockSrcs bk d ++ [gs a, gs b]) fun s =>
    let c := s.ctx
    let m := c.active h
    let n := c.elemBytes (c.srcG a).toNat 4
    let x (k : Nat) : Word32 := lane (c.srcV (blockFld bk d (k / 16))) (k % 16)
    let fin (s : State) (p : Parts) : State := s.done h twoWord (·.raise p.flags)
    match c.parts with
    | some p => s.sendParts h twoWord d 2 (stridedWrite c n x) p fin
    | none =>
      match s.placeStrided c .store (c.srcG a) (c.srcG b) n (stridedElems m bk) with
      | .error st => s.halt 2 st
      | .ok l =>
        (s.noteWalks s.cur (walkedOf l)).sendParts h twoWord d 2 (stridedWrite c n x)
          (partsOf (fun p => .write (bytesOfNat n (s.laneStored c p.va (x p.k)).1)) l) fin

def execVlds (h : Hdr) (bk : Block) (d a b : Fld) (s : State) : Res :=
  .next (s.loadStrided h bk d a b)

def execVsts (h : Hdr) (bk : Block) (d a b : Fld) (s : State) : Res :=
  .next (s.storeStrided h bk d a b)

/-! ### Gather and scatter (R316, R317) -/

/-- CTX.GPROG with progress recorded for the instruction at a pc (R153). -/
def gprogWord (pc : Word) (m : Mask) : Word :=
  at_ 32 (field pc 33 2) ||| bitAt 31 true ||| m.zeroExtend 64

/-- The lanes to skip, when progress is recorded for the instruction at the pc: the recorded ones, or all of the one register when
the record names a later one (R153, R316). -/
def Context.skipLanes (c : Context) : Mask :=
  if c.gprog.getLsbD 31 ∧ field c.gprog 63 32 = field c.pc 33 2 then
    if field c.gprog 21 16 = 0 then c.gprog.truncate 16 else 0xFFFF
  else 0

/-- The shape of a VGATH or VSCAT: as `guarded`, and one with no active lane completes and clears CTX.GPROG (R153, R316). -/
def State.progressing (s : State) (h : Hdr) (res : Option (Cls × Fld)) (srcs : List (Cls × Fld)) (act : State → State) : State :=
  if s.ctx.predTrap h = none ∧ s.ctx.active h = 0 then
    (s.modCtx fun c => { c with gprog := 0 }).guarded h twoWord res srcs act
  else s.guarded h twoWord res srcs act

/-- Address of lane `l` (R316). -/
def Context.laneAddr (c : Context) (a b : Fld) (l : Nat) : Nat :=
  (c.srcG a + sext64 (lane (c.srcV b) l)).toNat

/-- The one element of a lane. -/
def Context.laneElem (c : Context) (kind : Kind) (va : Nat) : Elem :=
  c.elem kind va 4

/-- A VGATH that stops: the lanes done are recorded, and the register, or what the discard would hold, as loaded so far. -/
def Context.gathered (c : Context) (d : Fld) (done : Mask) (acc : Vec) : Context :=
  let c := { c with gprog := gprogWord c.pc done }
  if 56 ≤ d.toNat then { c with gath := acc } else c.writeLanes .variable_ d.toNat done acc

/-- VGATH over the lanes that are left, with the lanes done and the register as loaded so far. A lane whose answer has come is
loaded from it. -/
def State.gatherFrom (s : State) (c : Context) (h : Hdr) (d a b : Fld) (m : Mask) : List Nat → Mask → Vec → State
  | [], _, acc => s.done h twoWord fun c => { c with gprog := 0, gath := 0 }.dstLanes .variable_ d m acc
  | l :: ls, done, acc =>
    if !m.getLsbD l || done.getLsbD l then s.gatherFrom c h d a b m ls done acc
    else
      let va := c.laneAddr a b l
      let e := c.laneElem .gather va
      let kept (s : State) : State := s.modCtx (·.gathered d done acc)
      let next (s : State) (bytes : List Byte) : State :=
        let r := s.laneLoaded c va (natOfBytes bytes)
        (s.modCtx (·.raise r.2)).gatherFrom c h d a b m ls (done ||| BitVec.ofNat 16 (2 ^ l))
          (vecOf fun i => if i = l then r.1 else lane acc i)
      match s.ctx.replies with
      | r :: _ => next (s.modCtx fun c => { c with replies := [] }) r
      | [] =>
        match s.access s.cur.core e with
        | .error st => (kept s).halt 5 st
        | .ok (.here pas walked) => next (s.noteWalks s.cur walked) (s.bytesAt pas)
        | .ok (.away port addrs) =>
          (kept s).request port (addrs.headD 0) (.read e.offs.length) { h, len := twoWord, d, acc := 5, ans := .element }

/-- VSCAT over the lanes that are left. An element beyond a port is performed when its answer comes, and recorded then (R317). -/
def State.scatterFrom (s : State) (c : Context) (h : Hdr) (d a b : Fld) (m : Mask) : List Nat → Mask → State
  | [], _ => s.done h twoWord fun c => { c with gprog := 0 }
  | l :: ls, done =>
    if !m.getLsbD l || done.getLsbD l then s.scatterFrom c h d a b m ls done
    else
      let va := c.laneAddr a b l
      let e := c.laneElem .scatter va
      let kept (s : State) : State := s.modCtx fun c => { c with gprog := gprogWord c.pc done }
      let r := s.laneStored c va (lane (c.srcV d) l)
      let bytes := bytesOfNat e.offs.length r.1
      let done' := done ||| BitVec.ofNat 16 (2 ^ l)
      match s.access s.cur.core e with
      | .error st => (kept s).halt 6 st
      | .ok (.here pas walked) =>
        (((s.noteWalks s.cur walked).writeAt (pas.zip bytes)).modCtx (·.raise r.2)).scatterFrom c h d a b m ls done'
      | .ok (.away port addrs) =>
        (kept s).request port (addrs.headD 0) (.write bytes)
          { h, len := twoWord, d, acc := 6, ans := .progress (gprogWord c.pc done') }

def execVgath (h : Hdr) (d a b : Fld) (s : State) : Res :=
  .next (s.progressing h (some (.v, d)) [gs a, (.v, b)] fun s =>
    let c := s.ctx
    let skip := c.skipLanes
    let old : Vec := if 56 ≤ d.toNat ∧ skip ≠ 0 then c.gath else c.mergeV 0 d fun _ => 0
    s.gatherFrom c h d a b (c.active h) (List.range 16) skip old)

def execVscat (h : Hdr) (d a b : Fld) (s : State) : Res :=
  .next (s.progressing h none [(.v, d), gs a, (.v, b)] fun s =>
    let c := s.ctx
    (s.modCtx fun c => { c with replies := [] }).scatterFrom c h d a b (c.active h) (List.range 16) c.skipLanes)

/-! ### Atomics (R320 to R323) -/

/-- The atomic operations. -/
inductive Amo
  | add | and | or | xor | min | minu | max | maxu | swp | cas | fadd
deriving DecidableEq, Repr

/-- Number of an operation in a request (log entry 47). -/
def Amo.num : Amo → Nat
  | .add => 0
  | .and => 1
  | .or => 2
  | .xor => 3
  | .min => 4
  | .minu => 5
  | .max => 6
  | .maxu => 7
  | .swp => 8
  | .cas => 9
  | .fadd => 10

/-- The operation of a number (R160). -/
def Amo.ofNum (n : Nat) : Option Amo :=
  [Amo.add, .and, .or, .xor, .min, .minu, .max, .maxu, .swp, .cas][n]?

/-- Whether a window admits an atomic (R323). -/
def Amo.allowed (op : Amo) (w : Window) : Bool :=
  match w with
  | .none => true
  | .local_ _ => true
  | .remote _ => true
  | .hbm => true
  | .heap => true
  | .link _ => op != .fadd
  | .host => op == .add || op == .swp || op == .cas

/-- The new value of an element of `n` bytes, when one is written, and the flags (R320 to R322). -/
def Amo.apply (op : Amo) (m : Mode) (n : Nat) (o b c : Word) : Option Word × Flags :=
  let cutW (x : Word) : Word := if n = 4 then x &&& 0xFFFFFFFF else x
  let o := cutW o
  let b := cutW b
  let lt (x y : Word) : Bool := if n = 4 then (x.truncate 32 : Word32).slt (y.truncate 32) else x.slt y
  match op with
  | .add => (some (cutW (o + b)), 0)
  | .and => (some (o &&& b), 0)
  | .or => (some (o ||| b), 0)
  | .xor => (some (o ^^^ b), 0)
  | .min => (some (if lt b o then b else o), 0)
  | .minu => (some (if b.ult o then b else o), 0)
  | .max => (some (if lt o b then b else o), 0)
  | .maxu => (some (if o.ult b then b else o), 0)
  | .swp => (some b, 0)
  | .cas => (if o = b then some (cutW c) else none, 0)
  | .fadd =>
    let r := f32Add m (o.truncate 32) (b.truncate 32)
    (some (r.1.zeroExtend 64), r.2)

/-- An atomic (R320 to R323): the element at ga, combined with gb and gc (log entry 18). -/
def State.atomic (s : State) (h : Hdr) (d a : Fld) (srcs : List (Cls × Fld)) (op : Amo) (m : Context → Mode) (n : Nat)
    (b c : Context → Word) : State :=
  s.guarded h twoWord (some (.g, d)) (gs a :: srcs) fun s =>
    let x := s.ctx
    let va := (x.srcG a).toNat
    let e := { x.elem .atomic va n with
                fmtBad := (x.wd va).isSome, scales := [] }
    let e := { e with atomicOk := op.allowed (windowOf va) && (windowOf va != .heap || s.insidePinned s.cur.core e) }
    match s.access s.cur.core e with
    | .error st => s.halt 3 st
    | .ok (.away port addrs) =>
      if port = 8 ∧ !Config.hostAtomics then s.trap { code := 0x143, acc := 3, indet := true }
      else
        s.request port (addrs.headD 0) (.atomic op.num (n == 8) (b x) (c x))
          { h, len := twoWord, d, acc := 3, ans := .scalar n false, eff := true }
    | .ok (.here pas walked) =>
      let o := wordOfBytes (s.bytesAt pas)
      let r := op.apply (m x) n o (b x) (c x)
      let s := s.noteWalks s.cur walked
      let s := match r.1 with
        | some v => s.writeAt (pas.zip (bytesOfNat n v.toNat))
        | none => s
      s.done h twoWord fun c =>
        ({ c with effects := c.effects || windowOf va != Window.heap }.raise r.2).dst .variable_ .g d (ofWord o)

/-- The AMO family reads gb. -/
def State.amo (s : State) (h : Hdr) (dbl : Bool) (d a b : Fld) (op : Amo) : State :=
  s.atomic h d a [gs b] op (fun _ => .rne) (if dbl then 8 else 4) (·.srcG b) (fun _ => 0)

def execAmoAdd (h : Hdr) (dbl : Bool) (_scope : Scope) (_ord : Ord4) (d a b : Fld) (s : State) : Res :=
  .next (s.amo h dbl d a b .add)

def execAmoAnd (h : Hdr) (dbl : Bool) (_scope : Scope) (_ord : Ord4) (d a b : Fld) (s : State) : Res :=
  .next (s.amo h dbl d a b .and)

def execAmoOr (h : Hdr) (dbl : Bool) (_scope : Scope) (_ord : Ord4) (d a b : Fld) (s : State) : Res :=
  .next (s.amo h dbl d a b .or)

def execAmoXor (h : Hdr) (dbl : Bool) (_scope : Scope) (_ord : Ord4) (d a b : Fld) (s : State) : Res :=
  .next (s.amo h dbl d a b .xor)

def execAmoMin (h : Hdr) (u dbl : Bool) (_scope : Scope) (_ord : Ord4) (d a b : Fld) (s : State) : Res :=
  .next (s.amo h dbl d a b (if u then .minu else .min))

def execAmoMax (h : Hdr) (u dbl : Bool) (_scope : Scope) (_ord : Ord4) (d a b : Fld) (s : State) : Res :=
  .next (s.amo h dbl d a b (if u then .maxu else .max))

def execAmoSwp (h : Hdr) (dbl : Bool) (_scope : Scope) (_ord : Ord4) (d a b : Fld) (s : State) : Res :=
  .next (s.amo h dbl d a b .swp)

/-- AMOCAS (R321). -/
def execAmocas (h : Hdr) (dbl : Bool) (_scope : Scope) (_ord : Ord4) (d a b c : Fld) (s : State) : Res :=
  .next (s.atomic h d a [gs b, gs c] .cas (fun _ => .rne) (if dbl then 8 else 4) (·.srcG b) (·.srcG c))

/-- AMOFADD (R322). -/
def execAmofadd (h : Hdr) (rnd : Rnd) (_scope : Scope) (_ord : Ord4) (d a b : Fld) (s : State) : Res :=
  .next (s.atomic h d a [gs b] .fadd (·.mode rnd) 4 (·.srcG b) (fun _ => 0))

end Sys2Proof.Machine
end

