-- ==== Sys2Proof/Machine/Heap.lean ====
section
/-!
DEFINITION. Sys2Proof/Machine/Heap.lean: the heap instructions that make no demand (R326 to R332, R339): handle slots,
register forms, allocation, data access through handles, pinning, and the evacuation plan (R111) that EVAC shares with the
Kiln.
-/

namespace Sys2Proof.Machine

open Sys2Proof

/-! ### Handle operands (R326, R115, R116) -/

/-- An h operand. -/
def hs (f : Fld) : Cls × Fld := (.h, f)

/-- Healing a handle register (R116); a distance operand is no register. -/
def Context.heal (c : Context) (f : Fld) (t : Target) : Context :=
  if 56 ≤ f.toNat then c else c.setReg .h f.toNat (ofWord t.handle)

/-- A handle value passed through the barrier; a stop acts on the issuing context. -/
def State.withTarget (s : State) (h : Word) (k : Target → State) : State :=
  match s.barrier (.core s.cur.core) h with
  | .error e => s.halt 7 e
  | .ok t => k t

/-- Go on with the result of heap work, or stop. -/
def State.orHalt {α : Type} (s : State) (r : Except Stop α) (k : α → State) : State :=
  match r with
  | .error e => s.halt 7 e
  | .ok x => k x

/-! ### HLD and HST (R328) -/

/-- The access to a slot. -/
def Context.slotElem (c : Context) (kind : Kind) (va : Nat) : Elem :=
  { kind, va, offs := List.range 8, align := 8, fmtBad := (c.wd va).isSome }

/-- HLD: the slot is read, its handle passes the barrier, and a handle that differs is healed in the slot (R116). Where the
host completes no atomics, the slot in host memory keeps the old handle (DESIGN CHOICE, log entry 20). -/
def execHld (h : Hdr) (d a : Fld) (imm : BitVec 6) (s : State) : Res :=
  .next (s.guarded h oneWord (some (.h, d)) [gs a] fun s =>
    let c := s.ctx
    let va := (c.based a imm).toNat
    let fin (s : State) (t : Target) : State := s.done h oneWord (·.dst .variable_ .h d (ofWord t.handle))
    match s.access s.cur.core (c.slotElem .load va) with
    | .error st => s.halt 1 st
    | .ok (.here pas walked) =>
      let old := wordOfBytes (s.bytesAt pas)
      s.withTarget old fun t =>
        if t.handle = old then fin (s.noteWalks s.cur walked) t
        else
          s.orHalt (forHandle old (s.access s.cur.core (c.slotElem .heapCas va))) fun _ =>
            fin ((s.noteWalks s.cur walked).writeAt (pas.zip (bytesOfWord t.handle))) t
    | .ok (.away port addrs) =>
      let ask (op : ExtOp) (acc : Nat) : State := s.request port (addrs.headD 0) op { h, len := oneWord, d, acc, ans := .element }
      match c.replies with
      | [] => ask (.read 8) 1
      | r :: more =>
        let old := wordOfBytes r
        s.withTarget old fun t =>
          if t.handle = old ∨ more ≠ [] ∨ (port = 8 ∧ !Config.hostAtomics) then fin s t
          else ask (.atomic 9 true old t.handle) 7)

/-- The report of a handle overwritten in a space to the mark of its region (R110, R328). -/
def State.reportMark (s : State) (sid : Nat) (old : Word) : State :=
  let note (m : Marking) : Marking := if m.sid = sid ∧ m.region = hRegion old then { m with seen := old :: m.seen } else m
  { s with dies := s.dies.map fun (n, d) => (n, { d with marks := d.marks.map note }) }

/-- Whether a region of a space is being marked. -/
def State.marking (s : State) (sid : Nat) : Bool :=
  s.dies.any fun x => x.2.marks.any fun m => m.sid == sid

/-- HST: the healed handle is stored, and the handle it overwrites is reported. A slot beyond a port is read first while a region is
being marked (R110; log entry 20). -/
def execHst (h : Hdr) (d a : Fld) (imm : BitVec 6) (s : State) : Res :=
  .next (s.guarded h oneWord none [hs d, gs a] fun s =>
    let c := s.ctx
    let va := (c.based a imm).toNat
    let sid := s.sidOf (.core s.cur.core)
    s.withTarget (c.srcH d) fun t =>
      let send (x : Parts) : State :=
        s.sendParts h oneWord d 2 noPart x fun s x =>
          (match x.got.find? 0 with | some r => s.reportMark sid (wordOfBytes r) | none => s).done h oneWord (·.heal d t)
      match c.parts with
      | some x => send x
      | none =>
        match s.access s.cur.core (c.slotElem .store va) with
        | .error st => s.halt 2 st
        | .ok (.here pas walked) =>
          let old := wordOfBytes (s.bytesAt pas)
          (((s.noteWalks s.cur walked).writeAt (pas.zip (bytesOfWord t.handle))).reportMark sid old).done h oneWord (·.heal d t)
        | .ok (.away port addrs) =>
          let a := addrs.headD 0
          let put : Part := .away 1 port a (.write (bytesOfWord t.handle))
          send { todo := if s.marking sid then [.away 0 port a (.read 8), put] else [put], got := [], flags := 0 })

/-! ### HMOV, HKIND and HEQ (R329) -/

def execHmov (h : Hdr) (d a : Fld) (s : State) : Res :=
  .next (s.guarded h oneWord (some (.h, d)) [hs a] fun s =>
    s.withTarget (s.ctx.srcH a) fun t =>
      s.done h oneWord fun c => (c.heal a t).dst .variable_ .h d (ofWord t.handle))

/-- What HKIND writes for a header. -/
def kindWord (w : Word) : Word :=
  at_ 0 (hdrKind w) ||| bitAt 3 (hdrSpk w) ||| at_ 8 (hdrPcnt w)

def execHkind (h : Hdr) (d a : Fld) (s : State) : Res :=
  .next (s.guarded h oneWord (some (.g, d)) [hs a] fun s =>
    s.withTarget (s.ctx.srcH a) fun t =>
      s.done h oneWord fun c => (c.heal a t).dst .variable_ .g d (ofWord (kindWord t.hdr)))

def execHeq (h : Hdr) (d a b : Fld) (s : State) : Res :=
  .next (s.guarded h oneWord (some (.p, d)) [hs a, hs b] fun s =>
    s.withTarget (s.ctx.srcH a) fun t =>
      s.withTarget (s.ctx.srcH b) fun u =>
        s.done h oneWord fun c =>
          ((c.heal a t).heal b u).dst .variable_ .p d
            (ofMask (if hOff t.handle = hOff u.handle then 0xFFFF else 0)))

/-! ### Allocation (R330, R135) -/

/-- `n` words of an object from an address up. -/
def State.vfill (s : State) (ag : Agent) (va : Nat) (f : Nat → Word) : Nat → Except Stop State
  | 0 => .ok s
  | n + 1 => do
    let s ← s.vfill ag va f n
    s.vwrite ag (va + 8 * n) (f n)

/-- An aligned 8-byte word that a core's context writes to an object: a store, which needs W and obeys HX (R146, R151). -/
def State.storeWord (s : State) (id va : Nat) (w : Word) : Except Stop State :=
  match s.pagedByte id .heapStore va with
  | .error e => .error e
  | .ok x => if s.dieServes id x.pa then .ok (s.writeWord x.pa w) else .error (.trap { code := 0x163, acc := 7 })

/-- `n` such words. -/
def State.storeFill (s : State) (id va : Nat) (f : Nat → Word) : Nat → Except Stop State
  | 0 => .ok s
  | n + 1 => do
    let s ← s.storeFill id va f n
    s.storeWord id (va + 8 * n) (f n)

/-- Objects of a region among those allocated since its mark began, by granule and SIZE (R110; log entry 46): for the mark under way,
and for the plan after it. -/
def State.noteFresh (s : State) (ag : Agent) (region : Nat) (l : List (Nat × Nat)) : State :=
  let sid := s.sidOf ag
  let key := sid * 2 ^ 18 + region
  let note (m : Marking) : Marking := if m.sid = sid ∧ m.region = region then { m with fresh := l ++ m.fresh } else m
  { s with
    dies := s.dies.map fun (n, d) => (n, { d with marks := d.marks.map note })
    lives := match s.lives.find? key with | some r => s.lives.put key (l ++ r) | none => s.lives }

/-- Room for `size` bytes in a region: TOP advances past them (R330). A region that is being marked learns of the object
(R110). The answer is the handle, VH 0. -/
def State.bump (s : State) (ag : Agent) (region size : Nat) : Except Stop (State × Word) := do
  let w0 ← s.regionWord ag region 0
  if rgState w0 ≠ rACTIVE ∧ rgState w0 ≠ rMARKING then
    .error (.trap { code := 0x08A })
  else
    let w1 ← s.regionWord ag region 1
    let top := rgTop w1
    if 0x40000000 < top + size then .error (.trap { code := 0x090 })
    else
      let s ← s.setRegionWord ag region 1 (setField w1 31 0 (top + size))
      .ok (s.noteFresh ag region [(top / 16, size)], mkHandle (rgColor w0) (region * 2 ^ 26 + top / 16))

/-- A new object: its header words, and word `i` of what follows them from `body` (R330: word 0 last). -/
def State.allocate (s : State) (id : Nat) (region size : Nat) (w0 w1 : Word) (body : Nat → Word) :
    Except Stop (State × Word) := do
  let (s, hd) ← s.bump (.core id) region size
  let va := hAddr hd
  let s ← s.storeFill id (va + 16) body (size / 8 - 2)
  let s ← s.storeWord id (va + 8) w1
  let s ← s.storeWord id va w0
  .ok (s, hd)

/-- Bytes of the elements of a header's shape, and where the row scales start behind them (R106, R330). -/
def elemsBytes (w : Word) : Nat := hdrRows w * hdrCols w * fmtBytes (hdrFmt w)
def scalesAt (w : Word) : Nat := roundUpTo 16 (elemsBytes w)

/-- SIZE of a VALUE of a header's shape (R330). -/
def valueSize (w : Word) : Nat :=
  16 + scalesAt w + (if hdrScaled w then roundUpTo 16 (4 * hdrRows w) else 0)

/-- Whether ALLOC takes a template (R330). -/
def templateOk (w : Word) : Bool :=
  !(w.getLsbD 49) && hdrPcnt w == 0 && !hdrSpk w && field w 37 32 == 0
    && (if hdrKind w = kVALUE then
          fmtOk (hdrFmt w) && hdrFmt w != 0 && !hdrHref w && hdrSize w == 0
            && !(hdrScaled w && (hdrFmt w == 0x13 || hdrFmt w == 0x14))
        else
          hdrKind w == kBYTES && field w 60 55 == 0 && hdrFmt w == 0 && !hdrScaled w
            && hdrSize w % 16 == 0 && decide (32 ≤ hdrSize w) && decide (hdrSize w ≤ 0x40000000))

/-- Word `i` of a new VALUE's data: zero, and 1.0 for each row scale (R330). -/
def freshWord (w : Word) (i : Nat) : Word :=
  let one (k : Nat) : Nat := if hdrScaled w ∧ scalesAt w ≤ k ∧ (k - scalesAt w) / 4 < hdrRows w then 0x3F800000 else 0
  BitVec.ofNat 64 (one (8 * i) + one (8 * i + 4) * 2 ^ 32)

def execAlloc (h : Hdr) (d a b : Fld) (s : State) : Res :=
  .next (s.guarded h oneWord (some (.h, d)) [gs a, gs b] fun s =>
    let c := s.ctx
    let w := c.srcG b
    if !templateOk w then s.trapCode 0x08B
    else
      let size := if hdrKind w = kVALUE then valueSize w else hdrSize w
      s.orHalt (s.allocate s.cur.core (field (c.srcG a) 17 0) size (setField w 31 0 size) 0 (freshWord w))
        fun (s, hd) => s.done h oneWord (·.dst .variable_ .h d (ofWord (withVh hd (hdrKind w == kVALUE)))))

/-! ### Data access (R331) -/

/-- One element of an object: its lane, the physical bytes, and its row's scale. -/
structure DataElem where
  k     : Nat
  pas   : List Nat
  scale : Option Word32
deriving DecidableEq, Repr

/-- Translation of the bytes of an object for an access through its handle. -/
def State.dataBytes (s : State) (id : Nat) (h : Word) (kind : Kind) (va n : Nat) : Except Stop (List Nat × List Nat) :=
  match forHandle h (s.pagedBytes id kind va (List.range n)) with
  | .error e => .error e
  | .ok (pas, walked) =>
    match pas.find? fun pa => !s.dieServes id pa with
    | some _ => .error (.trap { code := 0x163, acc := 7, objk := 1, obj := h })
    | none =>
      match ((List.range n).zip pas).find? fun x => kind.reads && s.poisoned x.2 with
      | some x => .error (.trap { heapCause 0x160 h with addr := BitVec.ofNat 64 ((va + x.1) / 8 * 8) })
      | none => .ok (pas, walked)

/-- One element: the checks of R331, its bytes, and its scale. -/
def State.dataElem (s : State) (id : Nat) (h : Word) (t : Target) (write : Bool) (n k : Nat) (off : Int) :
    Except Stop (DataElem × List Nat) :=
  let base := hAddr t.handle + 16
  let va := (Int.toNat ((base : Int) + off)) % 2 ^ 64
  if off % n ≠ 0 then .error (.trap { heapCause 0x04C h with addr := BitVec.ofNat 64 va })
  else if off < 0 ∨ (hdrSize t.hdr : Int) < 16 + off + n then .error (.trap (heapCause 0x086 h))
  else
    match s.dataBytes id h (if write then .heapStore else .heap) va n with
    | .error e => .error e
    | .ok (pas, walked) =>
      let e := off.toNat / n
      if hdrKind t.hdr = kVALUE ∧ hdrScaled t.hdr ∧ e < hdrRows t.hdr * hdrCols t.hdr then
        match s.dataBytes id h .heap (base + scalesAt t.hdr + 4 * (e / hdrCols t.hdr)) 4 with
        | .error e => .error e
        | .ok (spas, swalked) =>
          .ok ({ k, pas, scale := some (BitVec.ofNat 32 (natOfBytes (s.bytesAt spas))) }, walked ++ swalked)
      else .ok ({ k, pas, scale := none }, walked)

/-- The elements of the lanes listed, every check before any byte moves. -/
def State.dataElems (s : State) (id : Nat) (h : Word) (t : Target) (write : Bool) (n : Nat) (off : Int) :
    List Nat → Except Stop (List DataElem × List Nat)
  | [] => .ok ([], [])
  | k :: ks =>
    match s.dataElem id h t write n k (off + (n * k : Nat)) with
    | .error e => .error e
    | .ok (x, w) =>
      match s.dataElems id h t write n off ks with
      | .error e => .error e
      | .ok (xs, ws) => .ok (x :: xs, w ++ ws)

/-- Whether an object gives data, and the size of its elements, `n` for BYTES. -/
def dataSize (t : Target) (n : Nat) : Option Nat :=
  if hdrKind t.hdr = kVALUE then some (fmtBytes (hdrFmt t.hdr)) else if hdrKind t.hdr = kBYTES then some n else none

/-- The lane of an element with this code (R331, R54, R45); the bits of a raw element are copied. -/
def dataLoad (t : Target) (inf : Bool) (x : DataElem) (code : Nat) : Word × Flags :=
  if hdrKind t.hdr = kBYTES then (BitVec.ofNat 64 code, 0)
  else if hdrFmt t.hdr = 0 then (BitVec.ofNat 64 code, 0)
  else
    let r := match x.scale with
      | some sc => scaledLoad (hdrFmt t.hdr) inf code sc
      | none => ((elemToLane (hdrFmt t.hdr) inf code).1, 0)
    (r.1.zeroExtend 64, r.2)

/-- The code a value becomes in an element (R331): rounded by CTX.FMODE.RM, SAT 0. -/
def dataStore (t : Target) (c : Context) (x : DataElem) (v : Word) : Nat × Flags :=
  if hdrKind t.hdr = kBYTES ∨ hdrFmt t.hdr = 0 then (v.toNat, 0)
  else
    match x.scale with
    | some sc => scaledStore (hdrFmt t.hdr) c.inf (modeOf c.rm) (v.truncate 32) sc
    | none => laneToElem (hdrFmt t.hdr) c.inf (modeOf c.rm) false (v.truncate 32)

/-- HRD. -/
def State.readData (s : State) (h : Hdr) (len : Nat) (d a : Fld) (off : Int) : State :=
  s.guarded h len (some (.g, d)) [hs a] fun s =>
    let c := s.ctx
    s.withTarget (c.srcH a) fun t =>
      match dataSize t 8 with
      | none => s.trap (heapCause 0x087 (c.srcH a))
      | some n =>
        s.orHalt (s.dataElem s.cur.core (c.srcH a) t false n 0 off) fun (x, walked) =>
          let r := dataLoad t c.inf x (natOfBytes (s.bytesAt x.pas))
          (s.noteWalks s.cur walked).done h len fun c => ((c.raise r.2).heal a t).dst .variable_ .g d (ofWord r.1)

/-- HWR. -/
def State.writeData (s : State) (h : Hdr) (len : Nat) (d a : Fld) (off : Int) : State :=
  s.guarded h len none [gs d, hs a] fun s =>
    let c := s.ctx
    s.withTarget (c.srcH a) fun t =>
      match dataSize t 8 with
      | none => s.trap (heapCause 0x087 (c.srcH a))
      | some n =>
        s.orHalt (s.dataElem s.cur.core (c.srcH a) t true n 0 off) fun (x, walked) =>
          let r := dataStore t c x (c.srcG d)
          ((s.noteWalks s.cur walked).writeAt (x.pas.zip (bytesOfNat n r.1))).done h len fun c => (c.raise r.2).heal a t

/-- HVLD: each active lane as HRD; the others keep their values. -/
def State.readLanes (s : State) (h : Hdr) (len : Nat) (d a : Fld) (off : Int) : State :=
  s.guarded h len (some (.v, d)) [hs a] fun s =>
    let c := s.ctx
    let m := c.active h
    s.withTarget (c.srcH a) fun t =>
      match dataSize t 4 with
      | none => s.trap (heapCause 0x087 (c.srcH a))
      | some n =>
        s.orHalt (s.dataElems s.cur.core (c.srcH a) t false n off (lanesOf m)) fun (xs, walked) =>
          let vals := xs.map fun x => (x.k, dataLoad t c.inf x (natOfBytes (s.bytesAt x.pas)))
          let f : LaneFn := fun l => (((vals.lookup l).getD (0, 0)).1.truncate 32, ((vals.lookup l).getD (0, 0)).2)
          (s.noteWalks s.cur walked).done h len fun c =>
            ((c.raise (activeFlags m f)).heal a t).dstLanes .variable_ d m (c.mergeV m d fun l => (f l).1)

/-- The writes of elements in order. -/
def State.writeElems (s : State) (n : Nat) (code : DataElem → Nat) : List DataElem → State
  | [] => s
  | x :: l => (s.writeAt (x.pas.zip (bytesOfNat n (code x)))).writeElems n code l

/-- HVST. -/
def State.writeLanes (s : State) (h : Hdr) (len : Nat) (d a : Fld) (off : Int) : State :=
  s.guarded h len none [(.v, d), hs a] fun s =>
    let c := s.ctx
    let m := c.active h
    s.withTarget (c.srcH a) fun t =>
      match dataSize t 4 with
      | none => s.trap (heapCause 0x087 (c.srcH a))
      | some n =>
        s.orHalt (s.dataElems s.cur.core (c.srcH a) t true n off (lanesOf m)) fun (xs, walked) =>
          let enc (x : DataElem) : Nat × Flags := dataStore t c x ((lane (c.srcV d) x.k).zeroExtend 64)
          let fl := xs.foldl (fun acc x => acc ||| (enc x).2) (0 : Flags)
          ((s.noteWalks s.cur walked).writeElems n (fun x => (enc x).1) xs).done h len fun c => (c.raise fl).heal a t

def execHrd (h : Hdr) (d a : Fld) (imm : BitVec 6) (s : State) : Res :=
  .next (s.readData h oneWord d a imm.toNat)

def execHwr (h : Hdr) (d a : Fld) (imm : BitVec 6) (s : State) : Res :=
  .next (s.writeData h oneWord d a imm.toNat)

def execHvld (h : Hdr) (d a : Fld) (imm : BitVec 6) (s : State) : Res :=
  .next (s.readLanes h oneWord d a imm.toNat)

def execHvst (h : Hdr) (d a : Fld) (imm : BitVec 6) (s : State) : Res :=
  .next (s.writeLanes h oneWord d a imm.toNat)

def execHrdXi (h : Hdr) (d a : Fld) (imm : BitVec 26) (s : State) : Res :=
  .next (s.readData h twoWord d a imm.toInt)

def execHwrXi (h : Hdr) (d a : Fld) (imm : BitVec 26) (s : State) : Res :=
  .next (s.writeData h twoWord d a imm.toInt)

def execHvldXi (h : Hdr) (d a : Fld) (imm : BitVec 26) (s : State) : Res :=
  .next (s.readLanes h twoWord d a imm.toInt)

def execHvstXi (h : Hdr) (d a : Fld) (imm : BitVec 26) (s : State) : Res :=
  .next (s.writeLanes h twoWord d a imm.toInt)

/-! ### Pinning (R117, R332) -/

def execPin (h : Hdr) (d a : Fld) (s : State) : Res :=
  .next (s.guarded h oneWord (some (.g, d)) [hs a] fun s =>
    let o := s.ctx.srcH a
    s.withTarget o fun t =>
      if hdrKind t.hdr ≠ kVALUE ∧ hdrKind t.hdr ≠ kBYTES ∧ hdrKind t.hdr ≠ kFAILED then s.trap (heapCause 0x087 o)
      else if hdrPcnt t.hdr = 255 then s.trap (heapCause 0x088 o)
      else
        s.orHalt (forHandle o (s.vwrite (.core s.cur.core) (hAddr t.handle) (hdrWithPcnt t.hdr (hdrPcnt t.hdr + 1))))
          fun s => (s.notePin (.core s.cur.core) t.handle (hdrSize t.hdr) (hdrPcnt t.hdr + 1)).done h oneWord fun c =>
            (c.heal a t).dst .variable_ .g d (ofWord (BitVec.ofNat 64 (hAddr t.handle))))

def execUnpin (h : Hdr) (a : Fld) (s : State) : Res :=
  .next (s.guarded h oneWord none [hs a] fun s =>
    let o := s.ctx.srcH a
    s.withTarget o fun t =>
      if hdrPcnt t.hdr = 0 then s.trap (heapCause 0x089 o)
      else
        s.orHalt (forHandle o (s.vwrite (.core s.cur.core) (hAddr t.handle) (hdrWithPcnt t.hdr (hdrPcnt t.hdr - 1))))
          fun s => (s.notePin (.core s.cur.core) t.handle (hdrSize t.hdr) (hdrPcnt t.hdr - 1)).done h oneWord (·.heal a t))

/-! ### The evacuation plan (R111, R339) -/

/-- An object of a region: its granule and its header word 0. -/
structure Obj where
  gran : Nat
  hdr  : Word
deriving DecidableEq, Repr

/-- The granules whose live-map bit is set (R107), in `n` words of the map from word `i` on: bit `g` mod 64 of word `g` / 64. -/
def State.liveGrans (s : State) (ag : Agent) (w3 : Word) : (n i : Nat) → Except Stop (List Nat)
  | 0, _ => .ok []
  | n + 1, i => do
    let w ← s.vread ag (rgLive w3 + 8 * i)
    let l ← s.liveGrans ag w3 n (i + 1)
    .ok (((List.range 64).filter fun b => w.getLsbD b).map (64 * i + ·) ++ l)

/-- A number put into an ascending list, once. -/
def insertAsc (x : Nat) : List Nat → List Nat
  | [] => [x]
  | y :: l => if x < y then x :: y :: l else if x = y then y :: l else y :: insertAsc x l

/-- The objects at these granules. A STUB is what a moved object has left: it is freed (R119). -/
def State.objectsAt (s : State) (ag : Agent) (region : Nat) : List Nat → Except Stop (List Obj)
  | [] => .ok []
  | g :: l => do
    let w ← s.vread ag (heapBase + region * 2 ^ 30 + g * 16)
    let r ← s.objectsAt ag region l
    .ok (if hdrKind w = kSTUB then r else { gran := g, hdr := w } :: r)

/-- The live objects of a region in ascending order (R110, R111): those of its live map, and those allocated since its mark began. -/
def State.liveObjects (s : State) (ag : Agent) (region top : Nat) (w3 : Word) : Except Stop (List Obj) := do
  let l ← s.liveGrans ag w3 ((top / 16 + 63) / 64) 0
  let fresh := s.lives.get [] (s.sidOf ag * 2 ^ 18 + region)
  s.objectsAt ag region (List.filter (fun g => decide (g < top / 16)) (fresh.foldl (fun acc x => insertAsc x.1 acc) l))

/-- Destinations in ascending offset order (R111): each object with its forwarding entry; the answer is the offset behind
the last planned object. -/
def planEntries (region dest : Nat) : (top : Nat) → List Obj → List (Obj × Word) × Nat
  | top, [] => ([], top)
  | top, x :: l =>
    if hdrPcnt x.hdr = 0 then
      let r := planEntries region dest (top + hdrSize x.hdr) l
      ((x, mkFwd 1 0 (dest * 2 ^ 26 + top / 16)) :: r.1, r.2)
    else
      let r := planEntries region dest top l
      ((x, mkFwd 4 0 (region * 2 ^ 26 + x.gran)) :: r.1, r.2)

/-- The completion message of a Kiln command (R109, R413). -/
def kilnDone (tag core region status : Nat) (w : Word) : Msg :=
  deviceMsg 3 tag core core 0 (region + status * 2 ^ 24) (bytesOfWord w)

/-- The payload of an EVAC's completion (R339). -/
def Evac.payload (e : Evac) : Word :=
  at_ 0 (e.moved % 2 ^ 32) ||| at_ 32 (e.stayed % 2 ^ 32)

/-- Whether an evacuation is that of a region of a space. -/
def Evac.is (e : Evac) (sid region : Nat) : Bool :=
  e.sid == sid && e.region == region

/-- R111: the plan of a region for an evacuation, with its completion message's tag and core. None where it is refused. -/
def State.planEvac (s : State) (ag : Agent) (region tag core : Nat) : Except Stop (Option State) := do
  let w0 ← s.regionWord ag region 0
  let w1 ← s.regionWord ag region 1
  let w2 ← s.regionWord ag region 2
  let w3 ← s.regionWord ag region 3
  let dest := rgDest w0
  let sid := s.sidOf ag
  let d0 ← s.regionWord ag dest 0
  let d1 ← s.regionWord ag dest 1
  let held := (s.dies.flatMap fun d => d.2.evacs).any fun e => e.sid == sid && e.fwd == rgFwd w2 && e.region != region
  if rgFwd w2 = 0 ∨ held ∨ rgState d0 ≠ rACTIVE then .ok none
  else
    let live ← s.liveObjects ag region (rgTop w1) w3
    let (plan, top) := planEntries region dest (rgTop d1) live
    if 0x40000000 < top then .ok none
    else
      let s ← s.vfill ag (rgFwd w2) (fun g => ((plan.find? fun x => x.1.gran == g).map (·.2)).getD 0) (rgTop w1 / 16)
      let s ← s.setRegionWord ag region 0 (setField (setField w0 63 62 (nextColor (rgColor w0))) 61 59 rEVACUATING)
      let s ← s.setRegionWord ag dest 1 (setField d1 31 0 top)
      let todo := (live.filter fun x => hdrPcnt x.hdr == 0).map (·.gran)
      let stayed := ((live.filter fun x => hdrPcnt x.hdr != 0).map fun x => hdrSize x.hdr).sum
      let e : Evac := { sid, region, fwd := rgFwd w2, tag, core, todo, left := todo, moved := 0, stayed, sent := false }
      let home := rgHome w0
      .ok (some ((s.modDie home fun d => { d with evacs := e :: d.evacs.filter fun x => !x.is sid region }).later
        .kilnSweep { unit := home, sub := region, num := sid }))

def execEvac (h : Hdr) (d a b : Fld) (s : State) : Res :=
  .next (s.guarded h oneWord (some (.p, d)) [gs a, gs b] fun s =>
    let c := s.ctx
    let region := field (c.srcG a) 17 0
    let ag : Agent := .core s.cur.core
    let fin (s : State) (m : Mask) : State := s.done h oneWord (·.dst .variable_ .p d (ofMask m))
    s.orHalt (s.regionWord ag region 0) fun w0 =>
      if rgState w0 ≠ rACTIVE ∨ !rgEvok w0 then fin s 0
      else
        s.orHalt (s.planEvac ag region (field (c.srcG b) 43 32) (field (c.srcG b) 12 0)) fun r =>
          match r with
          | none => fin s 0
          | some s => fin s 0xFFFF)

end Sys2Proof.Machine
end

