-- ==== Sys2Proof/Machine/Thunk.lean ====
section
/-!
DEFINITION. Sys2Proof/Machine/Thunk.lean: thunks (R121 to R141, R333 to R338): their operations, FORCE and its chain, SUSP,
UPD, SPARK, what ends an evaluation and what fails one.
-/

namespace Sys2Proof.Machine

open Sys2Proof

/-! ### Words of a thunk (R122) -/

def opCode (w : Word) : Nat := field w 63 58
def opNarg (w : Word) : Nat := field w 57 56
def opRnd (w : Word) : Mode := modeOf (w.extractLsb' 53 2)
def opSat (w : Word) : Bool := w.getLsbD 52
def opInf (w : Word) : Bool := w.getLsbD 51
def opImm (w : Word) : Nat := field w 31 0

/-- OP codes (R123). -/
def opADD : Nat := 0x01
def opMUL : Nat := 0x02
def opFMA : Nat := 0x03
def opMATMUL : Nat := 0x04
def opEXP2 : Nat := 0x05
def opREDUCE : Nat := 0x06
def opCONVERT : Nat := 0x07
def opSCALE : Nat := 0x08
def opCLOSURE : Nat := 0x20

/-- Word 1 of a THUNK. -/
def opWord (op narg : Nat) (rnd : BitVec 2) (sat inf : Bool) (imm : Nat) : Word :=
  at_ 58 op ||| at_ 56 narg ||| at_ 53 rnd.toNat ||| bitAt 52 sat ||| bitAt 51 inf ||| at_ 0 (imm % 2 ^ 32)

/-- Word 1 of a BLACKHOLE: its evaluator, and the head of its waiter list. -/
def holeWord (ev : CtxId) (head : Option CtxId) : Word :=
  at_ 51 (ev.core % 8192) ||| at_ 48 (ev.ctx % 8) |||
    (match head with | some w => at_ 35 (w.core % 8192) ||| at_ 32 (w.ctx % 8) ||| bitAt 31 true | none => 0)

def holeEv (w : Word) : CtxId := { core := field w 63 51, ctx := field w 50 48 }

def holeHead (w : Word) : Option CtxId :=
  if w.getLsbD 31 then some { core := field w 47 35, ctx := field w 34 32 } else none

/-- Word 1 of a FAILED thunk. -/
def failedWord (code : Nat) (ev : CtxId) : Word :=
  at_ 55 (code % 512) ||| at_ 42 (ev.core % 8192) ||| at_ 39 (ev.ctx % 8)

/-- A header with another KIND. -/
def hdrKindTo (w : Word) (k : Nat) : Word := setField w 63 61 k

/-- Word `i` of an object. -/
def State.objWord (s : State) (ag : Agent) (h : Word) (i : Nat) : Except Stop Word :=
  forHandle h (s.vread ag (hAddr h + 8 * i))

/-- Words `i` to `i + n − 1` of an object. -/
def State.objWords (s : State) (ag : Agent) (h : Word) (i : Nat) : Nat → Except Stop (List Word)
  | 0 => .ok []
  | n + 1 => do
    let w ← s.objWord ag h i
    let l ← s.objWords ag h (i + 1) n
    .ok (w :: l)

/-! ### Tile operations (R123, R46, R47) -/

/-- The tile of a VALUE argument: its shape and its elements, decoded exactly, scaled ones rounded by R45. -/
structure Tile where
  rows  : Nat
  cols  : Nat
  elem  : Nat → Num
  flags : Flags

/-- The code of element `k` among bytes. -/
def elemCode (bytes : List Byte) (n k : Nat) : Nat :=
  natOfBytes ((bytes.drop (n * k)).take n)

/-- Reading an argument (R123, R45). -/
def State.tileOf (s : State) (ag : Agent) (inf : Bool) (t : Target) : Except Stop Tile := do
  let w := t.hdr
  let n := fmtBytes (hdrFmt w)
  let ws ← s.objWords ag t.handle 2 (hdrSize w / 8 - 2)
  let bytes := ws.flatMap bytesOfWord
  let count := hdrRows w * hdrCols w
  let scaledElem (k : Nat) : Word32 × Flags :=
    scaledLoad (hdrFmt w) inf (elemCode bytes n k)
      (BitVec.ofNat 32 (natOfBytes ((bytes.drop (scalesAt w + 4 * (k / hdrCols w))).take 4)))
  .ok { rows := hdrRows w, cols := hdrCols w
        elem := fun k => if hdrScaled w then f32 (scaledElem k).1 else elemNum (hdrFmt w) inf (elemCode bytes n k)
        flags := if hdrScaled w then orLanes (fun k => (scaledElem k).2) count else 0 }

/-- The exact sum of a group of products (R46), with NV where the group sums to a NaN. -/
def groupSum : List (Num × Flags) → Num × Flags
  | [] => (.fin false 0 0 false, 0)
  | [p] => (p.1, p.2 ||| (if p.1.isNan then flagNV else 0))
  | p :: l =>
    let r := groupSum l
    let x := p.1.add .rne r.1
    (x.1, p.2 ||| r.2 ||| x.2 ||| (if x.1.isNan then flagNV else 0))

/-- R46: groups of 32 products, the accumulator after each; `n` groups are left. -/
def dotFrom (a b : Nat → Num) (kk : Nat) : (n j : Nat) → Word32 → Word32 × Flags
  | 0, _, acc => (acc, 0)
  | n + 1, j, acc =>
    let ks := (List.range (min 32 (kk - 32 * j))).map fun i => 32 * j + i
    let g := toF32 .rne (groupSum (ks.map fun k => (a k).mul (b k)))
    let x := f32Add .rne acc g.1
    let r := dotFrom a b kk n (j + 1) x.1
    (r.1, g.2 ||| x.2 ||| r.2)

/-- The accumulation of R46 over K products. -/
def dotR46 (a b : Nat → Num) (kk : Nat) (acc : Word32) : Word32 × Flags :=
  dotFrom a b kk ((kk + 31) / 32) 0 acc

/-- An exact value as an FP32 lane; a signalling NaN raises NV (R37, R44). -/
def exactF32 (x : Num) : Word32 × Flags := toF32 .rne (x, nanFlags x)

/-- The exponent of a power of two up to 128. -/
def log2Of (n : Nat) : Nat := ((List.range 8).find? fun k => 2 ^ k == n).getD 0

/-- Element `k` of a tile operation's result before the final conversion (R123), with the flags on the way. `ts` gives
the arguments in order. -/
def tileElem (op : Word) (cols : Nat) (ts : Nat → Tile) (k : Nat) : Num × Flags :=
  let m := opRnd op
  let x (i : Nat) : Num := (ts i).elem k
  let o := opCode op
  if o = opADD then (x 0).add m (x 1)
  else if o = opMUL then (x 0).mul (x 1)
  else if o = opFMA then (x 0).fma m (x 1) (x 2)
  else if o = opMATMUL then
    let i := k / cols
    let j := k % cols
    let kk := (ts 0).cols
    let acc : Word32 × Flags := if opNarg op = 3 then exactF32 (x 2) else (0, 0)
    let r := dotR46 (fun p => (ts 0).elem (i * kk + p)) (fun p => (ts 1).elem (p * (ts 1).cols + j)) kk acc.1
    (f32 r.1, acc.2 ||| r.2)
  else if o = opEXP2 then
    let r := toF32 m (x 0).exp2
    (f32 r.1, r.2)
  else if o = opREDUCE then
    let t := ts 0
    let red : RedOp := if opImm op / 2 % 4 = 0 then .add else if opImm op / 2 % 4 = 1 then .min else .max
    let f : LaneFn := fun p => exactF32 (t.elem (if opImm op % 2 = 0 then k * t.cols + p else p * t.cols + k))
    let r := redTree (redStep red .f32 m) f (log2Of (if opImm op % 2 = 0 then t.cols else t.rows)) 0
    (f32 r.1, r.2)
  else if o = opCONVERT then (x 0, 0)
  else (x 0).mul (f32 (BitVec.ofNat 32 (opImm op)))

/-- The bytes of a tile operation's result, row-major, and its flags. -/
def tileResult (op w0 : Word) (ts : Nat → Tile) : List Byte × Flags :=
  let n := fmtBytes (hdrFmt w0)
  let count := hdrRows w0 * hdrCols w0
  let res (k : Nat) : Nat × Flags :=
    let r := tileElem op (hdrCols w0) ts k
    let e := encodeElem (hdrFmt w0) (opInf op) (opRnd op) (opSat op) r.1
    (e.1, r.2 ||| e.2)
  ((List.range count).flatMap fun k => bytesOfNat n (res k).1,
   orLanes (fun k => (res k).2) count ||| (ts 0).flags ||| (ts 1).flags ||| (ts 2).flags)

/-- A tile of nothing, for an argument that is not there. -/
def noTile : Tile := { rows := 0, cols := 0, elem := fun _ => .fin false 0 0 false, flags := 0 }

/-- The result of a tile operation on arguments that are VALUEs. -/
def State.evalTile (s : State) (ag : Agent) (op w0 : Word) (args : List Target) : Except Stop (List Byte × Flags) := do
  let inf := opInf op
  let rec tiles : List Target → Except Stop (List Tile)
    | [] => .ok []
    | t :: l => do
      let x ← s.tileOf ag inf t
      let r ← tiles l
      .ok (x :: r)
  let ts ← tiles args
  .ok (tileResult op w0 fun i => ts.getD i noTile)

/-- Word `i` of bytes, zero behind their end. -/
def byteWord (bytes : List Byte) (i : Nat) : Word :=
  wordOfBytes ((bytes.drop (8 * i)).take 8)

/-! ### Ending an evaluation (R126, R127) -/

/-- The contexts of a waiter list from its head on. -/
def State.waitersFrom (s : State) : (fuel : Nat) → Option CtxId → List CtxId
  | 0, _ => []
  | _, none => []
  | fuel + 1, some i => i :: s.waitersFrom fuel (s.ctxAt i).waiter

/-- The ending header of a BLACKHOLE, its elements written before: word 1, word 0, and a wake to every waiter. -/
def State.endHeader (s : State) (ag : Agent) (h w0 w1 : Word) : Except Stop State := do
  let old ← s.objWord ag h 1
  let s ← forHandle h (s.vwrite ag (hAddr h + 8) w1)
  let s ← forHandle h (s.vwrite ag (hAddr h) w0)
  .ok (s.sendWakes (s.waitersFrom 65536 (holeHead old)))

/-- A VALUE header in place of a thunk's: the shape, format and scales of `shape`, the SIZE of the thunk. -/
def valueHeader (shape : Word) (size : Nat) : Word :=
  setField (setField (shape &&& 0x1FFD000000000000#64) 63 61 kVALUE) 31 0 size

/-- A tile result written in place (R126). -/
def State.endTile (s : State) (ag : Agent) (t : Target) (bytes : List Byte) : Except Stop State := do
  let size := hdrSize t.hdr
  let s ← forHandle t.handle (s.vfill ag (hAddr t.handle + 16) (byteWord bytes) (size / 8 - 2))
  s.endHeader ag t.handle (valueHeader (setField t.hdr 48 48 0) size) 0

/-- A closure's result, or UPD's: in place where the handle names a VALUE that fits, else INDIRECT (R126). -/
def State.endClosure (s : State) (ag : Agent) (t r : Target) : Except Stop State := do
  let size := hdrSize t.hdr
  if hdrKind r.hdr = kVALUE ∧ hdrSize r.hdr ≤ size then
    let ws ← s.objWords ag r.handle 2 (hdrSize r.hdr / 8 - 2)
    let s ← forHandle t.handle (s.vfill ag (hAddr t.handle + 16) (fun i => ws.getD i 0) (size / 8 - 2))
    s.endHeader ag t.handle (valueHeader r.hdr size) 0
  else s.endHeader ag t.handle (hdrKindTo t.hdr kINDIRECT) r.handle

/-- SUSPUSED of a region changed (R124, R133, R135). -/
def State.modSusp (s : State) (ag : Agent) (region : Nat) (f : Nat → Nat) : Except Stop State := do
  let w ← s.regionWord ag region 4
  s.setRegionWord ag region 4 (setField w 63 32 (f (rgUsed w)))

/-! ### Demanding an object (R124) -/

/-- What a demand finds: the VALUE, or the state it leaves for the issuing context. -/
inductive Exam
  | value (t : Target)
  | left (s : State)

/-- CONTROL_STATE, FORCE_DEPTH, THUNK_FORM, THUNK_STATE (R139, R246). -/
def cCONTROL : Nat := 0x00A
def cDEPTH : Nat := 0x08D
def cFORM : Nat := 0x08E
def cTSTATE : Nat := 0x08F

/-- The spill of a claim at depth 32 or more (R136): the state with the handle in its slot. -/
def State.spill (s : State) (c : Context) (h : Word) : Except Stop State :=
  if c.fdepth < 32 then .ok s
  else
    let base := field c.fspill 51 6 * 64
    if base = 0 then .error (.trap { code := cDEPTH })
    else
      match s.access s.cur.core { kind := .store, va := base + 8 * (c.fdepth - 32), offs := List.range 8, align := 8 } with
      | .error e => .error e
      | .ok (.away _ _) => .error (.trap { code := 0x040, acc := 2, addr := BitVec.ofNat 64 base })
      | .ok (.here pas walked) => .ok ((s.noteWalks s.cur walked).writeAt (pas.zip (bytesOfWord h)))

/-- The claim of a THUNK by the issuing context (R124, R128). SPK of a Sparked thunk stays 1 in the BLACKHOLE and in what becomes of it,
on which R121 and R122 are silent (DESIGN CHOICE, log entry 57). -/
def State.claimThunk (s : State) (t : Target) (pre : List Chain) : Except Stop State := do
  let ag : Agent := .core s.cur.core
  let c := s.ctx
  let w1 ← s.objWord ag t.handle 1
  let s ← s.spill c t.handle
  let s ← forHandle t.handle (s.vwrite ag (hAddr t.handle + 8) (holeWord s.cur none))
  let s ← forHandle t.handle (s.vwrite ag (hAddr t.handle) (hdrKindTo t.hdr kBLACKHOLE))
  let s ← forHandle t.handle (s.modSusp ag (hRegion t.handle) fun n => n - hdrSize t.hdr)
  .ok (s.modCtx fun c => { c with chain := .claim { handle := t.handle, op := w1 } :: pre })

/-- Joining the waiter list of a BLACKHOLE (R127): the context waits, its instruction still at the pc. -/
def State.joinWaiters (s : State) (t : Target) (w1 : Word) (h : Hdr) : Except Stop State := do
  let s ← forHandle t.handle
    (s.vwrite (.core s.cur.core) (hAddr t.handle + 8) (holeWord (holeEv w1) (some s.cur)))
  .ok (s.modCtx fun c =>
    { c with st := .waiting, waiter := holeHead w1, replies := [], pend := []
             wait := some { kind := .force t.handle, since := s.clock, h } })

/-- R124: a handle demanded by the issuing context. A THUNK is claimed and its entry pushed on the chain that `pre` gives; the
instruction issues again and goes on. -/
def State.examine (s : State) (h : Hdr) (x : Word) (pre : Target → List Chain) : Exam :=
  let ag : Agent := .core s.cur.core
  match s.barrier ag x with
  | .error e => .left (s.halt 7 e)
  | .ok t =>
    let k := hdrKind t.hdr
    if k = kVALUE then .value t
    else if k = kFAILED then
      .left (s.orHalt (s.objWord ag t.handle 1) fun w1 =>
        s.trap { code := field w1 63 55, objk := 1, obj := t.handle, reraise := true })
    else if k = kBLACKHOLE then
      .left (s.orHalt (s.objWord ag t.handle 1) fun w1 =>
        if holeEv w1 = s.cur then s.trap (heapCause 0x08C x)
        else if s.ctx.trapMode then s.trapCode cCONTROL
        else s.orHalt (s.joinWaiters t w1 h) id)
    else if k = kTHUNK then
      .left (if s.ctx.trapMode then s.trapCode cCONTROL
        else if s.ctx.fdepth = s.ctx.fdepthLim.toNat ∨ s.ctx.fdepthLim.toNat < s.ctx.fdepth then
          s.trap (heapCause cDEPTH x)
        else s.orHalt (s.claimThunk t (pre t)) (·.again))
    else .left (s.trap (heapCause 0x087 x))

/-- Arguments demanded in order. -/
def State.examineAll (s : State) (h : Hdr) (pre : List Chain) : List Word → List Target ⊕ State
  | [] => .inl []
  | x :: l =>
    match s.examine h x fun _ => pre with
    | .left s' => .inr s'
    | .value t =>
      match s.examineAll h pre l with
      | .inr s' => .inr s'
      | .inl ts => .inl (t :: ts)

/-! ### Evaluating (R124, R125) -/

/-- Whether a MATMUL runs on the matrix engine (R125): binary8 operands, or FP16 and BF16. -/
def engineTakes (op : Word) (args : List Target) : Bool :=
  let b8 (f : BitVec 5) : Bool := (1 ≤ f.toNat && f.toNat ≤ 7) || (9 ≤ f.toNat && f.toNat ≤ 15)
  opCode op == opMATMUL &&
    ((args.take 2).all (fun t => b8 (hdrFmt t.hdr)) || (args.take 2).all (fun t => fmt16 (hdrFmt t.hdr)))
    && !(args.any fun t => hdrFmt t.hdr == 0x10)

/-- Engine commands that are on their way to an engine from other clusters. -/
def State.mcmdsTo (s : State) (n : Nat) : Nat :=
  (s.agenda.filter fun x => x.row == .mcmdArrival && x.ev.unit == n).length

/-- Whether the queue of an engine has room: it holds 32 commands, those on their way among them (R365). -/
def State.queueRoom (s : State) (n : Nat) : Bool :=
  decide ((s.engine n).queue.length + s.mcmdsTo n < 32)

/-- The built-in sequence, or the engine's command, begins; the context is stalled until it ends. -/
def State.beginEval (s : State) (op : Word) (args : List Target) : State :=
  if engineTakes op args then
    let n := coreEngine s.cur.core
    let e := s.engine n
    if s.queueRoom n then
      let cmd : EngCmd :=
        { kind := .matmul, words := [], cmd := 0, id := 0, src := s.cur, inf := s.ctx.inf, remote := false
          started := false, since := s.clock, flags := 0, fault := 0 }
      (s.setEngine n { e with queue := e.queue ++ [cmd] }).stallOn .eval
    else s.stalledFull
  else (s.later .thunkEvalEnd (evCtx s.cur)).stallOn .eval

/-- The handle registers that the innermost demand heals. -/
def demandHeals : List Chain → List (Fld × Word × Word)
  | [] => []
  | .demand _ _ _ heals :: _ => heals
  | .claim _ :: l => demandHeals l
  | .strict _ :: l => demandHeals l

/-- Handle registers healed: each that still holds its handle as it was (R116). -/
def Context.healPending (c : Context) : List (Fld × Word × Word) → Context
  | [] => c
  | (f, old, new) :: l =>
    (if f.toNat < 56 ∧ c.reg .h f.toNat = ofWord old then c.setReg .h f.toNat (ofWord new) else c).healPending l

/-- The call of a closure (R124, R335): `retPc` follows the instruction; the loops are set aside (R256). In a code
activation the transfer leaves the payload (R78; DEDUCED, log entry 21). -/
def State.callClosure (s : State) (h : Hdr) (len code : Nat) (h1 : Word) (args : List Word) (imm : Nat)
    (keep : Word → List Loop → List Chain) : State :=
  let c := s.ctx
  let target := BitVec.ofNat 64 ((match c.kernel.bind s.kernels.find? with | some k => k.codeBase | none => 0) + code)
  let ret := c.pc + BitVec.ofNat 64 len
  if (s.codeLen s.cur).isSome then s.trapCode 0x0C4
  else
    let c := c.healPending (demandHeals c.chain)
    s.setCtx
      ((((((({ c with chain := keep ret c.loops, loops := [] }.setReg .g 55 (ofWord ret)).setReg .h 1 (ofWord h1)).setReg .h 2
        (ofWord (args.getD 0 0))).setReg .h 3 (ofWord (args.getD 1 0))).setReg .h 4 (ofWord (args.getD 2 0))).setReg .g 4
        (ofWord (BitVec.ofNat 64 imm))).jumped s.clock h target)

/-- The chain with the innermost demand marked as running a closure, or not; it has healed its registers. -/
def markCalled (b : Bool) : List Chain → List Chain
  | [] => []
  | .demand pc root _ _ :: l => .demand pc root b [] :: l
  | x :: l => x :: markCalled b l

/-- One action of the issuing FORCE, SUSP or SUSPC on what is innermost in the chain. `fin` completes the instruction with
the VALUE it demanded, once it has healed its operands. -/
def State.drive (s : State) (h : Hdr) (len : Nat) (fin : State → Target → State) : State :=
  let c := s.ctx
  let ag : Agent := .core s.cur.core
  match c.chain with
  | [] => s.again
  | .demand _ root _ heals :: rest =>
    match s.examine h root fun _ => c.chain with
    | .left s' => s'
    | .value t => fin (s.modCtx fun c => { c.healPending heals with chain := rest }) t
  | .claim x :: rest =>
    if x.updated then (s.modCtx fun c => { c with chain := rest }).again
    else
      s.orHalt (s.barrier ag x.handle) fun t =>
        s.orHalt (s.objWords ag t.handle 2 4) fun ws =>
          let args := (ws.drop 1).take (opNarg x.op)
          if opCode x.op = opCLOSURE then
            s.callClosure h len (field (ws.getD 0 0) 31 2 * 4) t.handle args (opImm x.op) fun ret loops =>
              .claim { x with retPc := some ret, loops } :: markCalled true rest
          else
            match s.examineAll h c.chain args with
            | .inr s' => s'
            | .inl ts => s.beginEval x.op ts
  | .strict x :: rest =>
    if opCode x.op = opCLOSURE then
      s.callClosure h len (field x.code 31 2 * 4) 0 x.args (opImm x.op) fun ret loops =>
        .strict { x with retPc := some ret, loops } :: markCalled true rest
    else
      match s.examineAll h c.chain x.args with
      | .inr s' => s'
      | .inl ts => s.beginEval x.op ts

/-- Whether the issuing instruction has begun already and goes on: the innermost demand is its own. -/
def Context.resuming (c : Context) : Bool :=
  let rec go : List Chain → Bool
    | [] => false
    | .demand pc _ called _ :: _ => pc == c.pc && !called
    | .claim _ :: l => go l
    | .strict _ :: l => go l
  go c.chain

/-- Handle operands that are healed later: their fields, what they hold, and their present handles. -/
def Context.healsOf (c : Context) (ts : List (Fld × Target)) : List (Fld × Word × Word) :=
  ts.map fun x => (x.1, c.srcH x.1, x.2.handle)

/-- FORCE completes: hd receives the VALUE's handle, VH 1. -/
def forceDone (h : Hdr) (d : Fld) (s : State) (t : Target) : State :=
  s.done h oneWord (·.dst .variable_ .h d (ofWord (withVh t.handle true)))

def execForce (h : Hdr) (d a : Fld) (s : State) : Res :=
  .next (if s.ctx.resuming then s.drive h oneWord (forceDone h d)
    else s.guarded h oneWord (some (.h, d)) [hs a] fun s =>
      let c := s.ctx
      let x := c.srcH a
      match s.examine h x fun t => .demand c.pc x false (c.healsOf [(a, t)]) :: c.chain with
      | .left s' => s'
      | .value t => forceDone h d (s.modCtx (·.heal a t)) t)

/-- FORCENB (R131, R336); hd receives the VALUE's handle with VH 1, as FORCE gives it (DEDUCED, log entry 41). -/
def execForcenb (h : Hdr) (d a b : Fld) (s : State) : Res :=
  .next (s.guarded h oneWord (some (.h, d)) [hs a] fun s =>
    s.withTarget (s.ctx.srcH a) fun t =>
      s.done h oneWord fun c =>
        let c := c.heal a t
        if hdrKind t.hdr = kVALUE then (c.dst .variable_ .h d (ofWord (withVh t.handle true))).dstNoEntry .variable_ .p b 0xFFFF
        else (c.pushUnchanged .h d).dstNoEntry .variable_ .p b 0)

/-! ### SUSP and SUSPC (R333, R334) -/

/-- OP and NARG of an OPSEL. -/
def suspCode : SuspOp → Nat × Nat
  | .add => (opADD, 2)
  | .mul => (opMUL, 2)
  | .fma => (opFMA, 3)
  | .mm => (opMATMUL, 2)
  | .mmacc => (opMATMUL, 3)
  | .exp2 => (opEXP2, 1)
  | .red => (opREDUCE, 1)
  | .cvt => (opCONVERT, 1)
  | .scal => (opSCALE, 1)

/-- A format no tile operation takes (R123). -/
def tileFmtBad (f : BitVec 5) : Bool := f == 0 || f == 0x13 || f == 0x14 || !fmtOk f

/-- Whether the shapes agree with the operation (R333). -/
def shapesOk (op imm rows cols : Nat) (args : List Word) : Bool :=
  let r (i : Nat) : Nat := hdrRows (args.getD i 0)
  let c (i : Nat) : Nat := hdrCols (args.getD i 0)
  if op = opADD ∨ op = opMUL ∨ op = opFMA then args.all fun w => hdrRows w == rows && hdrCols w == cols
  else if op = opMATMUL then
    r 0 == rows && c 0 == r 1 && c 1 == cols && (args.length < 3 || (r 2 == rows && c 2 == cols))
  else if op = opREDUCE then
    if imm % 2 = 0 then r 0 == rows && cols == 1 else rows == 1 && c 0 == cols
  else r 0 == rows && c 0 == cols

/-- The other cases of THUNK_FORM of a tile operation (R123, R333). -/
def suspFormOk (op imm rows cols : Nat) (src : Word) (fmt : BitVec 5) (args : List Word) : Bool :=
  !tileFmtBad fmt && args.all (fun w => !tileFmtBad (hdrFmt w))
    && (if op = opREDUCE then decide (imm < 8) && imm / 2 != 3 else op == opSCALE || src == 0)
    && shapesOk op imm rows cols args

/-- Handle registers of a run, with their fields. -/
def runFlds (f : Fld) (n : Nat) : List Fld :=
  (List.range n).map fun i => f + BitVec.ofNat 6 i

/-- Handle operands in field order, each healed. -/
def State.targets (s : State) : List Fld → Except Stop (List (Fld × Target))
  | [] => .ok []
  | f :: l =>
    match s.barrier (.core s.cur.core) (s.ctx.srcH f) with
    | .error e => .error e
    | .ok t =>
      match s.targets l with
      | .error e => .error e
      | .ok ts => .ok ((f, t) :: ts)

/-- The registers of operands healed. -/
def Context.healAll (c : Context) : List (Fld × Target) → Context
  | [] => c
  | (f, t) :: l => (c.heal f t).healAll l

/-- Completion of a strict fallback: hd names the VALUE, pb := 0. -/
def suspDone (h : Hdr) (d b : Fld) (s : State) (t : Target) : State :=
  s.done h twoWord fun c => (c.dst .variable_ .h d (ofWord (withVh t.handle true))).dstNoEntry .variable_ .p b 0

/-- R334, after the form checks: a thunk within quota, or the strict fallback. -/
def State.suspend (s : State) (h : Hdr) (d b : Fld) (region size : Nat) (word0 op code : Word) (ts : List (Fld × Target))
    (args : List Word) : State :=
  let ag : Agent := .core s.cur.core
  s.orHalt (s.regionWord ag region 1) fun w1 =>
    s.orHalt (s.regionWord ag region 4) fun w4 =>
      if rgUsed w4 + size ≤ rgQuota w1 then
        let body (i : Nat) : Word := if i = 0 then code else if i ≤ 3 then args.getD (i - 1) 0 else 0
        s.orHalt (do
          let (s, hd) ← s.allocate s.cur.core region size (setField (hdrKindTo word0 kTHUNK) 31 0 size) op body
          let s ← s.modSusp ag region (· + size)
          .ok (s, hd)) fun (s, hd) =>
          s.done h twoWord fun c =>
            ((c.healAll ts).dst .variable_ .h d (ofWord hd)).dstNoEntry .variable_ .p b 0xFFFF
      else
        (s.modCtx fun c =>
          { c with
            chain := .strict { word0, op, code, args, region } :: .demand c.pc 0 false (c.healsOf ts) :: c.chain }).again

/-- The header of a result: shape and format, everything else zero. -/
def shapeWord (lrows lcols : BitVec 3) (fmt : BitVec 5) : Word :=
  at_ 58 lrows.toNat ||| at_ 55 lcols.toNat ||| at_ 50 fmt.toNat

def execSusp (h : Hdr) (op : SuspOp) (d a b x : Fld) (fmt : BitVec 5) (rnd : Rnd) (sat : Bool) (lrows lcols : BitVec 3)
    (s : State) : Res :=
  .next (if s.ctx.resuming then s.drive h twoWord (suspDone h d b)
    else
      let (code, narg) := suspCode op
      s.guarded h twoWord (some (.h, d)) ((runFlds a narg).map hs ++ [gs x]) fun s =>
        let c := s.ctx
        let src := c.srcG x
        let imm := field src 31 0
        s.orHalt (s.targets (runFlds a narg)) fun ts =>
          let w0 := shapeWord lrows lcols fmt
          if !suspFormOk code imm (2 ^ lrows.toNat) (2 ^ lcols.toNat) src fmt (ts.map (·.2.hdr)) then s.trapCode cFORM
          else
            let rm : BitVec 2 := match rnd with | .rne => 0 | .rtz => 1 | .rdn => 2 | .rup => 3 | .dyn => c.rm
            let region := match ts with | (_, t) :: _ => hRegion t.handle | [] => 0
            s.suspend h d b region (max 48 (valueSize w0)) w0 (opWord code narg rm sat c.inf imm) 0 ts
              (ts.map (·.2.handle)))

def execSuspc (h : Hdr) (d a b x : Fld) (fmt : BitVec 5) (n : BitVec 2) (lrows lcols : BitVec 3) (s : State) : Res :=
  .next (if s.ctx.resuming then s.drive h twoWord (suspDone h d b)
    else
      let flds := runFlds x (max 1 n.toNat)
      s.guarded h twoWord (some (.h, d)) (gs a :: flds.map hs) fun s =>
        let c := s.ctx
        let src := c.srcG a
        s.orHalt (s.targets flds) fun ts =>
          if field src 1 0 ≠ 0 then s.trapCode cFORM
          else
            let region := match ts with | (_, t) :: _ => hRegion t.handle | [] => 0
            s.suspend h d b region 48 (shapeWord lrows lcols fmt)
              (opWord opCLOSURE n.toNat 0 false c.inf (field src 63 32)) (src &&& 0xFFFFFFFC#64) ts
              ((ts.map (·.2.handle)).take n.toNat))

/-! ### UPD and SPARK (R138, R132) -/

/-- The chain with the claim of an object marked as updated. -/
def markUpdated (off : Nat) : List Chain → List Chain
  | [] => []
  | .claim c :: l => if hOff c.handle = off ∧ !c.updated then .claim { c with updated := true } :: l else .claim c :: markUpdated off l
  | x :: l => x :: markUpdated off l

/-- The handles of the chain follow their objects when they move (R141). -/
def State.presentChain (s : State) (ag : Agent) : List Chain → List Chain
  | [] => []
  | .claim c :: l =>
    (match s.barrier ag c.handle with
      | .ok t => .claim { c with handle := t.handle }
      | .error _ => .claim c) :: s.presentChain ag l
  | x :: l => x :: s.presentChain ag l

def execUpd (h : Hdr) (a b : Fld) (s : State) : Res :=
  .next (s.guarded h oneWord none [hs a, hs b] fun s =>
    let c := s.ctx
    let ag : Agent := .core s.cur.core
    s.withTarget (c.srcH a) fun t =>
      s.withTarget (c.srcH b) fun r =>
        if hdrKind t.hdr ≠ kBLACKHOLE then s.trap (heapCause cTSTATE (c.srcH a))
        else
          s.orHalt (s.objWord ag t.handle 1) fun w1 =>
            if holeEv w1 ≠ s.cur then s.trap (heapCause cTSTATE (c.srcH a))
            else
              let chain := markUpdated (hOff t.handle) (s.presentChain ag c.chain)
              s.orHalt (s.endClosure ag t r) fun s =>
                s.done h oneWord fun c => ({ c with chain, effects := true }.heal a t).heal b r)

/-- The overflow core of a core's record in its kernel (R83, R86). -/
def State.overflowOf (s : State) (i : CtxId) : Nat :=
  match (s.ctxAt i).kernel.bind s.kernels.find? with
  | some k => ((k.cores.find? fun r => r.core == i.core).map (·.ovf)).getD i.core
  | none => i.core

/-- A spark queued at a core, or at its overflow core, or nowhere (R132, R86). -/
def State.pushSpark (s : State) (x : Word) : State :=
  let core := s.cur.core
  let ovf := s.overflowOf s.cur
  if s.me.sparge.length < 64 then s.modMe fun k => { k with sparge := k.sparge ++ [x] }
  else if ovf ≠ core ∧ (s.core ovf).sparge.length < 64 then s.modCore ovf fun k => { k with sparge := k.sparge ++ [x] }
  else s

def execSpark (h : Hdr) (a : Fld) (s : State) : Res :=
  .next (s.guarded h oneWord none [hs a] fun s =>
    s.withTarget (s.ctx.srcH a) fun t =>
      if hdrKind t.hdr = kTHUNK ∧ !hdrSpk t.hdr then
        s.orHalt (forHandle t.handle (s.vwrite (.core s.cur.core) (hAddr t.handle) (setField t.hdr 39 39 1))) fun s =>
          (s.pushSpark t.handle).done h oneWord (·.heal a t)
      else s.done h oneWord (·.heal a t))

/-! ### The RET that ends a closure (R253, R126, R334) -/

/-- Whether a target ends the innermost closure. -/
def Context.endsClosure (c : Context) (target : Word) : Bool :=
  match c.chain with
  | .claim x :: _ => x.retPc == some target
  | .strict x :: _ => x.retPc == some target
  | .demand _ _ _ _ :: _ => false
  | [] => false

/-- The address of the innermost demand. -/
def demandPc : List Chain → Option Word
  | [] => none
  | .demand pc _ _ _ :: _ => some pc
  | .claim _ :: l => demandPc l
  | .strict _ :: l => demandPc l

/-- The chain with the innermost demand wanting another object. -/
def setRoot (root : Word) : List Chain → List Chain
  | [] => []
  | .demand pc _ called heals :: l => .demand pc root called heals :: l
  | x :: l => x :: setRoot root l

/-- The closure's entry is popped, its loops return, and the instruction that called it issues again and completes. -/
def State.closureReturned (s : State) (h : Hdr) (loops : List Loop) (rest : List Chain) : State :=
  let c := s.ctx
  let pc := (demandPc rest).getD c.pc
  s.setCtx { (c.passed s.clock h.stall) with chain := markCalled false rest, loops, pc }

/-- RET to the return address of the innermost closure. -/
def State.returnClosure (s : State) (h : Hdr) : State :=
  let c := s.ctx
  let ag : Agent := .core s.cur.core
  match c.chain with
  | .claim x :: rest =>
    if x.updated then s.closureReturned h x.loops rest
    else
      s.orHalt (s.barrier ag x.handle) fun t =>
        s.withTarget (c.srcH 1) fun r =>
          s.orHalt (s.endClosure ag t r) fun s =>
            (s.modCtx fun c => { c with effects := true }).closureReturned h x.loops rest
  | .strict x :: rest =>
    s.withTarget (c.srcH 1) fun r =>
      (s.modCtx fun c => c.heal 1 r).closureReturned h x.loops (setRoot r.handle rest)
  | .demand _ _ _ _ :: _ => s.again
  | [] => s.again

/-! ### Ends and failures -/

/-- What a stop of background work does to the context it is for: a trap at its pc, or a stall after which its instruction
issues again. -/
def State.haltAt (s : State) (i : CtxId) : Stop → State
  | .trap k => s.takeTrap i (s.ctxAt i).pc k
  | .hold st => s.stallAt i st
  | .claim region gran h =>
    match forHandle h (s.claimObject i.core region gran) with
    | .ok s' => s'.stallAt i (.copy region gran (some h))
    | .error (.trap k) => s.takeTrap i (s.ctxAt i).pc k
    | .error (.hold st) => s.stallAt i st
    | .error _ => s
  | .ship _ k => s.takeTrap i (s.ctxAt i).pc k
  | .ats _ _ => s
  | .ask _ _ _ => s

/-- Arguments that must be VALUEs now. -/
def State.valuesOf (s : State) (ag : Agent) : List Word → Except Stop (Option (List Target))
  | [] => .ok (some [])
  | x :: l => do
    let t ← s.barrier ag x
    let r ← s.valuesOf ag l
    .ok (if hdrKind t.hdr = kVALUE then r.map (t :: ·) else none)

/-- The end of a built-in evaluation of a context (R126): the result, the header, the wakes, the flags. An argument that is
no VALUE any more is demanded anew. -/
def State.evalEnd (s : State) (i : CtxId) : State :=
  let c := s.ctxAt i
  let ag : Agent := .core i.core
  let s0 := s.modCtxAt i fun c => { c with stall := none }
  let orStop {α : Type} (r : Except Stop α) (k : α → State) : State :=
    match r with
    | .error e => s0.haltAt i e
    | .ok x => k x
  match c.chain with
  | .claim x :: rest =>
    orStop (do
      let t ← s0.barrier ag x.handle
      let ws ← s0.objWords ag t.handle 3 3
      let vs ← s0.valuesOf ag (ws.take (opNarg x.op))
      match vs with
      | none => .ok s0
      | some ts =>
        let r ← s0.evalTile ag x.op t.hdr ts
        let s1 ← s0.endTile ag t r.1
        .ok (s1.modCtxAt i fun c => { c.raise r.2 with chain := rest, effects := true })) id
  | .strict x :: rest =>
    orStop (do
      let vs ← s0.valuesOf ag x.args
      match vs with
      | none => .ok s0
      | some ts =>
        let r ← s0.evalTile ag x.op x.word0 ts
        let size := valueSize x.word0
        let (s1, hd) ← s0.allocate i.core x.region size (setField x.word0 31 0 size) 0 (byteWord r.1)
        .ok (s1.modCtxAt i fun c => { c.raise r.2 with chain := setRoot (withVh hd true) rest })) id
  | .demand _ _ _ _ :: _ => s0
  | [] => s0

/-- THUNK_EVAL_END (R126). -/
def execThunkEvalEnd (s : State) : Res :=
  .next (if (s.ctxAt s.evId).stall = some .eval then s.evalEnd s.evId else s)

/-- The trap notice of a context (R218): to the event core of its partition. -/
def State.trapNotice (s : State) (i : CtxId) (code : Nat) : State :=
  match (s.ctxAt i).kernel.bind s.kernels.find? with
  | none => s
  | some k =>
    let p := s.part k.part
    s.post (deviceMsg 3 (partTtag p) (partEvcore p) i.core i.ctx (i.core + i.ctx * 2 ^ 13 + code * 2 ^ 16) [])

/-- The object of a handle for a write of the hardware's own that does not wait (R129, R127, R141): a planned object is claimed, and
one that is planned or copied is taken where it is until its copy is made, which carries the write. `fuel` bounds the hops. -/
def State.presentFrom (s : State) (id : Nat) : (fuel : Nat) → (h : Word) → Except Stop (State × Target)
  | 0, h => .error (.trap (heapCause 0x085 h))
  | fuel + 1, h =>
    let inPlace (s : State) (region gran : Nat) : Except Stop (State × Target) := do
      let w0 ← s.regionWord (.core id) region 0
      s.presentFrom id fuel (mkHandle (rgColor w0) (region * 2 ^ 26 + gran))
    match s.barrier (.core id) h with
    | .ok t => .ok (s, t)
    | .error (.claim region gran _) =>
      match s.claimObject id region gran with
      | .ok s' => inPlace s' region gran
      | .error e => .error e
    | .error (.hold (.copy region gran _)) => inPlace s region gran
    | .error e => .error e

/-- Such a write: it is made at a page that migrates before the page's bytes go on, so that no queue holds it up (DESIGN CHOICE, log entry 17). -/
def State.atOnce (s : State) (id : Nat) (h : Word) (f : State → Target → Except Stop State) : Except Stop State := do
  let (s', t) ← { s with frames := [] }.presentFrom id 6 h
  let u ← f s' t
  .ok { u with frames := s.frames }

/-- R129: one BLACKHOLE of a chain becomes FAILED; a write that faults leaves it and sends a notice. -/
def State.failOne (s : State) (i : CtxId) (code : Nat) (x : Claim) : State :=
  match s.atOnce i.core x.handle fun s t =>
      s.endHeader (.core i.core) t.handle (hdrKindTo t.hdr kFAILED) (failedWord code i) with
  | .ok s' => s'
  | .error (.trap k) => s.trapNotice i k.code
  | .error _ => s.trapNotice i 0

/-- R129: every BLACKHOLE of a list, the innermost first. -/
def State.failAll (s : State) (i : CtxId) (code : Nat) : List Chain → State
  | [] => s
  | .claim x :: l => (if x.updated then s else s.failOne i code x).failAll i code l
  | .demand _ _ _ _ :: l => s.failAll i code l
  | .strict _ :: l => s.failAll i code l

/-- R129, R219: the force chain of an aborted or restarted activation fails with its trap's cause, and is emptied. -/
def State.failChain (s : State) (i : CtxId) : State :=
  let c := s.ctxAt i
  (s.failAll i (field c.trapCause 8 0) c.chain).modCtxAt i fun c => { c with chain := [] }

/-! ### Sparks (R132 to R134) -/

/-- THK.SPK with one count raised; each stops at 0xFFFF. -/
def spkCount (w : Word) (lo : Nat) : Word :=
  setField w (lo + 15) lo (min (field w (lo + 15) lo + 1) 0xFFFF)

/-- A core may run a spark (R132): nothing pending and enabled, two Dormant contexts of one kernel. The answer is the
highest-numbered Dormant context. -/
def State.sparkCtx (s : State) (core : Nat) : Option Nat :=
  let k := s.core core
  let idle := k.inbox.all (fun x => x.2.bound || !(k.tag x.2.entry).en) &&
    k.tags.all (fun x => !(x.2.v && x.2.kind == 1 && x.2.pend && x.2.en))
  if k.sparge = [] ∨ !idle ∨ s.coreHeld core then none
  else
    (List.range 8).reverse.find? fun n =>
      let dormant (m : Nat) : Bool := (k.ctx m).st == .dormant && (k.ctx m).kernel == (k.ctx n).kernel && !(k.ctx m).reserved
      dormant n && (k.ctx n).kernel.isSome && (List.range n).any dormant

/-- What a spark does when an access of it cannot go on: it stays the oldest of its queue while its object is moved (R113, R141) or a
page migrates (R156); a trap ends it with a count. -/
def State.sparkStop (s : State) (core : Nat) (count : Nat) : Stop → State × Option Nat
  | .claim region gran _ =>
    match s.claimObject core region gran with
    | .ok s' => (s', none)
    | .error (.hold (.migration frame p)) => (s.enqueue frame ⟨.event .sparkRun s.ev, p⟩, none)
    | .error (.hold _) => (s, none)
    | .error _ => (s, some count)
  | .hold (.migration frame p) => (s.enqueue frame ⟨.event .sparkRun s.ev, p⟩, none)
  | .hold _ => (s, none)
  | .trap _ => (s, some count)
  | .ship _ _ => (s, some count)
  | .ats _ _ => (s, some count)
  | .ask _ _ _ => (s, some count)

/-- SPK of a thunk cleared, and the count that the spark ends with. -/
def State.clearSpk (s : State) (core : Nat) (t : Target) (count : Nat) : State × Option Nat :=
  match s.vwrite (.core core) (hAddr t.handle) (setField t.hdr 39 39 0) with
  | .ok s' => (s', some count)
  | .error e => s.sparkStop core count e

/-- The outcome of a spark of a core by its context `n`: the state, and the count it raises; none while it waits. -/
def State.runSpark (s : State) (core n : Nat) (x : Word) : State × Option Nat :=
  let ag : Agent := .core core
  match s.barrier ag x with
  | .error e => s.sparkStop core 16 e
  | .ok t =>
    if hdrKind t.hdr ≠ kTHUNK then (s, some 16)
    else
      match (do
          let op ← s.objWord ag t.handle 1
          if opCode op = opCLOSURE then .ok none
          else
            let ws ← s.objWords ag t.handle 3 3
            let vs ← s.valuesOf ag (ws.take (opNarg op))
            .ok (vs.map fun ts => (op, ts))) with
      | .error (.trap _) => s.clearSpk core t 32
      | .error e => s.sparkStop core 32 e
      | .ok none => s.clearSpk core t 32
      | .ok (some (op, ts)) =>
        match (do
            let r ← s.evalTile ag op t.hdr ts
            let s1 ← s.vwrite ag (hAddr t.handle + 8) (holeWord { core, ctx := n } none)
            let s2 ← s1.modSusp ag (hRegion t.handle) fun m => m - hdrSize t.hdr
            s2.endTile ag { t with hdr := hdrKindTo t.hdr kBLACKHOLE } r.1) with
        | .ok s' => (s', some 0)
        | .error (.trap _) => s.clearSpk core t 48
        | .error e => s.sparkStop core 48 e

/-- SPARK_RUN: the oldest spark of an idle core, evaluated, abandoned or fizzled in one action (DESIGN CHOICE, log entry 22). -/
def execSparkRun (s : State) : Res :=
  let core := s.ev.unit
  .next (match s.sparkCtx core, (s.core core).sparge with
    | some n, x :: l =>
      match s.runSpark core n x with
      | (s', some lo) => s'.modCore core fun k => { k with sparge := l, spk := spkCount k.spk lo }
      | (s', none) => s'
    | _, _ => s)

end Sys2Proof.Machine
end

