-- ==== Sys2Proof/Machine/Kiln.lean ====
section
/-!
DEFINITION. Sys2Proof/Machine/Kiln.lean: the Kiln engine (R108 to R114, R137): its command queue, marking, evacuation,
release, its sweep, and the copy of a claimed object.
-/

namespace Sys2Proof.Machine

open Sys2Proof

/-! ### Commands (R109) -/

def kilnRegion (c : Cmd4) : Nat := field c.w0 63 46
def kilnOp (c : Cmd4) : Nat := field c.w0 2 0
def kilnAddr (c : Cmd4) : Nat := field c.w1 51 0
def kilnCount (c : Cmd4) : Nat := field c.w2 31 0
def kilnTag (c : Cmd4) : Nat := field c.w3 43 32
def kilnCore (c : Cmd4) : Nat := field c.w3 12 0

/-- Status codes of a completion (R109). -/
def kDONE : Nat := 0
def kSTATE : Nat := 1
def kFORM : Nat := 2
def kHOME : Nat := 3
def kREFUSED : Nat := 4
def kFAULT : Nat := 5

/-- Whether a command keeps the form of its OP (R109). -/
def kilnFormOk (c : Cmd4) : Bool :=
  field c.w0 45 3 == 0 && field c.w1 63 52 == 0 && field c.w2 63 32 == 0 && field c.w3 63 44 == 0
    && field c.w3 31 13 == 0
    && (if kilnOp c = 2 then kilnAddr c % 8 == 0
        else if kilnOp c = 4 then kilnAddr c % 64 == 0 && kilnCount c == 0
        else (kilnOp c == 1 || kilnOp c == 3 || kilnOp c == 5) && kilnAddr c == 0 && kilnCount c == 0)

/-- The event that carries out a command; one whose OP is reserved goes to the first, which refuses its form. -/
def kilnRow (c : Cmd4) : Instr :=
  if kilnOp c = 2 then .kilnMark else if kilnOp c = 3 then .kilnEvac
  else if kilnOp c = 4 then .kilnRelease else if kilnOp c = 5 then .kilnFree else .kilnActivate

/-- The next command of a die's queue is begun. -/
def State.kilnNext (s : State) (d : Nat) : State :=
  match (s.die d).kilnQ with
  | [] => s
  | c :: _ => s.later (kilnRow c) { unit := d, cmd := c }

/-- The command at the head of the queue ends: its message when one is due now, and the next command. -/
def State.kilnEnd (s : State) (d : Nat) (m : Option Msg) : State :=
  let s := s.modDie d fun x => { x with kilnQ := x.kilnQ.drop 1 }
  let s := match m with | some m => s.post m | none => s
  s.kilnNext d

/-- A command of the queue's head with the form and home checks (R109), then `act` on the region's word 0; a fault of
`act` before it takes effect is FAULT. `act` answers the state and the completion message's status and payload, or none
where the message follows later. A command waits for a page that migrates. -/
def State.kilnCommand (s : State) (row : Instr) (op : Nat)
    (act : State → Nat → Cmd4 → Word → Except Stop (State × Option (Nat × Word))) : State :=
  let d := s.ev.unit
  let c := s.ev.cmd
  let refuse (st : Nat) : State := s.kilnEnd d (some (kilnDone (kilnTag c) (kilnCore c) (kilnRegion c) st 0))
  if (s.die d).kilnQ.head? ≠ some c then s
  else if !kilnFormOk c ∨ kilnOp c ≠ op then refuse kFORM
  else
    match s.regionWord (.die d) (kilnRegion c) 0 with
    | .error (.hold st) => s.await row st
    | .error _ => refuse kFAULT
    | .ok w0 =>
      if rgHome w0 ≠ d then refuse kHOME
      else
        match act s d c w0 with
        | .error (.hold st) => s.await row st
        | .error _ => refuse kFAULT
        | .ok (s', none) => s'
        | .ok (s', some (st, w)) => s'.kilnEnd d (some (kilnDone (kilnTag c) (kilnCore c) (kilnRegion c) st w))

/-- Word 0 with another state and color. -/
def rgTo (w0 : Word) (st color : Nat) : Word := setField (setField w0 61 59 st) 63 62 color

/-- The record of the objects allocated since the last mark of a region begins anew, or there is none (R110; log entry 46). -/
def State.setLives (s : State) (sid region : Nat) (l : Option (List (Nat × Nat))) : State :=
  let key := sid * 2 ^ 18 + region
  { s with lives := match l with | some l => s.lives.put key l | none => s.lives.erase key }

/-- ACTIVATE (R108). -/
def execKilnActivate (s : State) : Res :=
  .next (s.kilnCommand .kilnActivate 1 fun s d c w0 =>
    if rgState w0 ≠ rFREE then .ok (s, some (kSTATE, 0))
    else do
      let w1 ← s.regionWord (.die d) (kilnRegion c) 1
      let s ← s.setRegionWord (.die d) (kilnRegion c) 1 (setField w1 31 0 0)
      let s ← s.setRegionWord (.die d) (kilnRegion c) 0 (rgTo w0 rACTIVE 1)
      .ok (s.setLives (s.sidOf (.die d)) (kilnRegion c) none, some (kDONE, 0)))

/-- FREE (R108): no object may be pinned. -/
def execKilnFree (s : State) : Res :=
  .next (s.kilnCommand .kilnFree 5 fun s d c w0 =>
    if rgState w0 ≠ rACTIVE then .ok (s, some (kSTATE, 0))
    else do
      if s.pinnedIn (.die d) (kilnRegion c) then .ok (s, some (kSTATE, 0))
      else
        let s ← s.setRegionWord (.die d) (kilnRegion c) 0 (rgTo w0 rFREE 0)
        .ok (s.setLives (s.sidOf (.die d)) (kilnRegion c) none, some (kDONE, 0)))

/-- MARK begins (R110). -/
def execKilnMark (s : State) : Res :=
  .next (s.kilnCommand .kilnMark 2 fun s d c w0 =>
    if rgState w0 ≠ rACTIVE then .ok (s, some (kSTATE, 0))
    else do
      let s ← s.setRegionWord (.die d) (kilnRegion c) 0 (rgTo w0 rMARKING (rgColor w0))
      let m : Marking := { sid := s.sidOf (.die d), region := kilnRegion c, cmd := c, seen := [], fresh := [] }
      .ok ((s.modDie d fun x => { x with marks := m :: x.marks }).later .markDone { unit := d }, none))

/-- EVAC: the plan of R111. The queue goes on; the message follows the last move. -/
def execKilnEvac (s : State) : Res :=
  .next (s.kilnCommand .kilnEvac 3 fun s d c w0 =>
    if rgState w0 ≠ rACTIVE then .ok (s, some (kSTATE, 0))
    else do
      let r ← s.planEvac (.die d) (kilnRegion c) (kilnTag c) (kilnCore c)
      match r with
      | none => .ok (s, some (kREFUSED, 0))
      | some s => .ok (s.kilnEnd d none, none))

/-- RELEASE (R114): the table is discarded and the next one named. -/
def execKilnRelease (s : State) : Res :=
  .next (s.kilnCommand .kilnRelease 4 fun s d c w0 =>
    if rgState w0 ≠ rEVACUATED then .ok (s, some (kSTATE, 0))
    else do
      let w2 ← s.regionWord (.die d) (kilnRegion c) 2
      let s ← s.setRegionWord (.die d) (kilnRegion c) 2 (setField w2 51 0 (kilnAddr c))
      let s ← s.setRegionWord (.die d) (kilnRegion c) 0 (rgTo w0 rACTIVE (rgColor w0))
      let sid := s.sidOf (.die d)
      .ok (s.modDie d fun x => { x with evacs := x.evacs.filter fun e => !e.is sid (kilnRegion c) }, some (kDONE, 0)))

/-! ### Moving objects (R113) -/

/-- The agent that does the Kiln's work of a die in a space: the die itself, or another die that has the space (log entry 38). -/
def State.kilnAgent (s : State) (d sid : Nat) : Agent :=
  if s.sidOf (.die d) = sid then .die d
  else
    match List.find? (fun x => spaceSid x.2.space == sid && spaceEn x.2.space) s.dies with
    | some x => .die x.1
    | none => .die d

/-- The evacuation of a region of a space, with the die that serves it. -/
def State.evacOf (s : State) (sid region : Nat) : Option (Nat × Evac) :=
  s.dies.findSome? fun (n, d) => (d.evacs.find? fun e => e.is sid region).map fun e => (n, e)

def State.setEvac (s : State) (d : Nat) (e : Evac) : State :=
  s.modDie d fun x => { x with evacs := x.evacs.map fun y => if y.is e.sid e.region then e else y }

/-- Whether one of these objects stays PLANNED; an entry that no read reaches has not changed. -/
def State.anyPlanned (s : State) (ag : Agent) (e : Evac) : List Nat → Except Stop Bool
  | [] => .ok false
  | g :: l =>
    match s.vread ag (e.fwd + 8 * g) with
    | .error (.hold st) => .error (.hold st)
    | .error _ => .ok true
    | .ok w => if fwdState w = 1 then .ok true else s.anyPlanned ag e l

/-- After a move or a failed one: the region becomes Evacuated when nothing is left, and the completion is sent then; or at
once with FAULT when the sweep has passed every object and some stay PLANNED after a fault of its own copy. -/
def State.settleEvac (s : State) (sid region : Nat) : Except Stop State :=
  match s.evacOf sid region with
  | none => .ok s
  | some (d, e) =>
    let ag := s.kilnAgent d sid
    let send (s : State) (st : Nat) : State :=
      if e.sent then s else (s.setEvac d { e with sent := true }).post (kilnDone e.tag e.core region st e.payload)
    if e.left = [] then do
      let w0 ← s.regionWord ag region 0
      let s ← s.setRegionWord ag region 0 (rgTo w0 rEVACUATED (rgColor w0))
      .ok (send s kDONE)
    else if e.todo = [] then do
      let some_ ← s.anyPlanned ag e (List.filter (e.left.contains ·) e.faults)
      .ok (if some_ then send s kFAULT else s)
    else .ok s

/-- An evacuation is looked at after a move or a failed one; where a descriptor or an entry cannot be reached, its sweep looks again. -/
def State.settleMove (s : State) (sid region : Nat) : State :=
  match s.settleEvac sid region, s.evacOf sid region with
  | .ok s', _ => s'
  | .error _, some (d, _) => s.nextCycle .kilnSweep { unit := d, sub := region, num := sid }
  | .error _, none => s

/-- Words copied one by one. -/
def State.copyWords (s : State) (ag : Agent) (src dst : Nat) : Nat → Except Stop State
  | 0 => .ok s
  | n + 1 => do
    let s ← s.copyWords ag src dst n
    let w ← s.vread ag (src + 8 * n)
    s.vwrite ag (dst + 8 * n) w

/-- The copy of a claimed object: SIZE bytes to its destination, where it is live from now on (R119), then MOVED, then the STUB. The
answer is SIZE. -/
def State.moveObject (s : State) (ag : Agent) (region gran : Nat) : Except Stop (State × Nat) := do
  let w2 ← s.regionWord ag region 2
  let e ← s.vread ag (fwdAddr w2 gran)
  let old := heapBase + region * 2 ^ 30 + gran * 16
  let w ← s.vread ag old
  let d0 ← s.regionWord ag (fwdOff e / 2 ^ 26) 0
  let s ← s.copyWords ag old (heapBase + fwdOff e * 16) (hdrSize w / 8)
  let s ← s.vwrite ag (fwdAddr w2 gran) (mkFwd 3 0 (fwdOff e))
  let s ← s.vwrite ag (old + 8) (mkHandle (rgColor d0) (fwdOff e))
  let s ← s.vwrite ag old (hdrKindTo w kSTUB)
  .ok (s.noteFresh ag (fwdOff e / 2 ^ 26) [(fwdOff e % 2 ^ 26, hdrSize w)], hdrSize w)

/-- Contexts stalled on a copy issue again. -/
def State.releaseCopy (s : State) (region gran : Nat) : State :=
  { s with cores := s.cores.map fun (id, k) => (id, { k with ctxs := k.ctxs.map fun (n, c) => (n,
      match c.stall with
      | some (.copy r g _) => if r = region ∧ g = gran then { c with stall := none } else c
      | _ => c) }) }

/-- An object of `size` bytes has been moved. -/
def State.objectMoved (s : State) (sid region gran size : Nat) : State :=
  let s := match s.evacOf sid region with
    | some (d, x) => s.setEvac d { x with left := x.left.erase gran, todo := x.todo.erase gran, moved := x.moved + size }
    | none => s
  (s.releaseCopy region gran).settleMove sid region

/-- The entry of an object whose copy faulted returns to PLANNED. -/
def State.replan (s : State) (ag : Agent) (region gran : Nat) : Except Stop State := do
  let w2 ← s.regionWord ag region 2
  let e ← s.vread ag (fwdAddr w2 gran)
  s.vwrite ag (fwdAddr w2 gran) (mkFwd 1 0 (fwdOff e))

/-! ### The end of a mark (R110, R137) -/

/-- Where the handle of a register leads: none where step 1, 2, 3 or 6 of R115 or a dead object ends it. An object still to be moved
is traced where it is, and its handle stands: a register is healed only when it is used (R114). -/
def State.traceTarget (s : State) (ag : Agent) (h : Word) : Except Stop (Option Word) :=
  match s.resolve ag h with
  | .ok t => .ok (some t)
  | .error (.claim _ _ _) => .ok (some h)
  | .error (.hold (.copy _ _ _)) => .ok (some h)
  | .error (.trap k) => if k.code ≥ 0x080 ∧ k.code ≤ 0x084 then .ok none else .error (.trap k)
  | .error e => .error e

/-- Where an 8-byte slot that the Kiln reads is: in a paged window, or in a scratchpad (R109, R396). -/
def State.slotPa (s : State) (d : Nat) (k : Kind) (va : Nat) : Except Stop Nat :=
  match windowOf va with
  | .remote id =>
    if !s.spadPopulated id (va % 0x100000 + 7) then .error (.trap { code := 0x042, acc := k.acc, addr := BitVec.ofNat 64 va })
    else if coreDie id ≠ d ∧ (s.die (coreDie id)).stopped then .error (.trap { code := 0x163, acc := k.acc })
    else .ok (spadBase id + va % 0x100000)
  | .none => s.vaddr (.die d) k va
  | .local_ _ => s.vaddr (.die d) k va
  | .hbm => s.vaddr (.die d) k va
  | .heap => s.vaddr (.die d) k va
  | .host => s.vaddr (.die d) k va
  | .link _ => s.vaddr (.die d) k va

/-- The handle in a slot. -/
def State.slotHandle (s : State) (d va : Nat) : Except Stop Word := do
  let pa ← s.slotPa d .heap va
  if s.poisoned pa then .error (.trap { code := 0x160, acc := 7, addr := BitVec.ofNat 64 va })
  else .ok (s.readWord pa)

/-- The read barrier as the Kiln runs it: an object still to be moved is moved first (R113), and one that is being copied is waited for.
None where the barrier or a copy ends in a trap. -/
def State.barrierMoving (s : State) (ag : Agent) (h : Word) : (fuel : Nat) → Except Stop (State × Option Target)
  | 0 => .ok (s, none)
  | fuel + 1 =>
    match s.barrier ag h with
    | .ok t => .ok (s, some t)
    | .error (.hold st) => .error (.hold st)
    | .error (.claim region gran _) =>
      match s.moveObject ag region gran with
      | .ok (s', size) => (s'.objectMoved (s.sidOf ag) region gran size).barrierMoving ag h fuel
      | .error (.hold st) => .error (.hold st)
      | .error _ => .ok (s, none)
    | .error _ => .ok (s, none)

/-- A slot of memory read, and a stale handle in it healed as the barrier heals it (R110, R116): the handle it leads to. Where the
barrier ends in a trap the slot stays as it is and its object is traced where it is. -/
def State.traceSlot (s : State) (d va : Nat) : Except Stop (State × Option Word) := do
  let ag : Agent := .die d
  let h ← s.slotHandle d va
  let heal (t : Word) : Except Stop (State × Option Word) := do
    let (s, x) ← s.barrierMoving ag h 6
    match x with
    | none => .ok (s, some t)
    | some x =>
      let pa ← s.slotPa d .heapCas va
      .ok (s.writeWord pa x.handle, some x.handle)
  match s.resolve ag h with
  | .ok t => if hOff t = hOff h ∧ hColor t = hColor h then .ok (s, some t) else heal t
  | .error (.trap k) => if k.code ≥ 0x080 ∧ k.code ≤ 0x084 then .ok (s, none) else .error (.trap k)
  | .error _ => heal h

/-- Consecutive slots. -/
def State.traceSlots (s : State) (d va : Nat) : Nat → Except Stop (State × List Word)
  | 0 => .ok (s, [])
  | n + 1 => do
    let (s, l) ← s.traceSlots d va n
    let (s, t) ← s.traceSlot d (va + 8 * n)
    .ok (s, match t with | some t => t :: l | none => l)

/-- The handles an object holds (R110): word 1 and the arguments of a thunk, word 1 of INDIRECT and STUB, every word of a
BYTES object with HREF. -/
def State.traceObject (s : State) (d va : Nat) (w : Word) : Except Stop (State × List Word) :=
  let k := hdrKind w
  if k = kTHUNK ∨ k = kBLACKHOLE then s.traceSlots d (va + 24) 3
  else if k = kINDIRECT ∨ k = kSTUB then s.traceSlots d (va + 8) 1
  else if k = kBYTES ∧ hdrHref w then s.traceSlots d (va + 16) (hdrSize w / 8 - 2)
  else .ok (s, [])

/-- The objects reachable from a work list, by their offsets, each with its header; `fuel` bounds their number. -/
def State.traceFrom (s : State) (d : Nat) : (fuel : Nat) → (work : List Word) → (seen : List (Nat × Word)) →
    Except Stop (State × List (Nat × Word))
  | 0, _, seen => .ok (s, seen)
  | _, [], seen => .ok (s, seen)
  | fuel + 1, h :: work, seen =>
    if seen.any fun x => x.1 == hOff h then s.traceFrom d fuel work seen
    else do
      let w ← s.vread (.die d) (hAddr h)
      let (s, l) ← s.traceObject d (hAddr h) w
      s.traceFrom d fuel (l ++ work) ((hOff h, w) :: seen)

/-- The handle registers of an image (R64). -/
def State.imageRoots (s : State) (d addr : Nat) (virt : Bool) : List Word :=
  (List.range 16).map fun n =>
    match s.imagePa d (addr + 0x1000 + 8 * n) virt .load with
    | some pa => s.readWord pa
    | none => 0

/-- The handle registers of every context in the space of a die that is not Free; those of a Saved context are in its image, and
those of a Restoring one in the image that it is restored from (R110). -/
def State.rootRegs (s : State) (d : Nat) : List Word :=
  s.cores.flatMap fun (id, k) =>
    if spaceSid (s.coreSpace id) = spaceSid (s.die d).space then
      k.ctxs.flatMap fun (_, c) =>
        match c.st, c.image, c.saveReq with
        | .free, _, _ => []
        | .saved, some (addr, virt), _ => s.imageRoots (coreDie id) addr virt
        | .restoring, _, some r => s.imageRoots (coreDie id) r.image r.virt
        | _, _, _ => c.h.map (·.2)
    else []

/-- The roots among registers and reports: those a trace goes on from. -/
def State.rootsOf (s : State) (ag : Agent) : List Word → Except Stop (List Word)
  | [] => .ok []
  | h :: l => do
    let t ← s.traceTarget ag h
    let r ← s.rootsOf ag l
    .ok (match t with | some t => t :: r | none => r)

/-- Live-map words of a region. -/
def liveWord (grans : List Nat) (i : Nat) : Word :=
  BitVec.ofNat 64 (((List.range 64).filter fun b => grans.contains (64 * i + b)).foldl (fun a b => a + 2 ^ b) 0)

/-- What a mark finds: the state with slots healed and the live map written, LIVEBYTES, and the bytes of live thunks
(log entry 46). Live are the objects reached, and those allocated since the mark began. -/
def State.markRegion (s : State) (d : Nat) (m : Marking) : Except Stop (State × Nat × Nat) := do
  let ag : Agent := .die d
  let (s, roots) ← s.traceSlots d (kilnAddr m.cmd) (kilnCount m.cmd)
  let regs ← s.rootsOf ag (s.rootRegs d ++ m.seen)
  let (s, seen) ← s.traceFrom d (2 ^ 62) (roots ++ regs) []
  let w1 ← s.regionWord ag m.region 1
  let w3 ← s.regionWord ag m.region 3
  let reached := (List.filter (fun x => x.1 / 2 ^ 26 == m.region) seen).map fun x => (x.1 % 2 ^ 26, hdrSize x.2)
  let live := reached ++ List.filter (fun x => !(reached.any fun y => y.1 == x.1)) m.fresh
  let objs ← s.objectsAt ag m.region (live.map (·.1))
  let s ← s.vfill ag (rgLive w3) (liveWord (live.map (·.1))) ((rgTop w1 / 16 + 63) / 64)
  .ok (s, (live.map (·.2)).sum, ((objs.filter fun x => hdrKind x.hdr == kTHUNK).map fun x => hdrSize x.hdr).sum)

/-- MARK_DONE: LIVEBYTES, SUSPUSED and STATE are set and the completion sent; a fault before that leaves the command
without effect, and a page that migrates is waited for. -/
def execMarkDone (s : State) : Res :=
  let d := s.ev.unit
  .next (match (s.die d).marks with
    | [] => s
    | m :: _ =>
      let ag := s.kilnAgent d m.sid
      let drop (s : State) : State := s.modDie d fun x => { x with marks := x.marks.drop 1 }
      let reply (s : State) (st : Nat) (w : Word) : State :=
        (drop s).kilnEnd d (some (kilnDone (kilnTag m.cmd) (kilnCore m.cmd) m.region st w))
      let back (s : State) : Except Stop State := do
        let w0 ← s.regionWord ag m.region 0
        s.setRegionWord ag m.region 0 (rgTo w0 rACTIVE (rgColor w0))
      match (do
          let (s, bytes, thunks) ← s.markRegion ag.dieOf m
          let s ← s.setRegionWord ag m.region 4 (at_ 32 (thunks % 2 ^ 32) ||| at_ 0 (bytes % 2 ^ 32))
          let s ← back s
          .ok (s.setLives m.sid m.region (some []), bytes)) with
      | .ok (s, bytes) => reply s kDONE (BitVec.ofNat 64 (bytes % 2 ^ 32))
      | .error (.hold st) => s.await .markDone st
      | .error _ =>
        match back s with
        | .ok s => reply s kFAULT 0
        | .error (.hold st) => s.await .markDone st
        | .error _ => reply s kFAULT 0)

/-! ### The copy of a claimed object (R113) -/

/-- Every context of the package. -/
def State.allCtxs (s : State) : List CtxId :=
  s.cores.flatMap fun (id, k) => k.ctxs.map fun (n, _) => { core := id, ctx := n }

/-- The handle of the access by which a context claimed an object that is being copied. -/
def Context.claimOf (c : Context) (region gran : Nat) : Option Word :=
  match c.stall with
  | some (.copy r g h) => if r = region ∧ g = gran then h else none
  | _ => none

/-- The copy of an object has faulted: the access that claimed it traps with the cause, and whoever waits examines it again. -/
def State.copyFault (s : State) (sid region gran : Nat) (k : Cause) : State :=
  let claimers := s.allCtxs.filterMap fun i =>
    if s.sidOf (.core i.core) = sid then ((s.ctxAt i).claimOf region gran).map fun h => (i, h) else none
  claimers.foldl (fun s (i, h) => s.takeTrap i (s.ctxAt i).pc { k with acc := 7, objk := 1, obj := h })
    ((s.releaseCopy region gran).settleMove sid region)

/-- The state of an object's forwarding entry, read by an agent. -/
def State.entryState (s : State) (ag : Agent) (region gran : Nat) : Except Stop Nat := do
  let w2 ← s.regionWord ag region 2
  let e ← s.vread ag (fwdAddr w2 gran)
  .ok (fwdState e)

/-- The sweep's own copy of an object has faulted (R113). -/
def State.noteFault (s : State) (sid region gran : Nat) : State :=
  match s.evacOf sid region with
  | some (d, x) => s.setEvac d { x with faults := gran :: x.faults }
  | none => s

/-- OBJECT_COPY_DONE (R113): the copy of the claiming core's cluster copy unit, or of the Kiln's sweep. It waits for a page that
migrates (R156). Where a fault keeps even the entry from being written, the entry stays COPYING and the copy is tried again later. -/
def execObjectCopyDone (s : State) : Res :=
  let region := s.ev.unit
  let gran := s.ev.sub
  let sweep := s.ev.flag
  let ag : Agent := if sweep then s.kilnAgent s.ev.num s.ev.w0.toNat else .core s.ev.num
  let sid := s.sidOf ag
  let onward (s' : State) : State := if sweep then s'.later .kilnSweep { unit := s.ev.num, sub := region, num := sid } else s'
  let faulted (s' : State) : State := if sweep then s'.noteFault sid region gran else s'
  .next (match s.entryState ag region gran with
    | .error (.hold st) => s.await .objectCopyDone st
    | .error (.trap k) => (s.copyFault sid region gran k).later .objectCopyDone s.ev
    | .error _ => s.later .objectCopyDone s.ev
    | .ok st =>
      if st ≠ 2 then onward (s.releaseCopy region gran)
      else
        match s.moveObject ag region gran with
        | .ok (s', size) => onward (s'.objectMoved sid region gran size)
        | .error (.hold st) => s.await .objectCopyDone st
        | .error e =>
          let k : Cause := match e with | .trap k => k | _ => { code := 0x047 }
          match s.replan ag region gran with
          | .ok s' => onward ((faulted s').copyFault sid region gran k)
          | .error _ => (s.copyFault sid region gran k).later .objectCopyDone s.ev)

/-- KILN_SWEEP (R113): the next object that the sweep has not tried is claimed and its copy begins; one already claimed or
moved is passed, and not tried again even where the copy of the core that claimed it faults. CLAIM of an entry that the sweep claims is
0. R112 and R113 say neither (DESIGN CHOICE, log entry 46). When every object has been passed, the evacuation is looked at. -/
def execKilnSweep (s : State) : Res :=
  let d := s.ev.unit
  let region := s.ev.sub
  let sid := s.ev.num
  let ag := s.kilnAgent d sid
  .next (match (s.die d).evacs.find? fun e => e.is sid region with
    | none => s
    | some e =>
      match e.todo with
      | [] =>
        match s.settleEvac sid region with
        | .ok s' => s'
        | .error (.hold st) => s.await .kilnSweep st
        | .error _ => s.later .kilnSweep s.ev
      | g :: rest =>
        let s1 := s.setEvac d { e with todo := rest }
        let onward (s : State) : State := s.later .kilnSweep s.ev
        match s1.vread ag (e.fwd + 8 * g) with
        | .error (.hold st) => s.await .kilnSweep st
        | .error _ => onward (s1.noteFault sid region g)
        | .ok w =>
          if fwdState w = 1 then
            match s1.vwrite ag (e.fwd + 8 * g) (mkFwd 2 0 (fwdOff w)) with
            | .error (.hold st) => s.await .kilnSweep st
            | .error _ => onward (s1.noteFault sid region g)
            | .ok s2 =>
              s2.later .objectCopyDone { unit := region, sub := g, num := d, flag := true, w0 := BitVec.ofNat 64 sid }
          else onward s1)

end Sys2Proof.Machine
end

