-- ==== Sys2Proof/Machine/Message.lean ====
section
/-!
DEFINITION. Sys2Proof/Machine/Message.lean: the instructions that send and read messages, ranked mailboxes, shuttle permits,
token admission, KV homing and DONE (R340 to R355), and the events of acceptance and binding.
-/

namespace Sys2Proof.Machine

open Sys2Proof

/-- Causes of the message group (R67, R74, R78, R87, R178, R187, R341). -/
def cBLOCKING : Nat := 0x0C1
def cMFORM : Nat := 0x0C2
def cMRANGE : Nat := 0x0C3
def cCODE : Nat := 0x0C4
def cREPEAT : Nat := 0x0C6
def cKVRING : Nat := 0x0C9
def cKVTABLE : Nat := 0x0CA
def cPSTATE : Nat := 0x0CB
def cPFORM : Nat := 0x0CC
def cTOKEN : Nat := 0x0CD
def cEXPERT : Nat := 0x0CE
def cCAPEMPTY : Nat := 0x0D0
def cRANKED : Nat := 0x0D1

/-! ### The issuing core's scratchpad -/

/-- Address of a scratchpad byte through the own remote slot (R51). -/
def ownSlotVa (core off : Nat) : Nat := 0x200000000 + core * 0x100000 + off

/-- Bytes of a core's scratchpad; poison is UNCORRECTABLE_ECC (R224), a byte that is not there UNPOPULATED_ADDRESS. -/
def State.padRead (s : State) (core off n : Nat) : Except Stop (List Byte) :=
  match (List.range n).find? fun i => !s.spadPopulated core (off + i) with
  | some i => .error (.trap { code := 0x042, acc := 1, addr := BitVec.ofNat 64 (ownSlotVa core (off + i)) })
  | none =>
    match (List.range n).find? fun i => s.poisoned (spadBase core + off + i) with
    | some i => .error (.trap { code := 0x160, acc := 1, addr := BitVec.ofNat 64 (ownSlotVa core (off + i) / 8 * 8) })
    | none => .ok (s.readBytes (spadBase core + off) n)

/-- A word of a core's scratchpad. -/
def State.padWord (s : State) (core off : Nat) : Except Stop Word :=
  match s.padRead core off 8 with
  | .error e => .error e
  | .ok l => .ok (wordOfBytes l)

/-! ### Sending (R343 to R345, R351) -/

/-- What a send instruction is: its kind of message, whether it makes one attempt, whether it is TOKSND, and the capability
entry of SENDC. -/
structure SendOp where
  kind  : Nat
  nb    : Bool
  token : Bool := false
  cap   : Option Nat := none
deriving DecidableEq, Repr

/-- Whether LEN breaks R67 for a kind. -/
def lenOk (kind len : Nat) : Bool :=
  if kind = 1 then len ≤ 16 else if kind = 2 then len % 4 == 0 && 4 ≤ len && len ≤ 64 else len ≤ 256

/-- Whether the reserved bits of a send descriptor and of a payload word are zero (R343). -/
def sendFormOk (a b : Word) : Bool :=
  field a 47 44 == 0 && field a 31 29 == 0 && field a 19 13 == 0 && !b.getLsbD 62

/-- Whether the 16 descriptor bytes of a token keep their reserved bits zero (R180). -/
def tokenOk (w0 w1 : Word) : Bool :=
  field w0 51 48 == 0 && field w0 35 32 == 0 && field w1 63 32 == 0

/-- The message of a send. -/
def State.sentMsg (s : State) (op : SendOp) (a b : Word) (payload : List Byte) : Msg :=
  { w0 := headerWord (field a 63 48) (field a 43 32) s.ctx.inf op.kind (field a 28 20) s.cur.ctx s.cur.core
    w1 := headerWord1 (field a 12 0) (if op.token then natOfBytes (payload.take 4) else field b 31 0)
    payload
    cap := match op.cap with | some n => s.me.caps.get 0 n | none => 0 }

/-- What stops TOKSND on the payload bytes at issue (R351): LEN and the reserved bits of the token descriptor. -/
def State.tokenFormTrap (s : State) (off len : Nat) : Option Cause :=
  if len < 16 ∨ len % 16 ≠ 0 then some { code := cTOKEN }
  else
    match s.padRead s.cur.core off 16 with
    | .error (.trap k) => some k
    | .error _ => some { code := cTOKEN }
    | .ok bytes =>
      if tokenOk (wordOfBytes (bytes.take 8)) (wordOfBytes (bytes.drop 8)) then none else some { code := cTOKEN }

/-- The port by which a pod send leaves (R160). A SEND that has been answered busy stays with its port while that is Quiesced, until
the timeout (R344). -/
def State.podPort (s : State) (peer : Nat) : Option Nat :=
  let w := s.peers.get 0 peer
  let p := field w 62 59
  if s.ctx.retry.isSome ∧ w.getLsbD 63 ∧ p < 8 ∧ (s.port p).hears then some p else s.peerPort peer

/-- The checks of R344, R345 and R351 in order: the first cause that holds. -/
def State.sendTrap (s : State) (op : SendOp) (a b : Word) : Option Cause :=
  let len := field a 28 20
  let off := field b 51 32
  let dst := field a 12 0
  let pod := b.getLsbD 63
  if op.kind ≠ 2 ∧ !op.nb ∧ s.isHandler s.cur then some { code := cBLOCKING }
  else if !sendFormOk a b ∨ !lenOk op.kind len ∨ off % 16 ≠ 0 ∨ spadBytes (coreDie s.cur.core) < off + len
      ∨ (!pod ∧ !coreExists dst) then some { code := cMFORM }
  else
    match (if op.token then s.tokenFormTrap off len else none) with
    | some k => some k
    | none =>
      if !pod ∧ !s.coreMapped dst then some { code := 0x161 }
      else if pod ∧ (s.podPort (field b 61 52)).isNone then some { code := 0x142 }
      else if (match op.cap with | some n => s.me.caps.get 0 n == 0 | none => false) then some { code := cCAPEMPTY }
      else if !pod ∧ s.answersNot (coreDie dst) then some { code := 0x163 }
      else none

/-- Where a message to a core of a peer is written (R161): the range of the core in the device-message range of the peer. -/
def deviceMessageAddr (peer core : Nat) : Nat := 0xC000000000000 + peer * 0x10000000000 + 0xFF00000000 + core * 512

/-- Whether a send is a management request (R409). -/
def State.isRequest (s : State) (op : SendOp) (a b : Word) : Bool :=
  s.ctx.trapMode && op.kind == 0 && !op.token && !b.getLsbD 63 && field a 43 32 == 0xFFF && field a 12 0 == s.cur.core &&
    field a 28 20 == 16

/-- The partition of a kernel. -/
def State.kernelPart (s : State) (kid : Option Nat) : Nat :=
  match kid.bind s.kernels.find? with
  | some k => k.part
  | none => 0

/-- The send family: one attempt; a blocking form issues again until it is accepted. -/
def State.send (s : State) (h : Hdr) (len : Nat) (op : SendOp) (d a b : Fld) : State :=
  s.guarded h len (if op.nb then some (.p, d) else none) [gs a, gs b] fun s =>
    let c := s.ctx
    let x := c.srcG a
    let y := c.srcG b
    match s.sendTrap op x y with
    | some k => s.trap k
    | none =>
      let off := field y 51 32
      let m := s.sentMsg op x y (s.readBytes (spadBase s.cur.core + off) (field x 28 20))
      -- the payload is read at the attempt that is accepted; each attempt of a pod send is a write
      let reads (go : State) : State := s.orHalt (s.padRead s.cur.core off (field x 28 20)) fun _ => go
      if y.getLsbD 63 then
        match s.podPort (field y 61 52) with
        | some port =>
          if !(s.port port).carries ∧ !(c.retry.any fun t => decide (t ≤ s.clock)) then s.stalledFull
          else
            reads (s.request port (deviceMessageAddr (field y 61 52) (field y 12 0)) (.message m)
              { h, len, d, acc := 0, ans := .sent op.nb, eff := true })
        | none => s.trapCode 0x142
      else
        match (if s.isRequest op x y then
            some (s.nextCycle .mgmtRequest { evCtx s.cur with
              who := .part (s.kernelPart c.kernel) s.cur.core s.cur.ctx
              w0 := wordOfBytes (m.payload.take 8), w1 := wordOfBytes ((m.payload.drop 8).take 8) })
          else s.accept m) with
        | some s' =>
          reads (s'.done h len fun c =>
            let c := { c with effects := true }
            if op.nb then c.dst .variable_ .p d (ofMask 0xFFFF) else c)
        | none => if op.nb then s.done h len (·.dst .variable_ .p d (ofMask 0)) else s.stalledFull

def execSend (h : Hdr) (a b : Fld) (s : State) : Res :=
  .next (s.send h oneWord { kind := 0, nb := false } 0 a b)

def execSendnb (h : Hdr) (d a b : Fld) (s : State) : Res :=
  .next (s.send h oneWord { kind := 0, nb := true } d a b)

def execSendRk (h : Hdr) (a b : Fld) (s : State) : Res :=
  .next (s.send h oneWord { kind := 1, nb := false } 0 a b)

def execSendnbRk (h : Hdr) (d a b : Fld) (s : State) : Res :=
  .next (s.send h oneWord { kind := 1, nb := true } d a b)

def execSendc (h : Hdr) (d a b : Fld) (cap : BitVec 5) (s : State) : Res :=
  .next (s.send h twoWord { kind := 2, nb := true, cap := some cap.toNat } d a b)

def execToksnd (h : Hdr) (d a b : Fld) (s : State) : Res :=
  .next (s.send h oneWord { kind := 0, nb := true, token := true } d a b)

/-! ### Reading the message (R346) -/

/-- A byte of the activation's payload, zero beyond it. -/
def State.payloadByte (s : State) (k : Nat) : Byte :=
  match s.slotOf s.cur with
  | some m => m.msg.payload.getD k 0
  | none => 0

/-- Whether a payload byte may be read: a slot is held and the byte lies below LEN. -/
def State.payloadHas (s : State) (k : Nat) : Bool :=
  match s.slotOf s.cur with
  | some m => decide (k < m.msg.len)
  | none => false

/-- Whether a payload byte of a slot lies in poisoned bits (R224). -/
def Slot.poisonedAt (m : Slot) (k : Nat) : Bool :=
  m.ecc.contains (k / 8 + 2)

/-- The same for the activation's own slot. -/
def State.payloadPoisoned (s : State) (k : Nat) : Bool :=
  match s.slotOf s.cur with
  | some m => m.poisonedAt k
  | none => false

/-- The offset of MSGLD and MSGVLD, computed exactly. -/
def Context.msgOffset (c : Context) (a : Fld) (imm : BitVec 6) : Nat :=
  (c.srcG a).toNat + 4 * imm.toNat

/-- MISALIGNED of a payload read: a payload byte has no virtual address, so TRAP.ADDR is a free value (DESIGN CHOICE, log entry 25). -/
def State.msgMisaligned (s : State) : State :=
  ({ s with fresh := s.fresh + 1 }).trap { code := 0x04C, acc := 1, addr := Config.freeWord s.fresh }

def execMsgld (h : Hdr) (d a : Fld) (imm : BitVec 6) (s : State) : Res :=
  .next (s.guarded h oneWord (some (.g, d)) [gs a] fun s =>
    let o := s.ctx.msgOffset a imm
    if o % 4 ≠ 0 then s.msgMisaligned
    else if !((List.range 8).all fun i => s.payloadHas (o + i)) then s.trapCode cMRANGE
    else if (List.range 8).any fun i => s.payloadPoisoned (o + i) then s.operandTrap 0x160 1
    else
      let w := wordOfBytes ((List.range 8).map fun i => s.payloadByte (o + i))
      s.done h oneWord (·.dst .variable_ .g d (ofWord w)))

def execMsgvld (h : Hdr) (d a : Fld) (imm : BitVec 6) (s : State) : Res :=
  .next (s.guarded h oneWord (some (.v, d)) [gs a] fun s =>
    let c := s.ctx
    let m := c.active h
    let o := c.msgOffset a imm
    if o % 4 ≠ 0 then s.msgMisaligned
    else if !((lanesOf m).all fun l => (List.range 4).all fun i => s.payloadHas (o + 4 * l + i)) then s.trapCode cMRANGE
    else if (lanesOf m).any fun l => (List.range 4).any fun i => s.payloadPoisoned (o + 4 * l + i) then s.operandTrap 0x160 1
    else
      let f (l : Nat) : Word32 :=
        BitVec.ofNat 32 (natOfBytes ((List.range 4).map fun i => s.payloadByte (o + 4 * l + i)))
      s.done h oneWord fun c => c.dstLanes .variable_ d m (c.mergeV m d f))

/-! ### Ranked mailboxes (R347, R348) -/

/-- Whether an entry is a ranked one of the issuing kernel. -/
def State.rankedOk (s : State) (n : Nat) : Bool :=
  let e := s.me.tag n
  e.v && e.kind == 1 && s.ctx.kernel == some e.kernel

/-- The lanes RKTOP writes. -/
def rankLanes (e : TagEnt) (r l : Nat) : Word32 :=
  if l = 9 then BitVec.ofNat 32 e.store.length
  else if l = 10 then BitVec.ofNat 32 e.count
  else
    match e.store[r]? with
    | none => 0
    | some x =>
      let pay (i : Nat) : Word32 := BitVec.ofNat 32 (natOfBytes ((x.payload.drop (4 * i)).take 4))
      if l = 0 then x.w0.truncate 32
      else if l = 1 then x.w0.extractLsb' 32 32
      else if l = 2 then x.w1.truncate 32
      else if l = 3 then x.w1.extractLsb' 32 32
      else if l ≤ 7 then pay (l - 4)
      else if l = 8 then x.ekey.zeroExtend 32
      else 0

def execRktop (h : Hdr) (d a b : Fld) (s : State) : Res :=
  .next (s.guarded h oneWord (some (.v, d)) [gs a, gs b] fun s =>
    let c := s.ctx
    let n := field (c.srcG a) 5 0
    if !s.rankedOk n then s.trapCode cRANKED
    else if ((s.me.tag n).store[field (c.srcG b) 3 0]?).any fun x => x.ecc ≠ [] then s.operandTrap 0x160 0
    else s.done h oneWord (·.dst .variable_ .v d (vecOf (rankLanes (s.me.tag n) (field (c.srcG b) 3 0)))))

/-- RKCLR (R348). -/
def execRkclr (h : Hdr) (a : Fld) (s : State) : Res :=
  .next (s.guarded h oneWord none [gs a] fun s =>
    let n := field (s.ctx.srcG a) 5 0
    if !s.rankedOk n then s.trapCode cRANKED
    else
      (s.modMe fun k => k.setTag n ((k.tag n).cleared s.clock)).done h oneWord id)

/-! ### Shuttle permits (R349, R350, R175, R176) -/

/-- The die at the other end of a die's shuttle (R24). -/
def pairDie (d : Nat) : Nat := (d + 4) % 8

def shtNslot (w : Word) : Nat := field w 63 60
def shtLsz (w : Word) : Nat := field w 59 55
def shtBase (w : Word) : Nat := field w 51 12 * 4096

/-- SHT.STAT (R175). -/
def Die.shtStat (d : Die) : Word :=
  at_ 16 d.shtFull.toNat
    ||| at_ 8 ((List.range 8).foldl (fun a n => if (d.shtInfl.find? n).isSome then a + 2 ^ n else a) 0)
    ||| at_ 0 d.shtHeld.toNat

/-- A transfer id (R370). -/
def xferId (core seq : Nat) : Word := at_ 19 (core % 8192) ||| at_ 0 (seq % 65536)

/-- A copy pushed into the FIFO of the issuing core, which has room (R370); an idle unit starts. The answer is its id. -/
def State.pushCopy (s : State) (kind : CopyKind) (words : List Word) : State × Word :=
  let k := s.me
  let seq := k.copySeq % 65535 + 1
  let req : CopyReq :=
    { kind, words, id := seq, ctx := s.cur.ctx, inf := s.ctx.inf, par := [], status := 0, stage := 0, runs := 0 }
  let stat : CopyStat := { id := seq, ctx := s.cur.ctx, free := none, vis := none }
  let s' := s.modMe fun k => { k with copies := k.copies ++ [req], copySeq := k.copySeq + 1, copyLog := (stat :: k.copyLog).take 64 }
  (if k.copies = [] then s'.later .copyStart { unit := s.cur.core } else s', xferId s.cur.core seq)

/-- R52: an address in LWn becomes the same byte of the issuing core's remote slot. -/
def ownAddr (core va : Nat) : Nat :=
  match windowOf va with
  | .local_ _ => ownSlotVa core (va % 0x100000)
  | .none => va
  | .remote _ => va
  | .hbm => va
  | .heap => va
  | .host => va
  | .link _ => va

def execPmtsnd (h : Hdr) (d a b : Fld) (s : State) : Res :=
  .next (s.guarded h oneWord (some (.g, d)) [gs a, gs (a + 1)] fun s =>
    let c := s.ctx
    let dn := coreDie s.cur.core
    let die := s.die dn
    let src := field (c.srcG a) 51 0
    let len := field (c.srcG (a + 1)) 31 0
    let aux := field (c.srcG (a + 1)) 63 32
    if shtNslot die.shtOut = 0 ∨ len = 0 ∨ len % 64 ≠ 0 ∨ 2 ^ shtLsz die.shtOut < len then s.trapCode cPFORM
    else
      match (List.range 8).find? fun n => die.shtHeld.getLsbD n, decide (16 ≤ s.me.copies.length) with
      | some slot, false =>
        let dst := shtBase die.shtOut + slot * 2 ^ shtLsz die.shtOut
        let (s, id) := s.pushCopy (.shuttle slot)
          [BitVec.ofNat 64 (ownAddr s.cur.core src), BitVec.ofNat 64 dst, BitVec.ofNat 64 len]
        let sh : Shuttle := { aux, core := s.cur.core, len, inf := c.inf, ctx := s.cur.ctx }
        let s := s.modDie dn fun x =>
          { x with shtHeld := x.shtHeld &&& ~~~(BitVec.ofNat 8 (2 ^ slot)), shtInfl := x.shtInfl.put slot sh }
        s.done h oneWord fun c =>
          ({ c with effects := true }.dst .variable_ .g d (ofWord id)).dstNoEntry .variable_ .p b (ofMask 0xFFFF)
      | _, _ => s.done h oneWord fun c => (c.pushUnchanged .g d).dstNoEntry .variable_ .p b 0)

def execPmtret (h : Hdr) (a : Fld) (s : State) : Res :=
  .next (s.guarded h oneWord none [gs a] fun s =>
    let slot := field (s.ctx.srcG a) 2 0
    let dn := coreDie s.cur.core
    if !(s.die dn).shtFull.getLsbD slot then s.trapCode cPSTATE
    else if s.answersNot (pairDie dn) then s.trapCode 0x163
    else
      let bit : BitVec 8 := BitVec.ofNat 8 (2 ^ slot)
      let s := s.modDie dn fun x => { x with shtFull := x.shtFull &&& ~~~bit }
      let s := s.modDie (pairDie dn) fun x => { x with shtHeld := x.shtHeld ||| bit }
      s.done h oneWord fun c => { c with effects := true })

def execPmtcnt (h : Hdr) (d : Fld) (s : State) : Res :=
  .next (s.guarded h oneWord (some (.g, d)) [] fun s =>
    s.done h oneWord (·.dst .variable_ .g d (ofWord (s.die (coreDie s.cur.core)).shtStat)))

/-! ### Tokens (R352, R180 to R183) -/

/-- An expert's descriptor: where it is and its two words. -/
structure Expert where
  off : Nat
  w0  : Word
  w1  : Word
deriving DecidableEq, Repr

def Expert.expert (e : Expert) : Nat := field e.w0 63 52
def Expert.layer (e : Expert) : Nat := field e.w0 51 44
def Expert.rtag (e : Expert) : Nat := field e.w0 43 32
def Expert.cap (e : Expert) : Nat := field e.w0 31 16
def Expert.count (e : Expert) : Nat := field e.w0 15 0
def Expert.buf (e : Expert) : Nat := field e.w1 63 50 * 64
def Expert.table (e : Expert) : Nat := field e.w1 49 36 * 64
def Expert.lsz (e : Expert) : Nat := field e.w1 35 32

/-- Fields of a token descriptor's word 0 (R180). -/
def tokLayer (w : Word) : Nat := field w 63 56
def tokRank (w : Word) : Nat := field w 55 52
def tokExpert (w : Word) : Nat := field w 47 36
def tokToken (w : Word) : Nat := field w 31 0

/-- The first descriptor of an expert id among the core's. -/
def State.findExpert (s : State) (core id : Nat) : Option Expert :=
  let base := s.core core |>.expBase
  (List.range (field base 3 0 + 1)).findSome? fun i =>
    let off := field base 19 6 * 64 + 64 * i
    let w0 := s.readWord (spadBase core + off)
    if field w0 63 52 = id then some { off, w0, w1 := s.readWord (spadBase core + off + 8) } else none

/-- Whether a descriptor and its admit table are as R181 and R352 want them. -/
def expertOk (core : Nat) (e : Expert) : Bool :=
  decide (4 ≤ e.lsz) && decide (e.lsz ≤ 12) && e.cap != 0 && field e.w1 31 0 == 0
    && decide (e.off + 64 ≤ spadBytes (coreDie core)) && decide (e.table + 8 * 2 ^ e.lsz ≤ spadBytes (coreDie core))

/-- Entry `i` of an admit table. -/
def State.admitEntry (s : State) (core : Nat) (e : Expert) (i : Nat) : Word :=
  s.readWord (spadBase core + e.table + 8 * (i % 2 ^ e.lsz))

/-- Whether an entry is the admitted row of a token, and whether it is free (R181, R182). -/
def entryIs (t w : Word) : Bool :=
  w.getLsbD 63 && field w 62 55 == tokLayer t && field w 54 51 == tokRank t && tokToken w == tokToken t

def entryFree (layer : Nat) (w : Word) : Bool :=
  !w.getLsbD 63 || field w 62 55 != layer

/-- The reply of R182 under a tag: code and reason. -/
def State.tokenReplyTo (s : State) (rtag : Nat) (m : Msg) (t : Word) (code reason : Nat) : Msg :=
  { w0 := headerWord 0 rtag s.ctx.inf 0 16 s.cur.ctx s.cur.core
    w1 := headerWord1 m.src (tokToken t)
    payload := bytesOfWord t ++ bytesOfWord (at_ 0 code ||| at_ 8 (reason % 256)) }

/-- The reply under the descriptor's RTAG. -/
def State.tokenReply (s : State) (e : Expert) (m : Msg) (t : Word) (code reason : Nat) : Msg :=
  s.tokenReplyTo e.rtag m t code reason

/-- The reply accepted as SENDNB is (R72): none where it is not. -/
def State.replyTo (s : State) (m : Msg) : Option State :=
  if s.coreMapped m.dst then s.accept m else none

/-- A reply attempted from state `s1`, and what follows; to a core of another die that has stopped it traps as SENDNB does, and nothing
has changed (R226). -/
def State.replying (s s1 : State) (m : Msg) (accepted : State → State) (busy : State) : State :=
  if s.coreMapped m.dst ∧ s.answersNot (coreDie m.dst) then s.trapCode 0x163
  else
    match s1.replyTo m with
    | some s' => accepted s'
    | none => busy

/-- What the layer test and the probe find (R182): early, a duplicate, or a place that may be free. -/
inductive Probed
  | early
  | duplicate
  | place (i : Option Nat)
deriving DecidableEq, Repr

def State.probeToken (s : State) (core : Nat) (e : Expert) (t : Word) : Probed :=
  let lag := (e.layer + 256 - tokLayer t) % 256
  if 128 ≤ lag then .early
  else if 1 ≤ lag then .duplicate
  else
    let ks := (List.range (2 ^ e.lsz)).map fun j => tokToken t + j
    if ks.any fun i => entryIs t (s.admitEntry core e i) then .duplicate
    else .place (ks.find? fun i => entryFree e.layer (s.admitEntry core e i))

/-- The activation's token: its message and the two words, or the cause that stops ADMIT and REFUSE (R352). -/
def State.ownToken (s : State) : Except Nat (Msg × Word) :=
  match s.slotOf s.cur with
  | none => .error cMRANGE
  | some m =>
    let w0 := wordOfBytes (m.msg.payload.take 8)
    let w1 := wordOfBytes ((m.msg.payload.drop 8).take 8)
    if m.msg.kind ≠ 0 ∨ m.msg.len < 16 ∨ m.msg.len % 16 ≠ 0 then .error cTOKEN
    else if m.poisonedAt 0 ∨ m.poisonedAt 8 then .error 0x160
    else if !tokenOk w0 w1 then .error cTOKEN
    else if !s.me.expBase.getLsbD 4 then .error cEXPERT
    else .ok (m.msg, w0)

/-- UNCORRECTABLE_ECC of the first poisoned word of the issuing core's scratchpad among these offsets (R224). -/
def State.padPoison (s : State) (core : Nat) (offs : List Nat) : Option Cause :=
  (offs.find? fun o => s.poisoned (spadBase core + o)).map fun o =>
    { code := 0x160, acc := 1, addr := BitVec.ofNat 64 (ownSlotVa core o) }

/-- The words that finding an expert reads: word 0 of each descriptor up to the one that matches, and its word 1. -/
def State.expertWords (s : State) (core id : Nat) : List Nat :=
  let base := s.core core |>.expBase
  let all := (List.range (field base 3 0 + 1)).map fun i => field base 19 6 * 64 + 64 * i
  match s.findExpert core id with
  | none => all
  | some e => all.filter (fun o => decide (o ≤ e.off)) ++ [e.off + 8]

/-- The words that the probe of the admit table reads: every entry, up to one that holds the token. -/
def State.probeWords (s : State) (core : Nat) (e : Expert) (t : Word) : List Nat :=
  if e.layer ≠ tokLayer t then []
  else
    let n := 2 ^ e.lsz
    let ks := (List.range n).map fun j => tokToken t + j
    let seen := match ks.findIdx? fun i => entryIs t (s.admitEntry core e i) with
      | some j => j + 1
      | none => n
    (ks.take seen).map fun i => e.table + 8 * (i % n)

/-- What stops ADMIT and REFUSE on poisoned words of the descriptors and of the admit table (R224). -/
def State.tokenPoison (s : State) (core : Nat) (t : Word) : Option Cause :=
  match s.padPoison core (s.expertWords core (tokExpert t)) with
  | some k => some k
  | none =>
    match s.findExpert core (tokExpert t) with
    | none => none
    | some e => if expertOk core e then s.padPoison core (s.probeWords core e t) else none

/-- ADMIT and REFUSE complete with a status: gd := the code, pb := the predicate. -/
def State.tokenDone (s : State) (h : Hdr) (d b : Fld) (code : Nat) (p eff : Bool) : State :=
  s.done h oneWord fun c =>
    ({ c with effects := c.effects || eff }.dst .variable_ .g d (ofWord (BitVec.ofNat 64 code))).dstNoEntry .variable_ .p b
      (ofMask (if p then 0xFFFF else 0))

/-- A reply attempted, with the status it stands for. -/
def State.tokenAnswer (s : State) (h : Hdr) (d b : Fld) (m : Msg) (code : Nat) : State :=
  s.replying s m (·.tokenDone h d b code true true) (s.tokenDone h d b 5 false false)

/-- ADMIT: one indivisible action (R182). -/
def execAdmitTok (h : Hdr) (d b : Fld) (s : State) : Res :=
  .next (s.guarded h oneWord (some (.g, d)) [] fun s =>
    let core := s.cur.core
    match s.ownToken with
    | .error code => s.operandTrap code 0
    | .ok (m, t) =>
      match s.tokenPoison core t, s.findExpert core (tokExpert t) with
      | some k, _ => s.trap k
      | none, none => s.tokenDone h d b 4 false false
      | none, some e =>
        if !expertOk core e then s.trapCode cEXPERT
        else
          match s.probeToken core e t with
          | .early => s.tokenDone h d b 3 false false
          | .duplicate => s.tokenAnswer h d b (s.tokenReply e m t 1 0) 1
          | .place none => s.tokenDone h d b 2 false false
          | .place (some i) =>
            if e.count = e.cap then s.tokenDone h d b 2 false false
            else
              let row := e.buf + 256 * e.count
              if spadBytes (coreDie core) < row + 256 then s.trapCode cEXPERT
              else if (List.range m.payload.length).any s.payloadPoisoned then s.operandTrap 0x160 0
              else
                let s1 := s.writeBytes (spadBase core + row)
                  ((List.range 256).map fun k => m.payload.getD k 0)
                let s1 := s1.writeWord (spadBase core + e.table + 8 * (i % 2 ^ e.lsz))
                  (bitAt 63 true ||| at_ 55 (tokLayer t) ||| at_ 51 (tokRank t) ||| at_ 32 e.count ||| at_ 0 (tokToken t))
                let s1 := s1.writeWord (spadBase core + e.off) (setField e.w0 15 0 (e.count + 1))
                s.replying s1 (s.tokenReply e m t 0 0) (·.tokenDone h d b 0 true true) (s.tokenDone h d b 5 false false))

/-- REFUSE (R183). Without a descriptor no duplicate is found, so the token is refused; the tag of that reply, which the
descriptor would give, is a free value (DESIGN CHOICE, log entry 23). -/
def execRefuse (h : Hdr) (d a b : Fld) (s : State) : Res :=
  .next (s.guarded h oneWord (some (.g, d)) [gs a] fun s =>
    let core := s.cur.core
    let reason := field (s.ctx.srcG a) 7 0
    let refused (s : State) (m : Msg) : State :=
      s.replying s m (·.tokenDone h d b 2 false true) (s.tokenDone h d b 5 false false)
    match s.ownToken with
    | .error code => s.operandTrap code 0
    | .ok (m, t) =>
      match s.tokenPoison core t, s.findExpert core (tokExpert t) with
      | some k, _ => s.trap k
      | none, none =>
        refused { s with fresh := s.fresh + 1 } (s.tokenReplyTo ((Config.freeWord s.fresh).toNat % 4096) m t 2 reason)
      | none, some e =>
        if !expertOk core e then s.trapCode cEXPERT
        else
          match s.probeToken core e t with
          | .duplicate => s.tokenAnswer h d b (s.tokenReply e m t 1 0) 1
          | .early => refused s (s.tokenReply e m t 2 reason)
          | .place _ => refused s (s.tokenReply e m t 2 reason))

/-! ### KV homing (R353, R168 to R172) -/

/-- The mix of a key (R168). -/
def kvMix (key : Word) : Word :=
  let x := key &&& 0x00FFFFFFFFFFFFFF
  let x := x ^^^ 0x6B43A9F15D2E0C87
  let x := x ^^^ (x >>> 33)
  let x := x * 0xA3B195E44C2D7F0B
  let x := x ^^^ (x >>> 29)
  let x := x * 0x5F1DC3A728E96B47
  x ^^^ (x >>> 32)

/-- The home of a point (R170): entries are (point, core) in ascending order. -/
def ringHome (l : List (Word × Nat)) (p : Nat) : Nat :=
  match l.find? fun e => decide (p ≤ e.1.toNat) with
  | some e => e.2
  | none => match l with | e :: _ => e.2 | [] => 0

def execKvhRing (h : Hdr) (d a : Fld) (s : State) : Res :=
  .next (s.guarded h oneWord (some (.g, d)) [gs a] fun s =>
    let die := s.die (coreDie s.cur.core)
    let p := field (kvMix (s.ctx.srcG a)) 63 32
    if die.ringLoad.isSome then s.stalledFull
    else if die.ring = [] then s.trapCode cKVRING
    else s.done h oneWord (·.dst .variable_ .g d (ofWord (at_ 32 p ||| at_ 0 (ringHome die.ring p)))))

/-- The probe of R172 over the `n` slots from `i` on: the entry bits of a hit. -/
def State.kvProbe (s : State) (core base : Nat) (key : Word) : (n i : Nat) → Except Stop (Option Word)
  | 0, _ => .ok none
  | n + 1, i =>
    match s.padWord core (base + 16 * (i % 512)) with
    | .error e => .error e
    | .ok w0 =>
      let st := field w0 63 62
      if st ≠ 0 ∧ field w0 55 24 = field key 55 24 ∧ field w0 23 0 = field key 23 0 then
        match s.padWord core (base + 16 * (i % 512) + 8) with
        | .error e => .error e
        | .ok w1 => .ok (some (at_ 62 st ||| at_ 0 (field w1 61 0)))
      else if st = 0 ∧ !w0.getLsbD 61 then .ok none
      else s.kvProbe core base key n (i + 1)

def execKvhLoc (h : Hdr) (d a b : Fld) (s : State) : Res :=
  .next (s.guarded h oneWord (some (.g, d)) [gs a] fun s =>
    let core := s.cur.core
    let key := s.ctx.srcG a
    let ht := s.me.htbase
    if !ht.getLsbD 0 ∨ !isM (coreDie core) then s.trapCode cKVTABLE
    else
      s.orHalt (s.kvProbe core (field ht 19 6 * 64) key 16 (field (kvMix key) 8 0)) fun r =>
        s.done h oneWord fun c =>
          (c.dst .variable_ .g d (ofWord (r.getD 0))).dstNoEntry .variable_ .p b
            (ofMask (if r.isSome then 0xFFFF else 0)))

/-! ### Completion (R354, R87 to R89) -/

/-- The position of a core among a kernel's records. -/
def Kernel.recOf (k : Kernel) (core : Nat) : Option Nat :=
  (List.range k.cores.length).find? fun i => (k.cores[i]?).any fun r => r.core == core

/-- COMB (R87). -/
def combine (comb : Nat) (x y : Word32) : Word32 :=
  if comb = 0 then x ||| y else if comb = 1 then x &&& y else if comb = 2 then x + y else if x.ult y then y else x

/-- Two contributions as one: the earliest and the latest DONE with the lowest core at each (R88). -/
def Contrib.join (comb : Nat) (x y : Contrib) : Contrib :=
  { word := combine comb x.word y.word
    count := x.count + y.count
    first := min x.first y.first
    firstCore := if x.first < y.first then x.firstCore else if y.first < x.first then y.firstCore
      else min x.firstCore y.firstCore
    last := max x.last y.last
    lastCore := if y.last < x.last then x.lastCore else if x.last < y.last then y.lastCore
      else min x.lastCore y.lastCore
    final := x.final || y.final }

/-- Children of a record that exist. -/
def Kernel.childrenOf (k : Kernel) (i : Nat) : List Nat :=
  [4 * i + 1, 4 * i + 2, 4 * i + 3, 4 * i + 4].filter fun c => c < k.cores.length

/-- What a node forwards: its own word and every child's, once all are there. -/
def Kernel.nodeOut (k : Kernel) (i : Nat) : Option Contrib :=
  let n := k.tree.get {} i
  match n.own with
  | none => none
  | some own =>
    (k.childrenOf i).foldl (fun acc c =>
      match acc, n.kids.find? c with
      | some x, some y => some (x.join k.comb y)
      | _, _ => none) (some own)

/-- Messages posted in order. -/
def State.posts (s : State) : List Msg → State
  | [] => s
  | m :: l => (s.post m).posts l

/-- The end of an epoch at the root (R88, R89). -/
def State.epochEnd (s : State) (kid : Nat) (k : Kernel) (x : Contrib) : State :=
  let root := match k.cores with | r :: _ => r.core | [] => 0
  let spread := x.last - x.first
  let s :=
    if k.skewb ≠ 0 ∧ k.skewb < spread then
      s.post (deviceMsg 3 k.rptag k.rpcore root 0 k.epoch
        (bytesOfWord (BitVec.ofNat 64 spread) ++ bytesOfWord (at_ 0 x.firstCore ||| at_ 32 x.lastCore)))
    else s
  if k.pers ∧ !x.final then
    let s := { s with kernels := s.kernels.put kid { k with tree := [], epoch := k.epoch + 1 } }
    s.posts (k.cores.map fun r => deviceMsg 3 k.eptag r.core root 0 k.epoch
      (bytesOfWord (at_ 0 x.word.toNat ||| at_ 32 x.count)))
  else { s with kernels := s.kernels.put kid { k with tree := [], state := .completing, complete := some x.word } }

/-- Whether a kernel's root waits with the end of an epoch: only a Running kernel goes to Completing (R82), and not while a PREEMPTK is
under way (DESIGN CHOICE, log entry 50). -/
def Kernel.paused (k : Kernel) : Bool :=
  k.state != .running || match k.save with | some v => !v.resume | none => false

/-- A node that has all its inputs forwards them, or the root ends the epoch. -/
def State.treeStep (s : State) (kid i : Nat) : State :=
  match s.kernels.find? kid with
  | none => s
  | some k =>
    match k.nodeOut i with
    | none => s
    | some x =>
      if i = 0 then (if k.paused then s else s.epochEnd kid k x)
      else if (k.tree.get {} i).out.isSome then s
      else
        let n : TreeNode := k.tree.get {} i
        let s := { s with kernels := s.kernels.put kid { k with tree := k.tree.put i { n with out := some x } } }
        s.later .treeCombine { unit := kid, sub := (i - 1) / 4, num := i }

/-- TREE_COMBINE (R87): a child's combined message, that of record `num`, reaches its parent; or the root, record 0, looks again at an
epoch whose end it has held back. -/
def execTreeCombine (s : State) : Res :=
  let kid := s.ev.unit
  let i := s.ev.sub
  .next (match s.kernels.find? kid with
    | none => s
    | some k =>
      if s.ev.num = 0 then s.treeStep kid 0 else
      match (k.tree.get {} s.ev.num).out with
      | none => s
      | some x =>
        let n := k.tree.get {} i
        let k := { k with tree := k.tree.put i { n with kids := n.kids.put s.ev.num x } }
        { s with kernels := s.kernels.put kid k }.treeStep kid i)

def execDone (h : Hdr) (final : Bool) (a : Fld) (s : State) : Res :=
  .next (s.guarded h oneWord none [gs a] fun s =>
    let core := s.cur.core
    match s.ctx.kernel.bind fun kid => (s.kernels.find? kid).map fun k => (kid, k) with
    | none => s.trapCode cREPEAT
    | some (kid, k) =>
      match k.recOf core with
      | none => s.trapCode cREPEAT
      | some i =>
        if k.state = .completing ∨ k.state = .preempted ∨ (k.tree.get {} i).own.isSome then s.trapCode cREPEAT
        else
          let x : Contrib :=
            { word := (s.ctx.srcG a).truncate 32, count := 1, first := s.clock, firstCore := core, last := s.clock
              lastCore := core, final := final && k.pers }
          let n : TreeNode := k.tree.get {} i
          let k := { k with tree := k.tree.put i { n with own := some x } }
          let s := { s with kernels := s.kernels.put kid k }.done h oneWord fun c => { c with effects := true }
          s.treeStep kid i)

/-! ### Acceptance and binding -/

/-- MESSAGE_ACCEPT (R69, R72): a message of the device or of an engine is tried; it waits for room. One to an unmapped
core goes nowhere. -/
def execMessageAccept (s : State) : Res :=
  let m := s.ev.msg
  .next (if !s.coreMapped m.dst then s
    else
      match s.accept m with
      | some s' => s'
      | none => s.nextCycle .messageAccept { msg := m })

/-- HELD_MESSAGE_DELIVERY (R21, R69): the oldest message of the HOLD ingress queue is matched once HOLD is clear and there
is room. -/
def execHeldMessageDelivery (s : State) : Res :=
  let core := s.ev.unit
  let k := s.core core
  .next (match k.hold with
    | [] => s
    | m :: l =>
      if s.coreHeld core then s
      else
        match k.slotFor m with
        | some slot => (s.setCore core { k with hold := l }).matchMsg core m slot
        | none => s)

/-- MESSAGE_BIND (R57, R61): one binding a cycle. While HOLD is set none of the messages already in the inbox binds either, on which R21
is silent (DESIGN CHOICE, log entry 49). -/
def execMessageBind (s : State) : Res :=
  .next (if s.coreHeld s.ev.unit then s else s.bindMessage s.ev.unit)

/-- PRIORITY_PROMOTION (R61). -/
def execPriorityPromotion (s : State) : Res :=
  .next (s.promote s.ev.unit)

/-- WAKE (R60): for the wait it was sent for. -/
def execWake (s : State) : Res :=
  let i := s.evId
  .next (match (s.ctxAt i).wait with
    | some w => if s.ev.num = w.since + 1 ∨ (s.ctxAt i).st ≠ .waiting then s.wakeCtx i else s
    | none => s.wakeCtx i)

/-- SLEEP_EXPIRE (R264): a SLEEP whose count has run out ends with 0. -/
def execSleepExpire (s : State) : Res :=
  let i := s.evId
  let c := s.ctxAt i
  .next (match c.st, c.wait with
    | .waiting, some w =>
      match w.kind with
      | .sleep t d => if t ≤ s.clock then s.setCtxAt i (c.finishWait s.clock w (some (d, 0))) else s
      | .force _ => s
      | .barrier _ _ => s
      | .kbarrier _ _ => s
      | .job _ _ => s
      | .copy _ _ => s
    | _, _ => s)

end Sys2Proof.Machine
end

