-- ==== Sys2Proof/Machine/Barrier.lean ====
section
/-!
DEFINITION. Sys2Proof/Machine/Barrier.lean: named and kernel-scope barriers (R95 to R104, R356, R357) and the wait-chain
probe (R79, R80, R101).
-/

namespace Sys2Proof.Machine

open Sys2Proof

def cBSTATE : Nat := 0x0C7
def cBFAULT : Nat := 0x0C8
def cCYCLE : Nat := 0x0C5

/-! ### Named barriers (R95 to R99) -/

/-- STATE codes (R95). -/
def bIDLE : Nat := 0
def bARMED : Nat := 1
def bARRIVING : Nat := 2
def bRELEASED : Nat := 3
def bFAULTED : Nat := 4

/-- A barrier of a core. -/
def Core.bar (k : Core) (n : Nat) : Bar := k.bars.get {} n

/-- BAR.N.n as it reads (R95). -/
def Bar.reg (b : Bar) : Word :=
  at_ 48 b.expect.toNat ||| at_ 32 b.arr.toNat ||| at_ 16 b.gen.toNat ||| at_ 8 b.amask.toNat ||| at_ 0 b.state

def State.setBar (s : State) (core n : Nat) (b : Bar) : State :=
  s.modCore core fun k => { k with bars := k.bars.put n b }

/-- Whether a context is Waiting, or is Saving or Saved in its wait, which a wake reaches too (R60). -/
def CtxState.waits : CtxState → Bool
  | .waiting => true
  | .saving => true
  | .saved => true
  | .restoring => true
  | .free => false
  | .dormant => false
  | .ready => false
  | .running => false
  | .trapped => false

/-- The contexts of a core that wait on its barrier `n`. -/
def State.barWaiters (s : State) (core n : Nat) : List CtxId :=
  (ctxsOf core).filter fun i =>
    (s.ctxAt i).st.waits && match (s.ctxAt i).wait with
      | some w => (match w.kind with | .barrier m _ => m == n | _ => false)
      | none => false

/-- The fields of a barrier after an arrival of a context (R98). -/
def Bar.arrive (b : Bar) (ctx : Nat) : Bar :=
  if b.arr + 1 = b.expect then { b with gen := b.gen + 1, arr := 0, amask := 0, state := bRELEASED }
  else { b with arr := b.arr + 1, amask := b.amask ||| BitVec.ofNat 8 (2 ^ ctx), state := bARRIVING }

/-- An arrival of the issuing context (R98): the last one wakes every waiter. -/
def State.arriveBar (s : State) (n : Nat) : State :=
  let b := (s.me).bar n
  let b' := b.arrive s.cur.ctx
  let s' := s.setBar s.cur.core n b'
  if b'.state = bRELEASED then s'.sendWakes (s.barWaiters s.cur.core n) else s'

/-- The causes of a named-barrier instruction other than BARINIT (R356). -/
def State.barTrap (s : State) (n : Nat) : Option Nat :=
  let b := (s.me).bar n
  if b.state = bIDLE ∨ b.kernel ≠ s.ctx.kernel then some cBSTATE
  else if b.state = bFAULTED then some cBFAULT
  else none

/-- The issuing context waits, its instruction still at the pc (R56). -/
def State.waitOn (s : State) (h : Hdr) (k : WaitKind) : State :=
  s.modCtx fun c => { c with st := .waiting, replies := [], pend := [], wait := some { kind := k, since := s.clock, h } }

def execBarinit (h : Hdr) (a : Fld) (n : BitVec 6) (s : State) : Res :=
  .next (s.guarded h oneWord none [gs a] fun s =>
    let b := (s.me).bar n.toNat
    let count := (s.ctx.srcG a).toNat
    if (b.state ≠ bIDLE ∧ b.kernel ≠ s.ctx.kernel) ∨ count = 0 ∨ 65535 < count ∨ b.state = bARRIVING then s.trapCode cBSTATE
    else
      (s.setBar s.cur.core n.toNat
        { b with expect := BitVec.ofNat 16 count, arr := 0, amask := 0, state := bARMED, kernel := s.ctx.kernel }).done h
        oneWord id)

def execBararv (h : Hdr) (d : Fld) (n : BitVec 6) (s : State) : Res :=
  .next (s.guarded h oneWord (some (.g, d)) [] fun s =>
    match s.barTrap n.toNat with
    | some code => s.trapCode code
    | none =>
      let gen := ((s.me).bar n.toNat).gen
      (s.arriveBar n.toNat).done h oneWord (·.dst .variable_ .g d (ofWord (gen.zeroExtend 64))))

def execBarwait (h : Hdr) (a : Fld) (n : BitVec 6) (s : State) : Res :=
  .next (s.guarded h oneWord none [gs a] fun s =>
    match s.barTrap n.toNat with
    | some code => s.trapCode code
    | none =>
      let tok : BitVec 16 := (s.ctx.srcG a).truncate 16
      if ((s.me).bar n.toNat).gen ≠ tok then s.done h oneWord id else s.waitOn h (.barrier n.toNat tok))

def execBartry (h : Hdr) (d a : Fld) (n : BitVec 6) (s : State) : Res :=
  .next (s.guarded h oneWord (some (.p, d)) [gs a] fun s =>
    match s.barTrap n.toNat with
    | some code => s.trapCode code
    | none =>
      let tok : BitVec 16 := (s.ctx.srcG a).truncate 16
      let p : Mask := if ((s.me).bar n.toNat).gen ≠ tok then 0xFFFF else 0
      s.done h oneWord (·.dst .variable_ .p d (ofMask p)))

def execBararvw (h : Hdr) (n : BitVec 6) (s : State) : Res :=
  .next (s.guarded h oneWord none [] fun s =>
    match s.barTrap n.toNat with
    | some code => s.trapCode code
    | none =>
      let gen := ((s.me).bar n.toNat).gen
      let s := s.arriveBar n.toNat
      if ((s.me).bar n.toNat).state = bRELEASED then s.done h oneWord id else s.waitOn h (.barrier n.toNat gen))

/-! ### Kernel-scope barriers (R100) -/

/-- The view of a barrier at a core for a kernel. -/
def State.gbarAt (s : State) (core kid n : Nat) : GBar :=
  (((s.core core).views.get {} kid).gbar.get {} n)

def State.setGbar (s : State) (core kid n : Nat) (b : GBar) : State :=
  s.modCore core fun k =>
    let v : KView := k.views.get {} kid
    { k with views := k.views.put kid { v with gbar := v.gbar.put n b } }

def GbLevel.num : GbLevel → Nat
  | .cl => 1
  | .stk => 2
  | .pkg => 3

/-- The stack group of a core: its die and stack (R17). -/
def coreStack (core : Nat) : Nat × Nat :=
  (coreDie core, stackOf (coreDie core) (coreCluster core))

/-- The member cores of a core's group at a level, in record order (R90, R100). -/
def Kernel.members (k : Kernel) (lvl core : Nat) : List Nat :=
  (k.cores.map (·.core)).filter fun c =>
    if lvl = 1 then coreEngine c == coreEngine core else if lvl = 2 then coreStack c == coreStack core else true

/-- The earliest of the arrivals of a list of views. -/
def firstArrival : List GBar → Option GBar
  | [] => none
  | x :: l =>
    match firstArrival l with
    | none => some x
    | some y => some (if x.order ≤ y.order then x else y)

/-- LVL at a core (R100, R101): the level of its own arrival, or that of the first arrival of its group that no release answers yet
(R357); 0 where no arrival has given its generation a level. An arrival at a wider level of a core that no narrower arrival outstanding
in another group concerns is in order: R100 does not say whether LVL of another group counts (DESIGN CHOICE, log entry 50). -/
def State.gbarLvl (s : State) (kid : Nat) (k : Kernel) (core n : Nat) : Nat :=
  let b := s.gbarAt core kid n
  if b.arv then b.lvl
  else
    let outstanding := (k.cores.map (·.core)).filterMap fun m =>
      let x := s.gbarAt m kid n
      if x.arv ∧ !x.due ∧ (k.members x.lvl m).contains core then some x else none
    ((firstArrival outstanding).map (·.lvl)).getD 0

/-- The place of the next arrival at a barrier of a kernel. -/
def State.nextOrder (s : State) (kid : Nat) (k : Kernel) (n : Nat) : Nat :=
  (k.cores.map fun r => (s.gbarAt r.core kid n).order).foldl max 0 + 1

/-- BAR.G.n as it reads at a core for a kernel (R100): Arriving while its generation has an arrival (DESIGN CHOICE, log entry 50). -/
def State.gbarReg (s : State) (core kid n : Nat) : Word :=
  let b := s.gbarAt core kid n
  let (lvl, fault) := match s.kernels.find? kid with
    | some k => (s.gbarLvl kid k core n, (k.bars.get ({} : KBar) n).fault)
    | none => (0, false)
  at_ 16 b.gen.toNat ||| at_ 4 lvl ||| bitAt 3 b.arv
    ||| at_ 0 (if fault then bFAULTED else if lvl ≠ 0 then bARRIVING else b.state)

/-- The contexts of a kernel that wait on its barrier `n` on a core. -/
def State.gbarWaiters (s : State) (core kid n : Nat) : List CtxId :=
  (ctxsOf core).filter fun i =>
    (s.ctxAt i).st.waits && (s.ctxAt i).kernel == some kid && match (s.ctxAt i).wait with
      | some w => (match w.kind with | .kbarrier m _ => m == n | _ => false)
      | none => false

/-- The issuing context's kernel and its barrier `n`; BARRIER_STATE without a kernel, BARRIER_FAULTED where it is. -/
def State.kbarOf (s : State) (n : Nat) : Except Nat (Nat × Kernel) :=
  match s.ctx.kernel with
  | none => .error cBSTATE
  | some kid =>
    match s.kernels.find? kid with
    | none => .error cBSTATE
    | some k =>
      if (k.bars.get ({} : KBar) n).fault then .error cBFAULT else .ok (kid, k)

def execGbarv (h : Hdr) (lvl : GbLevel) (d : Fld) (n : BitVec 2) (s : State) : Res :=
  .next (s.guarded h oneWord (some (.g, d)) [] fun s =>
    match s.kbarOf n.toNat with
    | .error code => s.trapCode code
    | .ok (kid, k) =>
      let core := s.cur.core
      let v := s.gbarAt core kid n.toNat
      let there := s.gbarLvl kid k core n.toNat
      if v.arv ∨ (there ≠ 0 ∧ there ≠ GbLevel.num lvl) then s.trapCode cBSTATE
      else
        let s := s.setGbar core kid n.toNat { v with arv := true, lvl := GbLevel.num lvl, order := s.nextOrder kid k n.toNat }
        (s.later .kernelBarrierCombine { unit := kid, sub := n.toNat, num := core }).done h oneWord
          (·.dst .variable_ .g d (ofWord (v.gen.zeroExtend 64))))

def execGbwait (h : Hdr) (a : Fld) (n : BitVec 2) (s : State) : Res :=
  .next (s.guarded h oneWord none [gs a] fun s =>
    match s.kbarOf n.toNat with
    | .error code => s.trapCode code
    | .ok (kid, _) =>
      let tok : BitVec 16 := (s.ctx.srcG a).truncate 16
      if (s.gbarAt s.cur.core kid n.toNat).gen ≠ tok then s.done h oneWord id
      else s.waitOn h (.kbarrier n.toNat tok))

def execGbtry (h : Hdr) (d a : Fld) (n : BitVec 2) (s : State) : Res :=
  .next (s.guarded h oneWord (some (.p, d)) [gs a] fun s =>
    match s.kbarOf n.toNat with
    | .error code => s.trapCode code
    | .ok (kid, _) =>
      let tok : BitVec 16 := (s.ctx.srcG a).truncate 16
      let p : Mask := if (s.gbarAt s.cur.core kid n.toNat).gen ≠ tok then 0xFFFF else 0
      s.done h oneWord (·.dst .variable_ .p d (ofMask p)))

/-- Releases sent to member cores. -/
def State.sendReleases (s : State) (kid n : Nat) : List Nat → State
  | [] => s
  | c :: l =>
    ((s.setGbar c kid n { s.gbarAt c kid n with due := true }).later .kernelBarrierRelease
      { unit := kid, sub := n, num := c }).sendReleases kid n l

/-- KERNEL_BARRIER_COMBINE (R100): an arrival reaches the combining core of its group, which answers the last one. -/
def execKernelBarrierCombine (s : State) : Res :=
  let kid := s.ev.unit
  let n := s.ev.sub
  let core := s.ev.num
  .next (match s.kernels.find? kid with
    | none => s
    | some k =>
      let b : KBar := k.bars.get {} n
      let lvl := (s.gbarAt core kid n).lvl
      let mem := k.members lvl core
      let at' := 4 * mem.headD core + lvl
      let got := core :: b.arrived.get [] at'
      if got.length < mem.length then
        let k' := { k with bars := k.bars.put n { b with arrived := b.arrived.put at' got } }
        { s with kernels := s.kernels.put kid k' }
      else
        let k' := { k with bars := k.bars.put n { b with arrived := b.arrived.erase at' } }
        { s with kernels := s.kernels.put kid k' }.sendReleases kid n mem)

/-- KERNEL_BARRIER_RELEASE (R100): GEN advances at one member core and its waiters wake. A release that reaches a Faulted barrier is
dropped, on which R100 and R101 are silent (DESIGN CHOICE, log entry 50). While the kernel is Preempted its barriers
stand as they were saved (R96), and the release is applied after the RESUME (DESIGN CHOICE, log entry 50). -/
def execKernelBarrierRelease (s : State) : Res :=
  let kid := s.ev.unit
  let n := s.ev.sub
  let core := s.ev.num
  .next (match s.kernels.find? kid with
    | none => s
    | some k =>
      if (k.bars.get ({} : KBar) n).fault then s
      else if k.state = .preempted then s.nextCycle .kernelBarrierRelease s.ev
      else
        let b := s.gbarAt core kid n
        (s.setGbar core kid n { gen := b.gen + 1, state := bRELEASED }).sendWakes (s.gbarWaiters core kid n))

/-! ### The wait-chain probe (R79, R101) -/

/-- The lowest-numbered context of a kernel on a core. -/
def State.firstCtx (s : State) (core kid : Nat) : Option CtxId :=
  (ctxsOf core).find? fun i => (s.ctxAt i).kernel == some kid

/-- Whether a context holds an activation. -/
def CtxState.holds : CtxState → Bool
  | .free => false
  | .dormant => false
  | .ready => true
  | .running => true
  | .waiting => true
  | .trapped => true
  | .saving => true
  | .saved => true
  | .restoring => true

/-- The wait-for edges of a context, and whether they are a FORCE's; none where it is in no such wait. -/
def State.edges (s : State) (i : CtxId) : Option (Bool × List CtxId) :=
  let c := s.ctxAt i
  if c.st ≠ .waiting then none
  else
    match c.wait with
    | none => none
    | some w =>
      match w.kind with
      | .force x =>
        match s.barrier (.core i.core) x with
        | .error _ => some (true, [])
        | .ok t =>
          if hdrKind t.hdr ≠ kBLACKHOLE then some (true, [])
          else
            match s.objWord (.core i.core) t.handle 1 with
            | .ok w1 => some (true, [holeEv w1])
            | .error _ => some (true, [])
      | .barrier n _ =>
        let b := (s.core i.core).bar n
        some (false, (ctxsOf i.core).filter fun j =>
          j != i && (s.ctxAt j).kernel == c.kernel && (s.ctxAt j).st.holds && !b.amask.getLsbD j.ctx)
      | .kbarrier n _ =>
        match c.kernel.bind fun kid => (s.kernels.find? kid).map fun k => (kid, k) with
        | none => some (false, [])
        | some (kid, k) =>
          let lvl := s.gbarLvl kid k i.core n
          let here := s.gbarAt i.core kid n
          let done (m : Nat) : Bool :=
            let x := s.gbarAt m kid n
            here.due || (x.arv && !x.due && x.lvl == lvl)
          if lvl = 0 then none
          else some (false, ((k.members lvl i.core).filter fun m => !done m).filterMap fun m => s.firstCtx m kid)
      | .job _ _ => none
      | .copy _ _ => none
      | .sleep _ _ => none

/-- The cycle a context's wait began, plus one; 0 where it does not wait. -/
def State.waitMark (s : State) (i : CtxId) : Nat :=
  match (s.ctxAt i).st, (s.ctxAt i).wait with
  | .waiting, some w => w.since + 1
  | _, _ => 0

/-- The higher of two contexts by (core, context). -/
def higherCtx (x y : CtxId) : CtxId :=
  if x.core < y.core ∨ (x.core = y.core ∧ x.ctx < y.ctx) then y else x

/-- A probe sent along every edge of the context it is at. -/
def State.sendProbes (s : State) (p : Probe) (isForce : Bool) : List CtxId → State
  | [] => s
  | j :: l =>
    (s.later .probeForward
      { probe := { p with at_ := j, atSince := s.waitMark j, hops := p.hops + 1, force := p.force || isForce } }).sendProbes
      p isForce l

/-- PROBE_SEND (R79): a context that has waited 4,096 cycles or a multiple of them. -/
def execProbeSend (s : State) : Res :=
  let i := s.evId
  .next (match s.edges i, (s.ctxAt i).wait with
    | some (f, js), some w =>
      if 4096 ≤ s.clock - w.since then
        s.sendProbes { src := i, srcSince := w.since + 1, at_ := i, atSince := 0, high := i, hops := 0, force := false } f js
      else s
    | _, _ => s)

/-- PROBE_FORWARD (R79, R80). -/
def execProbeForward (s : State) : Res :=
  let p := s.ev.probe
  let i := p.at_
  .next (match s.edges i with
    | none => s
    | some (f, js) =>
      if s.waitMark i ≠ p.atSince ∨ 256 < p.hops then s
      else if i = p.src then
        if s.waitMark i = p.srcSince then
          s.later .victimNotice { evCtx p.high with num := s.waitMark p.high, flag := p.force }
        else s
      else s.sendProbes { p with high := higherCtx p.high i } f js)

/-- The waiter list of the object a context waits on, without that context (R80, R127). Where an access to the object faults, the context
leaves its wait all the same and stays in the list, which R127 leaves open (DESIGN CHOICE, log entry 57). -/
def State.unlinkWaiter (s : State) (i : CtxId) : State :=
  let next := (s.ctxAt i).waiter
  match (s.ctxAt i).wait with
  | none => s
  | some w =>
    match w.kind with
    | .force x =>
      let ag : Agent := .core i.core
      match s.atOnce i.core x fun s t => do
          let w1 ← s.objWord ag t.handle 1
          if hdrKind t.hdr ≠ kBLACKHOLE then .ok s
          else if holeHead w1 = some i then s.vwrite ag (hAddr t.handle + 8) (holeWord (holeEv w1) next)
          else
            match (s.waitersFrom 65536 (holeHead w1)).find? fun j => (s.ctxAt j).waiter == some i with
            | some j => .ok (s.modCtxAt j fun c => { c with waiter := next })
            | none => .ok s
      with
      | .ok s' => s'.modCtxAt i fun c => { c with waiter := none }
      | .error _ => s
    | .barrier _ _ => s
    | .kbarrier _ _ => s
    | .job _ _ => s
    | .copy _ _ => s
    | .sleep _ _ => s

/-- The contexts Waiting on a barrier that becomes Faulted trap at their wait (R101), synchronously: R216 does not list the cause
among the asynchronous ones. One that is being saved meets the fault when it examines its wait again (R358). -/
def State.faultWaiters (s : State) (objk n : Nat) : List CtxId → State
  | [] => s
  | i :: l =>
    (if (s.ctxAt i).st = .waiting then
      s.takeTrap i (s.ctxAt i).pc { code := cBFAULT, objk, obj := BitVec.ofNat 64 n } else s).faultWaiters objk n l

/-- VICTIM_NOTICE (R80, R101): the victim leaves its wait and traps; its barrier, if it waits on one, becomes Faulted and
every other waiter traps BARRIER_FAULTED. -/
def execVictimNotice (s : State) : Res :=
  let i := s.evId
  let c := s.ctxAt i
  let code := if s.ev.flag then 0x08C else cCYCLE
  .next (if s.waitMark i ≠ s.ev.num ∨ s.waitMark i = 0 then s
    else
      match c.wait with
      | none => s
      | some w =>
        match w.kind with
        | .force x => (s.unlinkWaiter i).trapAsync i { code, objk := 1, obj := x }
        | .barrier n _ =>
          let others := (s.barWaiters i.core n).filter (· != i)
          let b := (s.core i.core).bar n
          let s := s.setBar i.core n { b with state := bFAULTED }
          (s.trapAsync i { code, objk := 2, obj := BitVec.ofNat 64 n }).faultWaiters 2 n others
        | .kbarrier n _ =>
          match c.kernel.bind fun kid => (s.kernels.find? kid).map fun k => (kid, k) with
          | none => s
          | some (kid, k) =>
            let b : KBar := k.bars.get {} n
            let others := (k.cores.flatMap fun r => s.gbarWaiters r.core kid n).filter (· != i)
            let s := { s with kernels := s.kernels.put kid { k with bars := k.bars.put n { b with fault := true } } }
            (s.trapAsync i { code, objk := 3, obj := BitVec.ofNat 64 n }).faultWaiters 3 n others
        | .job _ _ => s
        | .copy _ _ => s
        | .sleep _ _ => s)

end Sys2Proof.Machine
end

