-- ==== Sys2Proof/Machine/Links.lean ====
section
/-!
DEFINITION. Sys2Proof/Machine/Links.lean: accesses of engines and ports (R49, R142, R146, R151), the ports and their
states (R158 to R166), requests that leave the package and their answers (R162, R149), requests that enter it (R161, R165,
R201), and who may write a management register (R410, R411).
-/

namespace Sys2Proof.Machine

open Sys2Proof

/-! ### Management writes (R409 to R411) -/

/-- MGMT.STAT codes (R411). -/
def mOK : Nat := 0
def mBUSY : Nat := 1
def mCONFLICT : Nat := 2
def mFORM : Nat := 3
def mSTATE : Nat := 4
def mNOTOWNER : Nat := 5
def mEXHAUSTED : Nat := 6

/-- Whether a master owns the package (R410). -/
def State.ownedBy (s : State) : Master → Bool
  | .outside id => s.mgmt.owner != 0 && s.mgmt.owner == id.toNat
  | .part _ _ _ => false

/-- The end of a write or a command: MGMT.STAT of the master outside, or the reply to the partition under MTAG to its event
core (R409, R411; DEDUCED, log entry 26). -/
def State.settle (s : State) (who : Master) (status : Nat) (value : Word) : State :=
  match who with
  | .outside id =>
    let m := s.mgmt
    { s with mgmt := { m with stat := m.stat.put id.toNat status } }
  | .part p _ _ =>
    let w := s.part p
    s.post (deviceMsg 3 (partMtag w) (partEvcore w) (partEvcore w) 0 status (bytesOfWord value))

/-- A write that only the owner makes (R411): refused with NOTOWNER, or carried out and answered. -/
def State.asOwner (s : State) (who : Master) (f : State → State × Nat) : State :=
  if s.ownedBy who then
    let r := f s
    r.1.settle who r.2 0
  else s.settle who mNOTOWNER 0

/-! ### Accesses of engines and ports -/

/-- Where a byte is: in the package, or beyond a port. -/
inductive Spot
  | here (pa : Nat)
  | away (port addr : Nat)
deriving DecidableEq, Repr

/-- A trap of an engine access. -/
def engFault {α : Type} (k : Kind) (code a : Nat) : Except Stop α :=
  .error (.trap { code, acc := k.acc, addr := BitVec.ofNat 64 a })

/-- Translation of the bytes from an address up for a die's units (R142, R146). -/
def State.spotsPaged (s : State) (d : Nat) (k : Kind) (va : Nat) : Nat → Except Stop (List Spot)
  | 0 => .ok []
  | n + 1 => do
    let pa ← s.vaddr (.die d) k va
    let l ← s.spotsPaged d k (va + 1) n
    .ok (.here pa :: l)

/-- The checks of R49 for an access of `n` bytes by a unit of a die, and where its bytes are. Home-execute pages give no
fault (R151). A port must carry requests, but for one that has been made and answered. -/
def State.spots (s : State) (d : Nat) (k : Kind) (va n : Nat) : Except Stop (List Spot) :=
  let w := windowOf va
  if w = .none then engFault k 0x040 va
  else if windowOf (va + n - 1) ≠ w then engFault k 0x041 va
  else
    match w with
    | .none => engFault k 0x040 va
    | .local_ _ => engFault k 0x040 va
    | .remote id =>
      match (List.range n).find? fun i => !s.spadPopulated id (va % 0x100000 + i) with
      | some i => engFault k 0x042 (va + i)
      | none =>
        if coreDie id ≠ d ∧ (s.die (coreDie id)).stopped then .error (.trap { code := 0x163, acc := k.acc })
        else .ok ((List.range n).map fun i => .here (spadBase id + va % 0x100000 + i))
    | .hbm => s.spotsPaged d k va n
    | .heap =>
      match s.pinnedAt (.die d) va with
      | some (base, size) => if va + n ≤ base + size then s.spotsPaged d k va n else engFault k 0x043 va
      | none => engFault k 0x043 va
    | .host =>
      let sid := s.sidOf (.die d)
      let host (i : Nat) : Option Nat := s.hostAddr (1024 + d) sid k.writes (va + i)
      if !s.hostUp ∧ !((host 0).any fun a => (s.brought 8 a).isSome) then .error (.trap { code := 0x142, acc := k.acc })
      else
        match (List.range n).find? fun i => (host i).isNone with
        | some i =>
          match s.priFailed sid (va + i) with
          | some code => engFault k code (va + i)
          | none => .error (.ats (va + i) k.writes)
        | none => .ok ((List.range n).map fun i => .away 8 ((host i).getD 0))
    | .link p =>
      let made := field (s.peers.get 0 p) 62 59
      match (if (s.brought made va).isSome then some made else s.peerPort p) with
      | some port => .ok ((List.range n).map fun i => .away port (va + i))
      | none => .error (.trap { code := 0x142, acc := k.acc })

/-- The first poisoned byte among spots. -/
def State.spotPoison (s : State) (l : List Spot) : Option Nat :=
  l.findSome? fun x => match x with
    | .here pa => if s.poisoned pa then some pa else none
    | .away _ _ => none

/-- The port of the first spot beyond one. -/
def portOf : List Spot → Option Nat
  | [] => none
  | .away port _ :: _ => some port
  | .here _ :: l => portOf l

/-! ### Ports (R158, R159) -/

/-- STATE codes (R158). -/
def PortState.num : PortState → Nat
  | .down => 0
  | .training => 1
  | .up => 2
  | .degraded => 3
  | .quiesced => 4
  | .isolated => 5

/-- The die of a port (R25). -/
def portDie (n : Nat) : Nat :=
  if n < 8 then 4 + n / 2 else if n = 8 then 4 else 5

/-- The lanes of a port at full width (R160, R165). -/
def portLanes (n : Nat) : Nat :=
  if n < 8 then 4 else if n = 8 then 16 else 8

/-- WIDTH of trained lanes (R159). -/
def portWidth (n lanes : Nat) : Nat :=
  if n < 8 then lanes else log2Of lanes

/-- The link event of a change, to every partition's event core (R159; DEDUCED, log entry 29). -/
def State.linkEvent (s : State) (port state cause : Nat) : State :=
  s.posts ((List.range 8).filterMap fun p =>
    let w := s.part p
    if partV w then
      some (deviceMsg 3 (partLtag w) (partEvcore w) (partEvcore w) 0 (port + state * 2 ^ 4 + cause * 2 ^ 16) [])
    else none)

/-- A port in another state, with the event. -/
def State.portTo (s : State) (n : Nat) (st : PortState) (cause : Nat) : State :=
  (s.modPort n fun p => { p with state := st, before := p.state }).linkEvent n st.num cause

/-- A failure (R158): only a port that carries or has carried traffic is isolated. -/
def State.portFail (s : State) (n cause : Nat) : State :=
  let st := (s.port n).state
  if st = .up ∨ st = .degraded ∨ st = .quiesced then s.portTo n .isolated cause else s

/-- A command that the state does not allow (R158). -/
def State.portRefuse (s : State) (n : Nat) : State :=
  s.modPort n fun p => { p with cerr := true }

/-- Cycles of 100 ms (R158, R402: 2 GHz). -/
def trainCycles : Nat := 200000000

/-- A command of LNK.PORT.CMD (R158). -/
def State.portCommand (s : State) (n cmd : Nat) : State :=
  let p := s.port n
  if cmd = 1 then
    if p.state = .down then
      ((s.modPort n fun p => { p with trainAt := s.clock }).portTo n .training 0).schedule (s.clock + trainCycles)
        .trainingTimeout { unit := n }
    else s.portRefuse n
  else if cmd = 2 then
    if p.state = .up ∨ p.state = .degraded then s.portTo n .quiesced 0 else s.portRefuse n
  else if cmd = 3 then
    if p.state = .quiesced then s.portTo n p.before 0 else s.portRefuse n
  else if cmd = 4 then
    if p.state = .up ∨ p.state = .degraded ∨ p.state = .quiesced then s.portFail n 0 else s.portRefuse n
  else if cmd = 5 then
    if p.state = .isolated then s.portTo n .down 0 else s.portRefuse n
  else s

/-- A link command event: port `unit`, by its owner. -/
def State.linkCommand (s : State) (cmd : Nat) : State :=
  s.asOwner s.ev.who fun s => if s.ev.unit < 10 then (s.portCommand s.ev.unit cmd, mOK) else (s, mFORM)

def execLinkTrain (s : State) : Host.Outcome State Fault Refusal :=
  .next (s.linkCommand 1)

def execLinkQuiesce (s : State) : Host.Outcome State Fault Refusal :=
  .next (s.linkCommand 2)

def execLinkResume (s : State) : Host.Outcome State Fault Refusal :=
  .next (s.linkCommand 3)

def execLinkIsolate (s : State) : Host.Outcome State Fault Refusal :=
  .next (s.linkCommand 4)

def execLinkDown (s : State) : Host.Outcome State Fault Refusal :=
  .next (s.linkCommand 5)

/-- TRAINING_DONE (R158): Up at full width, Degraded at a reduced one; on Up, the window bound holds again for every peer (R164). -/
def execTrainingDone (s : State) : Host.Outcome State Fault Refusal :=
  let n := s.ev.unit
  let lanes := s.ev.sub
  .next (if (s.port n).state ≠ .training ∨ lanes = 0 ∨ portLanes n < lanes ∨ n > 9 ∨ 2 ^ log2Of lanes ≠ lanes then s
    else
      let full := lanes = portLanes n
      (s.modPort n fun p =>
        { p with width := BitVec.ofNat 3 (portWidth n lanes), lifted := if full then [] else p.lifted
                 offsets := if full then [] else p.offsets }).portTo n
        (if full then .up else .degraded) 0)

/-- TRAINING_TIMEOUT (R158): 100 ms without success. -/
def execTrainingTimeout (s : State) : Host.Outcome State Fault Refusal :=
  let p := s.port s.ev.unit
  .next (if p.state = .training ∧ p.trainAt + trainCycles ≤ s.clock then s.portTo s.ev.unit .down 0 else s)

/-- LINK_FAILURE (R158). -/
def execLinkFailure (s : State) : Host.Outcome State Fault Refusal :=
  .next (s.portFail s.ev.unit (s.ev.num % 512))

/-- REPLAY_THRESHOLD (R158, R159): the data-link layer reports `num` replays in the last millisecond. REPLAY counts them, and more
than RTHR of them make Up Degraded. -/
def execReplayThreshold (s : State) : Host.Outcome State Fault Refusal :=
  let n := s.ev.unit
  let p := s.port n
  .next (if 9 < n then s
    else
      let s1 := s.setPort n { p with replay := BitVec.ofNat 16 (min (p.replay.toNat + s.ev.num) 0xFFFF) }
      if p.state = .up ∧ p.rthr.toNat < s.ev.num then s1.portTo n .degraded 0 else s1)

/-- The peer of a link-window address (R48). -/
def peerOf (addr : Nat) : Nat := addr / 2 ^ 40 % 1024

/-- The bound of R164 is lifted for a peer: OVR and the event with its cause. It holds for a port that is Up or Degraded. -/
def State.liftWindow (s : State) (n peer : Nat) : State :=
  let p := s.port n
  if 9 < n ∨ !p.carries ∨ p.lifted.contains peer then s
  else (s.setPort n { p with ovr := true, lifted := peer :: p.lifted }).linkEvent n p.state.num 0x141

/-- WINDOW_OVERRUN (R164): the port raises it (`flag`) for a write, request `sub`, that is not acknowledged when window N + 2 begins;
otherwise PTP has measured the clock offset of peer `num`, `w0` nanoseconds, which must not exceed W/4. -/
def execWindowOverrun (s : State) : Host.Outcome State Fault Refusal :=
  let n := s.ev.unit
  let p := s.port n
  .next (if s.ev.flag then
      match p.reqs.find? fun r => r.id == s.ev.sub with
      | none => s
      | some r => s.liftWindow n (peerOf r.addr)
    else
      let peer := s.ev.num % 1024
      let offset := s.ev.w0.toNat
      let s1 := if 9 < n then s else s.setPort n { p with offsets := p.offsets.put peer offset }
      if s.mgmt.vwin.toNat < 4 * offset then s1.liftWindow n peer else s1)

/-! ### Outgoing requests (R162) -/

/-- Whether what a request asks for may be performed although it ends in error (R162). -/
def opIndet : ExtOp → Bool
  | .read _ => false
  | .write _ => true
  | .atomic _ _ _ _ => true
  | .message _ => true

/-- The cause with which a request that a context awaits ends in error: TRAP.CAUSE.ACC is that of its access (R217), and the outcome
may be indeterminate (R162). None where the context awaits another. -/
def Context.reqCause (c : Context) (port : Nat) (r : LinkReq) (code : Nat) : Option Cause :=
  match c.stall with
  | some (.link p req w) => if p = port ∧ req = r.id then some { code, acc := w.acc, indet := opIndet r.op } else none
  | _ => none

/-- A page request ends without a translation: HOST_TRANSLATION, for a core or for the unit that asked (R149). -/
def State.failPri (s : State) (r : LinkReq) (code : Nat) : State :=
  let pris := s.pris.map fun x => if x.req = r.id ∧ x.failed = none then { x with failed := some (code, s.clock) } else x
  let s : State := { s with pris }
  match r.src with
  | .event _ _ => s
  | .ctx i =>
    let c := s.ctxAt i
    match c.stall with
    | some (.pri req acc) =>
      if req ≠ r.id then s
      else s.takeTrap i c.pc
        (if code = 0x04A then { code, acc, addr := BitVec.ofNat 64 (0x9000000000000 + r.addr) } else { code, acc })
    | _ => s

/-- A request of a port ends in error: its context traps, or the event that made it goes on with the cause; a page request faults
HOST_TRANSLATION on a timeout (R149, R162). -/
def State.failReq (s : State) (port : Nat) (r : LinkReq) (code : Nat) : State :=
  if port = 8 ∧ r.op = .read 0 then s.failPri r (if code = 0x140 then 0x04A else code)
  else
    match r.src with
    | .event _ _ => s.answerErrand port r code []
    | .ctx i =>
      match (s.ctxAt i).reqCause port r code with
      | some k => s.takeTrap i (s.ctxAt i).pc k
      | none => s

/-- Requests end in error, each with LINK_TIMEOUT when its time is up, else with LINK_ABORTED (R162). -/
def State.failReqs (s : State) (port : Nat) : List LinkReq → State
  | [] => s
  | r :: l => (s.failReq port r (if r.due ≤ s.clock then 0x140 else 0x144)).failReqs port l

/-- A timeout at a port (R162): the port is isolated and everything outstanding on it ends in error. -/
def State.portTimeout (s : State) (n : Nat) : State :=
  let p := s.port n
  ((s.setPort n { p with reqs := [] }).portFail n 0x140).failReqs n p.reqs

/-- Whether an answer to a request of a port is due in this cycle. -/
def State.answerDue (s : State) (n : Nat) : Bool :=
  s.agenda.any fun d => decide (d.at_ ≤ s.clock) && (d.row == .linkResponse || d.row == .priResponse) && d.ev.unit == n

/-- LINK_REQUEST_TIMEOUT (R162): request `sub` of port `unit`. The responses of the same cycle come first. -/
def execLinkRequestTimeout (s : State) : Host.Outcome State Fault Refusal :=
  let n := s.ev.unit
  let p := s.port n
  .next (if !(p.reqs.any fun r => r.id == s.ev.sub && decide (r.due ≤ s.clock)) then s
    else if s.answerDue n then s.now .linkRequestTimeout s.ev
    else s.portTimeout n)

/-- What an answer does to the context that awaits it: a result is written next, or the instruction issues again. A SEND that is answered
busy makes another attempt in the next cycle, until its timeout (R161, R344). -/
def State.answered (s : State) (i : CtxId) (r : LinkReq) (w : Waiter) (busy : Bool) (data : List Byte) : State :=
  let c := s.ctxAt i
  let result (data : List Byte) : State :=
    (s.setCtxAt i { c with stall := some (.result w data) }).nextCycle .resultWriteback (evCtx i)
  let again (c : Context) : State := s.setCtxAt i { c with stall := none, notBefore := s.clock + 1 }
  match w.ans with
  | .element => again { c with replies := c.replies ++ [data] }
  | .progress g => again { c with gprog := g }
  | .scalar _ _ => result data
  | .nothing => result []
  | .sent nb => if !busy then result [] else if nb then result [0] else again { c with retry := some r.due, full := true }

/-- LINK_RESPONSE (R162): request `sub` of port `unit`; `num` 0 performed or accepted, 1 busy, else an error or an
unsupported-request completion; `data` read bytes. -/
def execLinkResponse (s : State) : Host.Outcome State Fault Refusal :=
  let n := s.ev.unit
  let p := s.port n
  .next (match p.reqs.find? fun r => r.id == s.ev.sub with
    | none => s
    | some r =>
      let s1 := s.setPort n { p with reqs := List.filter (fun r => r.id != s.ev.sub) p.reqs }
      if !p.hears then s
      else if 2 ≤ s.ev.num then s1.failReq n r 0x143
      else
        match r.src with
        | .event _ _ => s1.answerErrand n r 0 s.ev.data
        | .ctx i =>
          match (s.ctxAt i).stall with
          | some (.link port req w) => if port ≠ n ∨ req ≠ r.id then s1 else s1.answered i r w (s.ev.num = 1) s.ev.data
          | _ => s1)

/-- RESULT_WRITEBACK (R235): what the instruction of a context waited for is written, and it completes. -/
def execResultWriteback (s : State) : Host.Outcome State Fault Refusal :=
  let i := s.evId
  let c := s.ctxAt i
  .next (match c.stall with
    | some (.result w data) =>
      let c := { c with stall := none, effects := c.effects || (w.eff && !(w.ans == Answer.sent true && !data.isEmpty)) }
      let c :=
        match w.ans with
        | .scalar n signed => c.dst .variable_ .g w.d (ofWord (extend signed n (natOfBytes (data.take n))))
        | .sent true => c.dst .variable_ .p w.d (ofMask (if data.isEmpty then 0xFFFF else 0))
        | .sent false => c
        | .nothing => c
        | .element => c
        | .progress _ => c
      s.setCtxAt i (c.complete s.clock w.h w.len)
    | _ => s)

/-- PRI_RESPONSE (R149): to page request `sub` of the host port. Success has the address translated again; anything else faults
HOST_TRANSLATION. -/
def execPriResponse (s : State) : Host.Outcome State Fault Refusal :=
  let p := s.port 8
  .next (match p.reqs.find? fun r => r.id == s.ev.sub with
    | none => s
    | some r =>
      if !p.hears ∨ r.op ≠ .read 0 then s
      else
        let s1 := s.setPort 8 { p with reqs := List.filter (fun r => r.id != s.ev.sub) p.reqs }
        if !s.ev.flag then s1.failPri r 0x04A
        else
          let s2 : State := { s1 with pris := List.filter (fun x => !(x.req == r.id && x.failed.isNone)) s1.pris }
          match r.src with
          | .event _ _ => s2
          | .ctx i =>
            let c := s.ctxAt i
            match c.stall with
            | some (.pri req _) => if req = r.id then s2.setCtxAt i { c with stall := none, notBefore := s.clock + 1 } else s2
            | _ => s2)

/-- ATS_INVALIDATE (R149): `num` pages from the untranslated address `sub` on, of space `unit`, in every cache that holds them; it comes
by the host port, which must carry traffic (R158, R165). -/
def execAtsInvalidate (s : State) : Host.Outcome State Fault Refusal :=
  let p0 := s.ev.sub / 4096
  .next (if !(s.port 8).hears then s
    else { s with ats := List.filter (fun e =>
      !((e.sid == s.ev.unit || !Config.hostPasid) && decide (p0 ≤ e.page) && decide (e.page < p0 + s.ev.num))) s.ats })

/-! ### Engine reads and writes -/

/-- The requests that reach bytes beyond a port: each of consecutive bytes of one 256-byte block, at most 256 (R160), by port, address and
length. -/
def awayRuns : List Spot → List (Nat × Nat × Nat)
  | [] => []
  | .here _ :: l => awayRuns l
  | .away port a :: l =>
    match awayRuns l with
    | [] => [(port, a, 1)]
    | (p, b, n) :: r => if p = port ∧ b = a + 1 ∧ b / 256 = a / 256 then (port, a, n + 1) :: r else (port, a, 1) :: (p, b, n) :: r

/-- Reads beyond the ports, one after the other. -/
def State.readRuns (s : State) (k : Kind) : List (Nat × Nat × Nat) → State × Except Stop (List Byte)
  | [] => (s, .ok [])
  | (port, a, n) :: l =>
    match s.asking k port a (.read n) with
    | (s', .error e) => (s', .error e)
    | (s', .ok data) =>
      match s'.readRuns k l with
      | (t, .error e) => (t, .error e)
      | (t, .ok more) => (t, .ok ((List.range n).map (fun i => data.getD i 0) ++ more))

/-- Writes beyond the ports, one after the other. -/
def State.writeRuns (s : State) (k : Kind) (bytes : List Byte) : List (Nat × Nat × Nat) → State × Except Stop Unit
  | [] => (s, .ok ())
  | (port, a, n) :: l =>
    match s.asking k port a (.write (bytes.take n)) with
    | (s', .error e) => (s', .error e)
    | (s', .ok _) => s'.writeRuns k (bytes.drop n) l

/-- The bytes of spots in the package. -/
def State.spotBytes (s : State) (l : List Spot) : List Byte :=
  l.filterMap fun x => match x with
    | .here pa => some (s.readByte pa)
    | .away _ _ => none

/-- A read of `n` bytes by a unit of a die. Poison is UNCORRECTABLE_ECC (R224). -/
def State.exRead (s : State) (d va n : Nat) : State × Except Stop (List Byte) :=
  match s.spots d .engineRead va n with
  | .error e => (s, .error e)
  | .ok l =>
    match s.spotPoison l with
    | some _ => (s, engFault .engineRead 0x160 (va / 8 * 8))
    | none => if (portOf l).isSome then s.readRuns .engineRead (awayRuns l) else (s, .ok (s.spotBytes l))

/-- Physical writes of the bytes that stay in the package. -/
def hereWrites : List (Spot × Byte) → List (Nat × Byte)
  | [] => []
  | (.here pa, b) :: l => (pa, b) :: hereWrites l
  | (.away _ _, _) :: l => hereWrites l

/-- A write by a unit of a die. -/
def State.exWrite (s : State) (d va : Nat) (bytes : List Byte) : State × Except Stop Unit :=
  match s.spots d .engineWrite va bytes.length with
  | .error e => (s, .error e)
  | .ok l =>
    if (portOf l).isSome then s.writeRuns .engineWrite bytes (awayRuns l)
    else (s.writeAt (hereWrites (l.zip bytes)), .ok ())

/-- The status word of a cause (R361): DONE, INDET and CAUSE. -/
def causeStatus (k : Cause) : Word :=
  bitAt 63 true ||| bitAt 61 k.indet ||| at_ 23 (k.code % 512)

/-! ### Requests from outside (R160, R161, R165, R201) -/

/-- Statuses of an answer: performed or accepted, busy, error, unsupported request (R160). -/
def aOK : Nat := 0
def aBUSY : Nat := 1
def aERROR : Nat := 2
def aUNSUP : Nat := 3

/-- An answer leaves through a port. -/
def State.reply (s : State) (port status : Nat) (data : List Byte) : State :=
  { s with out := s.out ++ [.answer port status data] }

/-- A message that a peer writes (R161): its header and payload at the range of a core. -/
def peerMessage (core : Nat) (data : List Byte) : Option Msg :=
  let w0 := wordOfBytes (data.take 8)
  let w1 := wordOfBytes ((data.drop 8).take 8)
  let m : Msg := { w0, w1 := setField w1 63 51 core, payload := data.drop 16 }
  if data.length < 16 ∨ 272 < data.length ∨ m.len ≠ m.payload.length then none else some m

/-- Bytes of what a request asks for. -/
def opBytes : ExtOp → List Byte
  | .write data => data
  | .message m => bytesOfWord m.w0 ++ bytesOfWord m.w1 ++ m.payload
  | .read _ => []
  | .atomic _ _ _ _ => []

/-- A device message of a peer (R161 step 1). A core of another die that has stopped answers nothing (R226). -/
def State.deviceMessage (s : State) (port off : Nat) (op : ExtOp) : State :=
  let core := (off - 0xFF00000000) / 512
  if off % 512 ≠ 0 ∨ !s.coreMapped core ∨ (coreDie core ≠ portDie port ∧ (s.die (coreDie core)).stopped) then s.reply port aERROR []
  else
    match peerMessage core (opBytes op) with
    | none => s.reply port aERROR []
    | some m =>
      match s.accept m with
      | some s' => s'.reply port aOK []
      | none => s.reply port aBUSY []

/-- Whether an atomic has a number that the list of R160 lacks. -/
def atomicUnlisted : ExtOp → Bool
  | .atomic op _ _ _ => (Amo.ofNum op).isNone
  | .read _ => false
  | .write _ => false
  | .message _ => false

/-- Whether a UALink transaction is one that R160 lists: 1 to 256 bytes that cross no 256-byte boundary of its address, or an atomic
with a number of the list. -/
def ualinkOk (addr : Nat) (op : ExtOp) : Bool :=
  let sized (n : Nat) : Bool := decide (1 ≤ n) && decide (n ≤ 256) && decide (addr / 256 = (addr + n - 1) / 256)
  match op with
  | .read n => sized n
  | .write data => sized data.length
  | .atomic op _ _ _ => (Amo.ofNum op).isSome
  | .message _ => false

/-- A translated access of a device (R161 step 2, R165, R201): the state with its answer, or why it must wait. -/
def State.deviceAccess (s : State) (port va : Nat) (op : ExtOp) : State ⊕ Stop :=
  let d := portDie port
  let fail (s : State) (e : Stop) : State ⊕ Stop := if e.waits then .inr e else .inl (s.reply port aERROR [])
  match op with
  | .read n =>
    match s.exRead d va n with
    | (s', .error e) => fail s' e
    | (s', .ok data) => .inl (s'.reply port aOK data)
  | .write data =>
    match s.exWrite d va data with
    | (s', .error e) => fail s' e
    | (s', .ok ()) => .inl (s'.reply port aOK [])
  | .atomic op dbl b c =>
    let n := if dbl then 8 else 4
    match Amo.ofNum op with
    | none => .inl (s.reply port aERROR [])
    | some a =>
      if va % n ≠ 0 ∨ 8 ≤ port then .inl (s.reply port aERROR [])
      else
        match s.spots d .atomic va n with
        | .error e => fail s e
        | .ok l =>
          if (s.spotPoison l).isSome ∨ (portOf l).isSome then .inl (s.reply port aERROR [])
          else
            let old := s.spotBytes l
            let r := a.apply .rne n (wordOfBytes old) b c
            let s := match r.1 with
              | some v => s.writeAt (hereWrites (l.zip (bytesOfNat n v.toNat)))
              | none => s
            .inl (s.reply port aOK old)
  | .message _ => .inl (s.reply port aERROR [])

/-- INCOMING_REQUEST (R161): discarded where the port carries no traffic; one that R160 does not list is answered as unsupported. -/
def execIncomingRequest (s : State) : Host.Outcome State Fault Refusal :=
  let n := s.ev.unit
  let p := s.port n
  let off := s.ev.req.addr % 2 ^ 40
  .next (if 8 ≤ n ∨ !p.hears then s
    else if atomicUnlisted s.ev.req.op then s.reply n aUNSUP []
    else if 0xFF00000000 ≤ off then s.deviceMessage n off s.ev.req.op
    else if !ualinkOk off s.ev.req.op then s.reply n aUNSUP []
    else if p.inLim.toNat ≤ off then s.reply n aERROR []
    else
      match s.deviceAccess n (p.inBase.toNat + off) s.ev.req.op with
      | .inl s' => s'
      | .inr e => s.awaitStop .incomingRequest (portDie n) e)

/-- The next of the requests that wait at a PCIe port is tried. -/
def State.retryNext (s : State) (port : Nat) (row : Instr) : State :=
  match (s.port port).waiting with
  | (_, req) :: _ => s.nextCycle row { unit := port, flag := true, req }
  | [] => s

/-- A request of the host or of storage, in order (R201): one behind a request that waits waits too; `flag` says that the event
tries the first of those that wait. A storage access that still waits at the port's timeout ends in error (R162). -/
def State.pcieRequest (s : State) (port : Nat) (row : Instr) : State :=
  let p := s.port port
  let req := s.ev.req
  if !p.hears then s.setPort port { p with waiting := [] }
  else if !s.ev.flag ∧ p.waiting ≠ [] then s.setPort port { p with waiting := p.waiting ++ [(s.clock, req)] }
  else if s.ev.flag ∧ (p.waiting.map fun x => x.2).head? ≠ some req then s
  else
    let since := if s.ev.flag then ((p.waiting.map fun x => x.1).head?).getD s.clock else s.clock
    match s.deviceAccess port req.addr req.op with
    | .inl s' =>
      if s.ev.flag then (s'.modPort port fun p => { p with waiting := p.waiting.drop 1 }).retryNext port row else s'
    | .inr e =>
      if port = 9 ∧ since + p.tmoCycles ≤ s.clock then (s.setPort port { p with waiting := [] }).portTimeout port
      else
        let ev : Ev := { unit := port, flag := true, req }
        let s' : State := { s with ev, asker := .event row ev }
        (if s.ev.flag then s' else s'.setPort port { p with waiting := [(s.clock, req)] }).awaitStop row (portDie port) e

/-- HOST_REQUEST (R201): a plain access in the space of the endpoint's die (DEDUCED, log entry 30). -/
def execHostRequest (s : State) : Host.Outcome State Fault Refusal :=
  .next (s.pcieRequest 8 .hostRequest)

/-- STORAGE_DMA (R165): a virtual address in the storage port's space. -/
def execStorageDma (s : State) : Host.Outcome State Fault Refusal :=
  .next (s.pcieRequest 9 .storageDma)

end Sys2Proof.Machine
end

