-- ==== Sys2Proof/Machine/Engine.lean ====
section
/-!
DEFINITION. Sys2Proof/Machine/Engine.lean: the matrix engine with its rings and jobs (R362 to R367), copies (R368 to R371),
halo exchange (R373) and the fabric engine (R374), with their events (R361).
-/

namespace Sys2Proof.Machine

open Sys2Proof

def cECAP : Nat := 0x100
def cEFORM : Nat := 0x101
def cRING : Nat := 0x102
def cJOBID : Nat := 0x103

/-! ### Rings (R362, R363) -/

/-- Fields of a ring descriptor. -/
def Ring.tileBytes (r : Ring) : Nat := 2 ^ (field (r.desc.zeroExtend 64) 31 29 + 9)
def Ring.tiles (r : Ring) : Nat := field (r.desc.zeroExtend 64) 28 24 + 1
def Ring.off (r : Ring) : Nat := field (r.desc.zeroExtend 64) 19 6 * 64
def Ring.v (r : Ring) : Bool := r.desc.getLsbD 0

/-- A ring of an engine. -/
def Engine.ring (e : Engine) (n : Nat) : Ring := e.rings.get {} n

def Engine.setRing (e : Engine) (n : Nat) (r : Ring) : Engine := { e with rings := e.rings.put n r }

/-- The side of the accumulator of an engine (R366). -/
def accDim (n : Nat) : Nat := if isM (n / 128) then 32 else 128

/-- Rings of a job (R364). -/
def jobRA (w0 : Word) : Nat := field w0 21 17
def jobRB (w0 : Word) : Nat := field w0 16 12

/-- The first word of a command. -/
def EngCmd.w (c : EngCmd) (i : Nat) : Word := c.words.getD i 0

/-- Whether a command is a job that names a ring. -/
def EngCmd.names (c : EngCmd) (r : Nat) : Bool :=
  c.kind == .job && (jobRA (c.w 0) == r || jobRB (c.w 0) == r)

def execMrset (h : Hdr) (r : BitVec 2) (imm : BitVec 32) (s : State) : Res :=
  .next (s.guarded h twoWord none [] fun s =>
    let n := coreEngine s.cur.core
    let ring := 4 * (s.cur.core % 8) + r.toNat
    let x : Ring := { desc := imm }
    let w : Word := imm.zeroExtend 64
    if field w 23 20 ≠ 0 ∨ field w 5 1 ≠ 0 ∨ spadBytes (coreDie s.cur.core) < x.off + x.tiles * x.tileBytes then
      s.trapCode cEFORM
    else if (s.engine n).queue.any (·.names ring) then s.trapCode cRING
    else (s.modEngine n fun e => e.setRing ring x).done h twoWord id)

/-- Tile pairs that are there for a job. -/
def Engine.pairs (e : Engine) (w0 : Word) : Nat :=
  min (field w0 63 56) (min (e.ring (jobRA w0)).count (e.ring (jobRB w0)).count)

/-- A tile was pushed into a ring: a running job goes on. Where it is the tile the job lacked, the job reaches a later one and its
wait begins anew (R366). -/
def State.pushTile (s : State) (n ring : Nat) (r : Ring) : State :=
  let e := s.engine n
  let e' := e.setRing ring r
  match e.queue with
  | [] => s.setEngine n e'
  | c :: l =>
    if c.started ∧ c.kind = .job ∧ e.pairs (c.w 0) < e'.pairs (c.w 0) then
      ((s.setEngine n { e' with queue := { c with since := s.clock } :: l }).later .matrixJobDone { unit := n }).schedule
        (s.clock + 2 ^ 20) .ringTileTimeout { unit := n }
    else s.setEngine n e'

def execMrpush (h : Hdr) (d a : Fld) (s : State) : Res :=
  .next (s.guarded h oneWord (some (.p, d)) [gs a] fun s =>
    let n := coreEngine s.cur.core
    let i := field (s.ctx.srcG a) 4 0
    let r := (s.engine n).ring i
    if !r.v then s.trapCode cRING
    else if r.count = r.tiles then s.done h oneWord (·.dst .variable_ .p d (ofMask 0))
    else
      (s.pushTile n i { r with tail := (r.tail + 1) % r.tiles, count := r.count + 1 }).done h oneWord fun c => { c with effects := true }.dst .variable_ .p d (ofMask 0xFFFF))

def execMrhead (h : Hdr) (d a : Fld) (s : State) : Res :=
  .next (s.guarded h oneWord (some (.g, d)) [gs a] fun s =>
    let r := (s.engine (coreEngine s.cur.core)).ring (field (s.ctx.srcG a) 4 0)
    if !r.v then s.trapCode cRING
    else
      let x : Word := at_ 24 r.tiles ||| at_ 16 r.count ||| at_ 8 r.tail ||| at_ 0 r.head
      s.done h oneWord (·.dst .variable_ .g d (ofWord x)))

/-! ### Job commands (R364, R365) -/

/-- Whether a format is one of the engine's operands (R29). -/
def engFmt (f : BitVec 5) : Bool :=
  (1 ≤ f.toNat && f.toNat ≤ 7) || (9 ≤ f.toNat && f.toNat ≤ 15) || fmt16 f

/-- Formats of a job. -/
def jobFmtA (w0 : Word) : BitVec 5 := w0.extractLsb' 27 5
def jobFmtB (w0 : Word) : BitVec 5 := w0.extractLsb' 22 5
def jobM (w0 : Word) : Nat := field w0 47 40 + 1
def jobN (w0 : Word) : Nat := field w0 39 32 + 1
def jobNk (w0 : Word) : Nat := field w0 63 56
def jobOut (w0 : Word) : Bool := w0.getLsbD 9
def jobEvt (w1 : Word) : Bool := w1.getLsbD 63

/-- KT of a job for a ring: whole tiles of M (or N) rows of elements; 0 where it is not whole. -/
def ktOf (r : Ring) (rows esz : Nat) : Nat :=
  if r.tileBytes % (rows * esz) = 0 then r.tileBytes / (rows * esz) else 0

/-- The rules of R364 that concern the words alone. -/
def jobWordsOk (dim : Nat) (w : List Word) : Bool :=
  let w0 := w.getD 0 0
  let w1 := w.getD 1 0
  let w2 := w.getD 2 0
  let w3 := w.getD 3 0
  jobNk w0 != 0 && field w0 55 48 == 0 && field w0 8 0 == 0 && engFmt (jobFmtA w0) && engFmt (jobFmtB w0)
    && fmtBytes (jobFmtA w0) == fmtBytes (jobFmtB w0) && field w0 11 10 < 2
    && field w1 62 44 == 0 && field w1 31 13 == 0 && w3 == 0
    && (if jobOut w0 then
          (engFmt (w2.extractLsb' 59 5) || w2.extractLsb' 59 5 == 0x10) && field w2 57 55 < 4 && field w2 54 52 == 0
        else w2 == 0)
    && decide (jobM w0 ≤ dim) && decide (jobN w0 ≤ dim)

/-- The rules of R364 that concern the rings that are set. -/
def jobTilesOk (e : Engine) (w0 : Word) : Bool :=
  let a := e.ring (jobRA w0)
  let b := e.ring (jobRB w0)
  let esz := fmtBytes (jobFmtA w0)
  let ka := ktOf a (jobM w0) esz
  let kb := ktOf b (jobN w0) esz
  (!a.v || (decide (jobNk w0 ≤ a.tiles) && ka != 0)) && (!b.v || (decide (jobNk w0 ≤ b.tiles) && kb != 0))
    && (!a.v || !b.v || ka == kb)

/-- The cause of a job command, if any (R364). -/
def jobTrap (n : Nat) (e : Engine) (w : List Word) : Option Nat :=
  let w0 := w.getD 0 0
  if !jobWordsOk (accDim n) w ∨ !jobTilesOk e w0 then some cEFORM
  else if !(e.ring (jobRA w0)).v ∨ !(e.ring (jobRB w0)).v then some cRING
  else none

/-- The words with an address in LWn replaced (R52). -/
def jobReplaced (core : Nat) (w : List Word) : List Word :=
  w.set 2 (setField (w.getD 2 0) 51 0 (ownAddr core (field (w.getD 2 0) 51 0)))

/-- A command enters the engine's queue; the answer is its id (R365). -/
def State.pushEngine (s : State) (n : Nat) (kind : EngKind) (words : List Word) (src : CtxId) (inf remote : Bool) :
    State × Nat :=
  let e := s.engine n
  let id := e.lastId % 65535 + 1
  let c : EngCmd :=
    { kind, words, cmd := 0, id, src, inf, remote, started := false, since := s.clock, flags := 0, fault := 0 }
  (s.setEngine n { e with queue := e.queue ++ [c], lastId := id }, id)

/-- Whether the engine queue and the context have room (R365). -/
def State.engineRoom (s : State) : Bool :=
  s.queueRoom (coreEngine s.cur.core) && decide (s.ctx.jobs.length < 8)

/-- The quad of words of a command. -/
def Context.quad (c : Context) (a : Fld) : List Word :=
  [c.runG a 0, c.runG a 1, c.runG a 2, c.runG a 3]

/-- The fields of a quad. -/
def quadFlds (a : Fld) : List (Cls × Fld) :=
  [gs a, gs (a + 1), gs (a + 2), gs (a + 3)]

/-- MJOB and MJOBNB: `full` is what they do without room. -/
def State.pushJob (s : State) (a : Fld) (full : State) (taken : State → Nat → State) : State :=
  let n := coreEngine s.cur.core
  let w := s.ctx.quad a
  match jobTrap n (s.engine n) w with
  | some code => s.trap { code }
  | none =>
    if !s.engineRoom then full
    else
      let r := s.pushEngine n .job (jobReplaced s.cur.core w) s.cur s.ctx.inf false
      let s' := if jobEvt (w.getD 1 0) then r.1 else r.1.modCtx fun c => { c with jobs := c.jobs ++ [r.2] }
      taken s' r.2

def execMjob (h : Hdr) (d a : Fld) (s : State) : Res :=
  .next (s.guarded h oneWord (some (.g, d)) (quadFlds a) fun s =>
    if s.isHandler s.cur then s.trapCode cBLOCKING
    else
      s.pushJob a s.stalledFull fun s id => s.done h oneWord (·.dst .variable_ .g d (ofWord (BitVec.ofNat 64 id))))

def execMjobnb (h : Hdr) (d a b : Fld) (s : State) : Res :=
  .next (s.guarded h oneWord (some (.g, d)) (quadFlds a) fun s =>
    let fin (s : State) (id : Nat) (m : Mask) : State :=
      s.done h oneWord fun c => (c.dst .variable_ .g d (ofWord (BitVec.ofNat 64 id))).dstNoEntry .variable_ .p b (ofMask m)
    s.pushJob a (fin s 0 0) fun s id => fin s id 0xFFFF)

/-- MACLD and MACST (R367). -/
def State.pushAcc (s : State) (h : Hdr) (d a b : Fld) (kind : EngKind) : State :=
  s.guarded h oneWord (some (.g, d)) [gs a, gs b] fun s =>
    let n := coreEngine s.cur.core
    let va := s.ctx.srcG a
    let dims := s.ctx.srcG b
    if va.toNat % 4 ≠ 0 then s.trap { code := 0x04C, acc := 8, addr := va }
    else if accDim n ≤ field dims 15 8 ∨ accDim n ≤ field dims 7 0 then s.trapCode cEFORM
    else if !s.engineRoom then s.done h oneWord (·.dst .variable_ .g d 0)
    else
      let r := s.pushEngine n kind [BitVec.ofNat 64 (ownAddr s.cur.core va.toNat), dims] s.cur s.ctx.inf false
      r.1.done h oneWord fun c =>
        { c with jobs := c.jobs ++ [r.2] }.dst .variable_ .g d (ofWord (BitVec.ofNat 64 r.2))

def execMacld (h : Hdr) (d a b : Fld) (s : State) : Res :=
  .next (s.pushAcc h d a b .accLoad)

def execMacst (h : Hdr) (d a b : Fld) (s : State) : Res :=
  .next (s.pushAcc h d a b .accStore)

/-- MCMD (R365): one attempt. Its own causes come first, then those of R364, on the rings of the target (DEDUCED, log entry 31). -/
def execMcmd (h : Hdr) (d a b : Fld) (cap : BitVec 5) (s : State) : Res :=
  .next (s.guarded h twoWord (some (.p, d)) (quadFlds a ++ [gs b]) fun s =>
    let w := s.ctx.quad a
    let id := field (s.ctx.srcG b) 12 0
    let n := coreEngine id
    let capw := s.me.caps.get 0 cap.toNat
    if !coreExists id then s.trapCode cMFORM
    else if !jobEvt (w.getD 1 0) then s.trapCode cEFORM
    else if capw = 0 then s.trapCode cCAPEMPTY
    else if s.answersNot (n / 128) then s.trapCode 0x163
    else
      match jobTrap n (s.engine n) w with
      | some code => s.trapCode code
      | none =>
        if s.queueRoom n then
          let m : McmdMsg := { words := jobReplaced s.cur.core w, cmd := s.ctx.srcG b, cap := capw, src := s.cur, inf := s.ctx.inf }
          (s.later .mcmdArrival { unit := n, mcmd := m }).done h twoWord (·.dst .variable_ .p d (ofMask 0xFFFF))
        else s.done h twoWord (·.dst .variable_ .p d (ofMask 0)))

/-! ### Polling and waiting (R367) -/

/-- The status of a held job, with its id released. -/
def State.takeJob (s : State) (id : Nat) : Option (State × Word) :=
  let n := coreEngine s.cur.core
  match (s.engine n).done.find? id with
  | none => none
  | some x =>
    some ((s.modEngine n fun e => { e with done := e.done.erase id }).modCtx fun c =>
      { c with jobs := List.filter (· != id) c.jobs }, x)

def execMpoll (h : Hdr) (d a b : Fld) (s : State) : Res :=
  .next (s.guarded h oneWord (some (.g, d)) [gs a] fun s =>
    let id := field (s.ctx.srcG a) 15 0
    let fin (s : State) (x : Word) (m : Mask) : State :=
      s.done h oneWord fun c => (c.dst .variable_ .g d (ofWord x)).dstNoEntry .variable_ .p b (ofMask m)
    if !s.ctx.jobs.contains id then s.trapCode cJOBID
    else
      match s.takeJob id with
      | some (s, x) => fin s x 0xFFFF
      | none => fin s 0 0)

def execMwait (h : Hdr) (d a : Fld) (s : State) : Res :=
  .next (s.guarded h oneWord (some (.g, d)) [gs a] fun s =>
    let id := field (s.ctx.srcG a) 15 0
    if !s.ctx.jobs.contains id then s.trapCode cJOBID
    else
      match s.takeJob id with
      | some (s, x) => s.done h oneWord (·.dst .variable_ .g d (ofWord x))
      | none => s.waitOn h (.job id d))

/-! ### Running commands (R366) -/

/-- The status word of a completion (R361). -/
def doneStatus (cause : Nat) (flags : Flags) : Word :=
  bitAt 63 true ||| at_ 23 (cause % 512) ||| at_ 0 flags.toNat

/-- The cause of a stop as a status carries it; a stop that is no trap ends when it can, and carries none. -/
def stopCause : Stop → Cause
  | .trap k => k
  | .ship _ k => k
  | .hold _ => { code := 0 }
  | .claim _ _ _ => { code := 0 }
  | .ats _ _ => { code := 0x04A }
  | .ask _ _ _ => { code := 0 }

/-- Gust tokens of a die (R403). -/
def State.tokensOf (s : State) (d : Nat) : Nat :=
  (s.die d).tokens.getD (if isM d then 128 else 56)

/-- Whether a command needs a gust token: the ones with a MAC phase. -/
def EngKind.macs : EngKind → Bool
  | .job => true
  | .matmul => true
  | .accLoad => false
  | .accStore => false

/-- MATRIX_JOB_START (R366): the head of the queue starts, with a gust token where it has a MAC phase. -/
def execMatrixJobStart (s : State) : Res :=
  let n := s.ev.unit
  let e := s.engine n
  let d := n / 128
  .next (match e.queue with
    | [] => s
    | c :: l =>
      if c.started then s
      else if c.kind.macs ∧ s.tokensOf d ≤ (s.die d).tokHeld then s
      else
        let s := s.setEngine n { e with queue := { c with started := true, since := s.clock } :: l, gust := c.kind.macs }
        let s := if c.kind.macs then s.modDie d fun x => { x with tokHeld := x.tokHeld + 1 } else s
        if c.kind = .matmul then s.later .matmulEvalDone (evCtx c.src)
        else
          let s := s.later .matrixJobDone { unit := n }
          if c.kind = .job then s.schedule (s.clock + 2 ^ 20) .ringTileTimeout { unit := n } else s)

/-- The head of the queue leaves it and its token returns (R366, R403). -/
def State.retireHead (s : State) (n : Nat) : State :=
  let e := s.engine n
  let s' := s.setEngine n { e with queue := e.queue.drop 1, gust := false }
  if e.gust then s'.modDie (n / 128) fun x => { x with tokHeld := x.tokHeld - 1 } else s'

/-- The completion of a command: the event, or the status for the context that holds its id (R361, R367). -/
def State.jobCompleted (s : State) (n : Nat) (c : EngCmd) (status : Word) : State :=
  let w1 := c.w 1
  if c.kind = .job ∧ jobEvt w1 then s.post (eventMsg (field w1 43 32) (field w1 12 0) c.src c.inf c.id status false)
  else if (s.ctxAt c.src).jobs.contains c.id then
    let s := s.modEngine n fun e => { e with done := e.done.put c.id status }
    match (s.ctxAt c.src).wait with
    | some { kind := .job id _, .. } => if id = c.id then s.sendWake c.src else s
    | _ => s
  else s

/-- The bytes of one element of a ring tile: tile `t` counted from HEAD, element `i` of `esz` bytes. -/
def State.ringCode (s : State) (n ring : Nat) (r : Ring) (esz t i : Nat) : Nat :=
  natOfBytes (s.readBytes (spadBase (n * 8 + ring / 4) + r.off + (r.head + t) % r.tiles * r.tileBytes + i * esz) esz)

/-- Whether one of the first `nk` tiles of a ring holds poison. -/
def State.ringPoison (s : State) (n ring : Nat) (r : Ring) (nk : Nat) : Bool :=
  (List.range nk).any fun t =>
    (List.range (r.tileBytes / 8)).any fun i =>
      s.poisoned (spadBase (n * 8 + ring / 4) + r.off + (r.head + t) % r.tiles * r.tileBytes + 8 * i)

/-- The cause that ends a job over `nk` tiles of a ring before it accumulates: its core is not mapped, so that its scratchpad is not there
(R18, R23), or a tile is poisoned (log entry 32). -/
def State.tileCause (s : State) (n ring : Nat) (r : Ring) (nk : Nat) : Option Nat :=
  if nk = 0 then none
  else if !s.coreMapped (n * 8 + ring / 4) then some 0x042
  else if s.ringPoison n ring r nk then some 0x160 else none

/-- The same for both rings of a job. -/
def State.jobCause (s : State) (n : Nat) (w0 : Word) (nk : Nat) : Option Nat :=
  let e := s.engine n
  match s.tileCause n (jobRA w0) (e.ring (jobRA w0)) nk with
  | some code => some code
  | none => s.tileCause n (jobRB w0) (e.ring (jobRB w0)) nk

/-- The accumulator element (m, n) after `groups` groups of a job over `nk` tile pairs (R46, R366). -/
def State.jobElem (s : State) (n : Nat) (c : EngCmd) (nk groups m j : Nat) : Word32 × Flags :=
  let e := s.engine n
  let w0 := c.w 0
  let a := e.ring (jobRA w0)
  let b := e.ring (jobRB w0)
  let esz := fmtBytes (jobFmtA w0)
  let kt := ktOf a (jobM w0) esz
  let x (k : Nat) : Num := elemNum (jobFmtA w0) c.inf (s.ringCode n (jobRA w0) a esz (k / kt) (m * kt + k % kt))
  let y (k : Nat) : Num := elemNum (jobFmtB w0) c.inf (s.ringCode n (jobRB w0) b esz (k / kt) (k % kt * jobN w0 + j))
  dotFrom x y (nk * kt) groups 0 (if field w0 11 10 = 1 then 0 else e.acc.get 0 (m * accDim n + j))

/-- Indices of the elements of an M × N block in row-major order. -/
def blockElems (m n : Nat) : List (Nat × Nat) :=
  (List.range m).flatMap fun i => (List.range n).map fun j => (i, j)

/-- Elements written one after the other from an address up; the first fault ends it. -/
def State.writeCodes (s : State) (d va n : Nat) : List Nat → State × Option Stop
  | [] => (s, none)
  | x :: l =>
    match s.exWrite d va (bytesOfNat n x) with
    | (s', .error e) => (s', some e)
    | (s', .ok ()) => s'.writeCodes d (va + n) n l

/-- Tiles popped from a ring. -/
def Engine.pop (e : Engine) (ring nk : Nat) : Engine :=
  let r := e.ring ring
  e.setRing ring { r with head := (r.head + nk) % r.tiles, count := r.count - nk }

/-- The tiles a job read leave both rings; one ring that is both is popped once. -/
def Engine.popJob (e : Engine) (w0 : Word) (nk : Nat) : Engine :=
  if jobRA w0 = jobRB w0 then e.pop (jobRA w0) nk else (e.pop (jobRA w0) nk).pop (jobRB w0) nk

/-- The accumulator after a job over `nk` pairs and `groups` groups, and the flags. -/
def State.accumulated (s : State) (n : Nat) (c : EngCmd) (nk groups : Nat) : FMap Word32 × Flags :=
  (blockElems (jobM (c.w 0)) (jobN (c.w 0))).foldl (fun acc (m, j) =>
    let r := s.jobElem n c nk groups m j
    (acc.1.set 0 (m * accDim n + j) r.1, acc.2 ||| r.2)) ((s.engine n).acc, 0)

/-- The rounding of a job's result (R364). -/
def jobMode (w2 : Word) : Mode := modeOf (w2.extractLsb' 55 2)

/-- A job retires with all its tiles there (R366). A tile that cannot be read ends it with its cause, nothing accumulated. -/
def State.jobRetire (s : State) (n : Nat) (c : EngCmd) : State :=
  let e := s.engine n
  let w0 := c.w 0
  let w2 := c.w 2
  let nk := jobNk w0
  let fin (s : State) (status : Word) : State :=
    ((s.modEngine n fun e => e.popJob w0 nk).retireHead n).jobCompleted n c status
  match s.jobCause n w0 nk with
  | some code => fin s (doneStatus code 0)
  | none =>
    let kt := ktOf (e.ring (jobRA w0)) (jobM w0) (fmtBytes (jobFmtA w0))
    let r := s.accumulated n c nk ((nk * kt + 31) / 32)
    let s1 := s.modEngine n fun e => { e with acc := r.1 }
    if !jobOut w0 then fin s1 (doneStatus 0 r.2)
    else
      let ofmt : BitVec 5 := w2.extractLsb' 59 5
      let codes := (blockElems (jobM w0) (jobN w0)).map fun (m, j) =>
        encodeElem ofmt c.inf (jobMode w2) (w2.getLsbD 58) (f32 (r.1.get 0 (m * accDim n + j)))
      let flags := codes.foldl (fun f x => f ||| x.2) r.2
      match s1.writeCodes (n / 128) (field w2 51 0) (fmtBytes ofmt) (codes.map (·.1)) with
      | (s2, none) => fin s2 (doneStatus 0 flags)
      | (s2, some e) =>
        if e.waits then s.awaitStop .matrixJobDone (n / 128) e
        else fin s2 (causeStatus (stopCause e) ||| at_ 0 flags.toNat)

/-- FP32 elements read from an address up. -/
def State.readCodes (s : State) (d va : Nat) : Nat → State × Except Stop (List Word32)
  | 0 => (s, .ok [])
  | n + 1 =>
    match s.exRead d va 4 with
    | (s', .error e) => (s', .error e)
    | (s', .ok bytes) =>
      match s'.readCodes d (va + 4) n with
      | (s'', .error e) => (s'', .error e)
      | (s'', .ok l) => (s'', .ok (BitVec.ofNat 32 (natOfBytes bytes) :: l))

/-- MACLD's and MACST's effect on the accumulator (R367). -/
def State.accMove (s : State) (n : Nat) (c : EngCmd) : State :=
  let va := (c.w 0).toNat
  let elems := blockElems (field (c.w 1) 15 8 + 1) (field (c.w 1) 7 0 + 1)
  let fin (s : State) (status : Word) : State := (s.retireHead n).jobCompleted n c status
  if c.kind = .accLoad then
    match s.readCodes (n / 128) va elems.length with
    | (s', .ok l) =>
      fin (s'.modEngine n fun e =>
        { e with acc := (elems.zip l).foldl (fun m (x : (Nat × Nat) × Word32) => m.set 0 (x.1.1 * accDim n + x.1.2) x.2) e.acc })
        (doneStatus 0 0)
    | (s', .error e) =>
      if e.waits then s.awaitStop .matrixJobDone (n / 128) e else fin s' (causeStatus (stopCause e))
  else
    let acc := (s.engine n).acc
    match s.writeCodes (n / 128) va 4 (elems.map fun x => (acc.get 0 (x.1 * accDim n + x.2)).toNat) with
    | (s', none) => fin s' (doneStatus 0 0)
    | (s', some e) =>
      if e.waits then s.awaitStop .matrixJobDone (n / 128) e else fin s' (causeStatus (stopCause e))

/-- MATRIX_JOB_DONE (R366): the running command of an engine retires, once its tiles are there. -/
def execMatrixJobDone (s : State) : Res :=
  let n := s.ev.unit
  let e := s.engine n
  .next (match e.queue with
    | [] => s
    | c :: _ =>
      if !c.started then s
      else
        match c.kind with
        | .matmul => s
        | .job => if e.pairs (c.w 0) = jobNk (c.w 0) then s.jobRetire n c else s
        | .accLoad => s.accMove n c
        | .accStore => s.accMove n c)

/-- RING_TILE_TIMEOUT (R366): the partial sums of the whole groups that are there stand, and the tiles read are popped; a tile that cannot
be read ends the job with its cause. -/
def execRingTileTimeout (s : State) : Res :=
  let n := s.ev.unit
  let e := s.engine n
  .next (match e.queue with
    | [] => s
    | c :: _ =>
      let w0 := c.w 0
      let nk := e.pairs w0
      if !c.started ∨ c.kind ≠ .job ∨ nk = jobNk w0 ∨ s.clock < c.since + 2 ^ 20 then s
      else if let some code := s.jobCause n w0 nk then
        ((s.modEngine n fun e => e.popJob w0 nk).retireHead n).jobCompleted n c (doneStatus code 0)
      else
        let kt := ktOf (e.ring (jobRA w0)) (jobM w0) (fmtBytes (jobFmtA w0))
        let r := s.accumulated n c nk (nk * kt / 32)
        ((s.modEngine n fun e => { e.popJob w0 nk with acc := r.1 }).retireHead n).jobCompleted n c
          (doneStatus cRING r.2))

/-- MCMD_ARRIVAL (R365): queued, or discarded with its event; so is one that the rings no longer fit (DEDUCED, log entry 31). -/
def execMcmdArrival (s : State) : Res :=
  let n := s.ev.unit
  let m := s.ev.mcmd
  let e := s.engine n
  .next (
    let id := e.lastId % 65535 + 1
    let discard (code : Nat) : State :=
      let w1 := m.words.getD 1 0
      (s.setEngine n { e with lastId := id }).post
        (eventMsg (field w1 43 32) (field w1 12 0) m.src m.inf id (doneStatus code 0) false)
    if m.cap ≠ e.mxcap then discard cECAP
    else
      match jobTrap n e m.words with
      | some code => discard code
      | none =>
        if 32 ≤ e.queue.length then s.nextCycle .mcmdArrival s.ev
        else (s.pushEngine n .job m.words m.src m.inf true).1)

/-- MATMUL_EVAL_DONE (R125): the engine has computed a thunk's product; the evaluation ends as any built-in one. -/
def execMatmulEvalDone (s : State) : Res :=
  let i := s.evId
  let n := coreEngine i.core
  .next (match (s.engine n).queue with
    | [] => s
    | c :: _ =>
      if c.kind ≠ .matmul ∨ !c.started ∨ c.src ≠ i then s
      else
        let s := s.retireHead n
        if (s.ctxAt i).stall = some .eval then s.evalEnd i else s)

/-! ### Copies (R368 to R371) -/

/-- Fields of a copy request. -/
def cpySfmt (w2 : Word) : BitVec 5 := w2.extractLsb' 59 5
def cpyDfmt (w2 : Word) : BitVec 5 := w2.extractLsb' 54 5
def cpyLen (w2 : Word) : Nat := field w2 31 0

/-- Whether a range fails step 1 or 2 of R49, or lies in the link window. -/
def rangeBad (va n : Nat) : Bool :=
  windowOf va == .none || windowOf (va + n - 1) != windowOf va || match windowOf va with
    | .link _ => true
    | .none => false
    | .local_ _ => false
    | .remote _ => false
    | .hbm => false
    | .heap => false
    | .host => false

/-- The rules of R368. -/
def copyFormOk (w : List Word) : Bool :=
  let w0 := w.getD 0 0
  let w1 := w.getD 1 0
  let w2 := w.getD 2 0
  let w3 := w.getD 3 0
  let sn := fmtBytes (cpySfmt w2)
  let dn := fmtBytes (cpyDfmt w2)
  field w0 63 52 == 0 && field w1 63 52 == 0 && field w2 49 32 == 0 && field w3 63 52 == 0 && field w3 5 3 == 0
    && fmtOk (cpySfmt w2) && fmtOk (cpyDfmt w2) && (cpySfmt w2 == 0) == (cpyDfmt w2 == 0) && field w2 53 51 < 5
    && cpyLen w2 != 0 && cpyLen w2 % sn == 0 && field w3 2 0 < 6
    && field w0 51 0 % sn == 0 && field w1 51 0 % dn == 0
    && !rangeBad (field w0 51 0) (cpyLen w2) && !rangeBad (field w1 51 0) (cpyLen w2 / sn * dn)

/-- The words as the push captures them: addresses replaced (R52), DYN resolved. -/
def Context.copyWords (c : Context) (core : Nat) (w : List Word) : List Word :=
  let w2 := w.getD 2 0
  let rep (x : Word) : Word := BitVec.ofNat 64 (ownAddr core (field x 51 0))
  [rep (w.getD 0 0), rep (w.getD 1 0), if field w2 53 51 = 4 then setField w2 53 51 c.rm.toNat else w2,
   setField (w.getD 3 0) 51 6 (ownAddr core (field (w.getD 3 0) 51 6 * 64) / 64)]

/-- Whether the copy FIFO of the issuing core has room (R370). -/
def State.fifoRoom (s : State) : Bool := decide (s.me.copies.length < 16)

def execCpy (h : Hdr) (d a : Fld) (s : State) : Res :=
  .next (s.guarded h oneWord (some (.g, d)) (quadFlds a) fun s =>
    let w := s.ctx.quad a
    if s.isHandler s.cur then s.trapCode cBLOCKING
    else if !copyFormOk w then s.trapCode cEFORM
    else if !s.fifoRoom then s.stalledFull
    else
      let r := s.pushCopy .cpy (s.ctx.copyWords s.cur.core w)
      r.1.done h oneWord (·.dst .variable_ .g d (ofWord r.2)))

def execCpynb (h : Hdr) (d a b : Fld) (s : State) : Res :=
  .next (s.guarded h oneWord (some (.g, d)) (quadFlds a) fun s =>
    let w := s.ctx.quad a
    let fin (s : State) (x : Word) (m : Mask) : State :=
      s.done h oneWord fun c => (c.dst .variable_ .g d (ofWord x)).dstNoEntry .variable_ .p b (ofMask m)
    if !copyFormOk w then s.trapCode cEFORM
    else if !s.fifoRoom then fin s 0 0
    else
      let r := s.pushCopy .cpy (s.ctx.copyWords s.cur.core w)
      fin r.1 r.2 0xFFFF)

/-- Whether a core may ask for a transfer: its own, among the last 32,767 issued (R371). -/
def State.xferOk (s : State) (id : Nat) : Bool :=
  let k := s.me
  let seq := id % 65536
  let age := (k.copySeq + 65535 - seq) % 65535
  id / 2 ^ 19 % 8192 == s.cur.core && seq != 0 && decide (age < min 32767 k.copySeq)

/-- The status of an event: none while it has not occurred, STALE where the table has lost it (R371). -/
def State.xferStatus (s : State) (id : Nat) : Option Word :=
  if s.me.copyLog.any fun t => t.id == id % 65536 then s.me.copyStatus id else some (bitAt 63 true ||| bitAt 62 true)

def execCppoll (h : Hdr) (d a b : Fld) (s : State) : Res :=
  .next (s.guarded h oneWord (some (.g, d)) [gs a] fun s =>
    let id := field (s.ctx.srcG a) 31 0
    let fin (x : Word) (m : Mask) : State :=
      s.done h oneWord fun c => (c.dst .variable_ .g d (ofWord x)).dstNoEntry .variable_ .p b (ofMask m)
    if !s.xferOk id then s.trapCode cJOBID
    else
      match s.xferStatus id with
      | some x => fin x 0xFFFF
      | none => fin 0 0)

def execCpwait (h : Hdr) (d a : Fld) (s : State) : Res :=
  .next (s.guarded h oneWord (some (.g, d)) [gs a] fun s =>
    let id := field (s.ctx.srcG a) 31 0
    if !s.xferOk id then s.trapCode cJOBID
    else
      match s.xferStatus id with
      | some x => s.done h oneWord (·.dst .variable_ .g d (ofWord x))
      | none => s.waitOn h (.copy id d))

/-- The head of a core's copy FIFO changed. -/
def State.setCopy (s : State) (core : Nat) (r : CopyReq) : State :=
  s.modCore core fun k => { k with copies := r :: k.copies.drop 1 }

/-- An event of a transfer occurs (R361, R369, R371): the status table, the message, the wakes of CPWAIT. -/
def State.copyEvent (s : State) (core : Nat) (r : CopyReq) (ev : Nat) : State :=
  let status := r.status ||| bitAt 63 true
  let s := s.modCore core fun k =>
    { k with copyLog := k.copyLog.map fun t =>
        if t.id = r.id then (if ev = 0 then { t with free := some status } else { t with vis := some status }) else t }
  let w := r.par.getD ev 0
  let s :=
    if w.getLsbD 63 then
      s.post (eventMsg (field w 43 32) (field w 12 0) { core, ctx := r.ctx } r.inf
        ((xferId core r.id).toNat + ev * 65536) status true)
    else s
  s.sendWakes ((ctxsOf core).filter fun i => match (s.ctxAt i).wait with
    | some { kind := .copy id _, .. } => id % 65536 == r.id && id / 65536 % 2 == ev
    | _ => false)

/-- COPY_START (R369): the parameter block is read once; a fault there ends the copy. -/
def execCopyStart (s : State) : Res :=
  let core := s.ev.unit
  .next (match (s.core core).copies with
    | [] => s
    | r :: _ =>
      if r.stage ≠ 0 then s
      else
        let pb := match r.kind with
          | .cpy => field (r.words.getD 3 0) 51 6 * 64
          | .halo => 0
          | .shuttle _ => 0
        let go (s : State) (r : CopyReq) : State :=
          (s.setCopy core { r with stage := 1 }).later .copySourceFree { unit := core }
        if pb = 0 then go s r
        else
          match s.exRead (coreDie core) pb 64 with
          | (s', .ok bytes) => go s' { r with par := [wordOfBytes (bytes.take 8), wordOfBytes ((bytes.drop 8).take 8)] }
          | (s', .error e) =>
            if e.waits then s.awaitStop .copyStart (coreDie core) e
            else go s' { r with status := causeStatus (stopCause e) })

/-- The conversion of one element of a copy (R42, R43, R368). -/
def copyCode (sf df : BitVec 5) (inf : Bool) (m : Mode) (sat : Bool) (x : Nat) : Nat × Flags :=
  if sf = df then (x, 0)
  else if df = 0x13 ∧ sf = 0x14 then (narrowInt sat (BitVec.ofNat 32 x), 0)
  else encodeElem df inf m sat (elemNum sf inf x)

/-- Elements copied in ascending order, each read before it is written (R368); the source is read in the space of die `sd`,
the destination written in the space of `dd`. What ends it comes with whether a write did. -/
def State.copyElems (s : State) (sd dd sn dn : Nat) (conv : Nat → Nat × Flags) : (n src dst : Nat) → Flags →
    State × Flags × Option (Stop × Bool)
  | 0, _, _, f => (s, f, none)
  | n + 1, src, dst, f =>
    match s.exRead sd src sn with
    | (s1, .error e) => (s1, f, some (e, false))
    | (s1, .ok bytes) =>
      let r := conv (natOfBytes bytes)
      match s1.exWrite dd dst (bytesOfNat dn r.1) with
      | (s2, .error e) => (s2, f ||| r.2, some (e, true))
      | (s2, .ok ()) => s2.copyElems sd dd sn dn conv n (src + sn) (dst + dn) (f ||| r.2)

/-- The core with the same number in the neighbouring cluster (R14, R373): direction 0 N, 1 E, 2 S, 3 W; none at an edge
without WRAP. -/
def neighbour (core dir : Nat) (wrap : Bool) : Option Nat :=
  let die := coreDie core
  let cols := dieCols die
  let rows := 8
  let row := coreCluster core / cols
  let col := coreCluster core % cols
  let at' (r c : Nat) : Option Nat := some (die * 1024 + (r * cols + c) * 8 + core % 8)
  if dir = 0 then (if row = 0 then (if wrap then at' (rows - 1) col else none) else at' (row - 1) col)
  else if dir = 1 then (if col + 1 = cols then (if wrap then at' row 0 else none) else at' row (col + 1))
  else if dir = 2 then (if row + 1 = rows then (if wrap then at' 0 col else none) else at' (row + 1) col)
  else (if col = 0 then (if wrap then at' row (cols - 1) else none) else at' row (col - 1))

/-- The runs of a HALO sent one after the other: how many, and the cause that ended it (R373). -/
def State.haloRuns (s : State) (core : Nat) (w : List Word) (seq : Nat) : List Nat → State × Nat × Nat
  | [] => (s, 0, 0)
  | dir :: l =>
    let w0 := w.getD 0 0
    if !w0.getLsbD dir then s.haloRuns core w seq l
    else
      match neighbour core dir (w0.getLsbD 4) with
      | none => s.haloRuns core w seq l
      | some to_ =>
        let n := field w0 31 16 * 16
        let src := field (w.getD 1 0) (16 * dir + 15) (16 * dir) * 16
        let dst := field (w.getD 2 0) (16 * dir + 15) (16 * dir) * 16
        if !s.coreMapped to_ then (s, 0, 0x042)
        else
          match s.padRead core src n with
          | .error e => (s, 0, (stopCause e).code)
          | .ok data =>
            let s := s.later .haloArrival
              { unit := to_, sub := (dir + 2) % 4, num := dst, data, w0 := BitVec.ofNat 64 core, w1 := BitVec.ofNat 64 seq }
            let r := s.haloRuns core w seq l
            (r.1, r.2.1 + 1, r.2.2)

/-- SOURCE_FREE, and VISIBLE later; a copy that must wait for a page issues its event again. -/
def State.sourceFree (s : State) (core : Nat) (r : CopyReq) (runs : Nat) : State :=
  let s := (s.setCopy core { r with stage := 2, runs }).copyEvent core r 0
  if runs = 0 then s.later .copyVisible { unit := core } else s

/-- COPY_SOURCE_FREE (R369, R370): the copy under way reads its source to the end. -/
def execCopySourceFree (s : State) : Res :=
  let core := s.ev.unit
  let d := coreDie core
  .next (match (s.core core).copies with
    | [] => s
    | r :: _ =>
      if r.stage ≠ 1 then s
      else if r.status ≠ 0 then s.sourceFree core r 0
      else
        match r.kind with
        | .halo =>
          let x := s.haloRuns core r.words r.id [0, 1, 2, 3]
          x.1.sourceFree core { r with status := if x.2.2 = 0 then 0 else doneStatus x.2.2 0 } x.2.1
        | .cpy =>
          let w2 := r.words.getD 2 0
          let sn := fmtBytes (cpySfmt w2)
          let conv := copyCode (cpySfmt w2) (cpyDfmt w2) r.inf (modeOf (w2.extractLsb' 51 2)) (w2.getLsbD 50)
          match s.copyElems d d sn (fmtBytes (cpyDfmt w2)) conv (cpyLen w2 / sn) (r.words.getD 0 0).toNat
              (r.words.getD 1 0).toNat 0 with
          | (s', f, none) => s'.sourceFree core { r with status := at_ 0 f.toNat } 0
          | (s', f, some (e, _)) =>
            if e.waits then s.awaitStop .copySourceFree d e
            else s'.sourceFree core { r with status := causeStatus (stopCause e) ||| at_ 0 f.toNat } 0
        | .shuttle _ =>
          match s.copyElems d (pairDie d) 1 1 (fun x => (x, 0)) (r.words.getD 2 0).toNat (r.words.getD 0 0).toNat
              (r.words.getD 1 0).toNat 0 with
          | (s', _, none) => s'.sourceFree core r 0
          | (s', _, some (e, _)) =>
            if e.waits then s.awaitStop .copySourceFree d e
            else s'.sourceFree core { r with status := causeStatus (stopCause e) } 0)

/-- COPY_VISIBLE (R369, R176): the copy leaves the FIFO; a shuttle slot is delivered, or held again after a fault. -/
def execCopyVisible (s : State) : Res :=
  let core := s.ev.unit
  let d := coreDie core
  .next (match (s.core core).copies with
    | [] => s
    | r :: l =>
      if r.stage ≠ 2 ∨ r.runs ≠ 0 then s
      else
        let s := (s.copyEvent core r 1).modCore core fun k => { k with copies := l }
        let s := if l = [] then s else s.later .copyStart { unit := core }
        match r.kind with
        | .cpy => s
        | .halo => s
        | .shuttle slot =>
          if r.status = 0 then s.later .shuttleDelivery { unit := d, sub := slot }
          else
            s.modDie d fun x =>
              { x with shtInfl := x.shtInfl.erase slot, shtHeld := x.shtHeld ||| BitVec.ofNat 8 (2 ^ slot) })

/-- SHUTTLE_DELIVERY (R176): the slot is Full at the pair die, which sends the delivery message. -/
def execShuttleDelivery (s : State) : Res :=
  let d := s.ev.unit
  let slot := s.ev.sub
  .next (match (s.die d).shtInfl.find? slot with
    | none => s
    | some x =>
      let evt := (s.die d).shtEvt
      let s := s.modDie d fun y => { y with shtInfl := y.shtInfl.erase slot }
      let s := s.modDie (pairDie d) fun y => { y with shtFull := y.shtFull ||| BitVec.ofNat 8 (2 ^ slot) }
      s.post (eventMsg (field evt 43 32) (field evt 12 0) { core := x.core, ctx := x.ctx } x.inf x.aux
        (at_ 0 slot ||| at_ 16 x.core ||| at_ 32 x.len) false))

/-! ### Halo exchange (R373) -/

/-- The rules of R373 for a HALO request of a core. -/
def haloFormOk (core : Nat) (w : List Word) : Bool :=
  let w0 := w.getD 0 0
  let n := field w0 31 16 * 16
  field w0 63 32 == 0 && field w0 15 5 == 0 && w.getD 3 0 == 0 && n != 0 && (List.range 4).all fun dir =>
    !w0.getLsbD dir ||
      (decide (field (w.getD 1 0) (16 * dir + 15) (16 * dir) * 16 + n ≤ spadBytes (coreDie core)) &&
       decide (field (w.getD 2 0) (16 * dir + 15) (16 * dir) * 16 + n ≤ spadBytes (coreDie core)))

def execHalo (h : Hdr) (d a : Fld) (s : State) : Res :=
  .next (s.guarded h oneWord (some (.g, d)) (quadFlds a) fun s =>
    let w := s.ctx.quad a
    if !haloFormOk s.cur.core w then s.trapCode cEFORM
    else if !s.fifoRoom then s.done h oneWord (·.dst .variable_ .g d 0)
    else
      let r := s.pushCopy .halo w
      r.1.done h oneWord (·.dst .variable_ .g d (ofWord r.2)))

/-- HALO_ARRIVAL (R373): the run is written at the receiver and its counter rises; `w0` and `w1` are the sender and its
transfer. -/
def execHaloArrival (s : State) : Res :=
  let core := s.ev.unit
  let side := s.ev.sub
  let from_ := s.ev.w0.toNat
  let s0 := s.writeBytes (spadBase core + s.ev.num) s.ev.data
  let s1 := s0.modCore core fun k => { k with haloCnt := k.haloCnt.put side (k.haloCnt.get 0 side + 1) }
  .next (match (s1.core from_).copies with
    | [] => s1
    | r :: _ =>
      if r.id ≠ s.ev.w1.toNat ∨ r.runs = 0 then s1
      else
        let s2 := s1.setCopy from_ { r with runs := r.runs - 1 }
        if r.runs = 1 then s2.later .copyVisible { unit := from_ } else s2)

def execHalocnt (h : Hdr) (d a : Fld) (s : State) : Res :=
  .next (s.guarded h oneWord (some (.g, d)) [gs a] fun s =>
    let k := s.me
    let x := s.ctx.srcG a
    let cnt (i : Nat) : BitVec 16 := k.haloCnt.get 0 i
    let w : Word := at_ 0 (cnt 0).toNat ||| at_ 16 (cnt 1).toNat ||| at_ 32 (cnt 2).toNat ||| at_ 48 (cnt 3).toNat
    let s := s.modMe fun k =>
      { k with haloCnt := (List.range 4).foldl (fun m i => m.put i (cnt i - x.extractLsb' (16 * i) 16)) k.haloCnt }
    s.done h oneWord (·.dst .variable_ .g d (ofWord w)))

/-! ### The fabric engine (R374, R166) -/

/-- Word `i` of a descriptor. -/
def descWord (bytes : List Byte) (i : Nat) : Word := wordOfBytes ((bytes.drop (8 * i)).take 8)

/-- The rules of R374 for a descriptor. -/
def fabFormOk (a2a : Bool) (bytes : List Byte) : Bool :=
  let w (i : Nat) : Word := descWord bytes i
  let n := field (w 2) 47 32
  field (w 0) 63 52 == 0 && field (w 2) 63 48 == 0 && field (w 2) 31 0 != 0
    && (if a2a then w 1 == 0 && w 3 == 0 && w 4 == 0 && 2 ≤ n && n ≤ 64 && field (w 0) 3 0 == 0
        else field (w 1) 63 52 == 0 && n != 0)
    && field (w 5) 62 59 == 0 && field (w 5) 58 56 < 6 && field (w 5) 55 44 == 0 && field (w 5) 31 13 == 0
    && field (w 6) 63 32 == 0

/-- FXFER and FXA2A: one attempt, which never stalls on a full queue. The descriptor is read at issue for its form, as a load is: a context
whose descriptor lies beyond a port awaits its bytes, and one whose descriptor's page migrates has its turn (DESIGN CHOICE, log entry
56). -/
def State.pushFabric (s : State) (h : Hdr) (a2a : Bool) (d a b : Fld) : State :=
  s.guarded h oneWord (some (.g, d)) [gs a] fun s =>
    let die := coreDie s.cur.core
    let desc := ownAddr s.cur.core (s.ctx.srcG a).toNat
    let fin (s : State) (x : Nat) (m : Mask) : State :=
      s.done h oneWord fun c => (c.dst .variable_ .g d (ofWord (BitVec.ofNat 64 x))).dstNoEntry .variable_ .p b (ofMask m)
    if desc % 64 ≠ 0 then s.trapCode cEFORM
    else
      let read : State × Except Stop (List Byte) := match s.ctx.replies with
        | r :: _ => (s, .ok r)
        | [] => s.exRead die desc 64
      match read with
      | (s', .error (.ats va write)) => (s'.askHostUnit die va write).again
      | (s', .error (.ask port addr op)) => s'.request port addr op { h, len := oneWord, d, acc := 8, ans := .element }
      | (s', .error e) => s'.halt 8 e
      | (s', .ok bytes) =>
        if !fabFormOk a2a bytes then s'.trapCode cEFORM
        else if 64 ≤ (s'.die die).fabQ.length then fin s' 0 0
        else
          let seq := (s'.die die).fabSeq % 65535 + 1
          let cmd : FabCmd := { desc, a2a, seq, src := s'.cur, inf := s'.ctx.inf }
          let idle := (s'.die die).fabQ.isEmpty
          let s' := s'.modDie die fun x => { x with fabQ := x.fabQ ++ [cmd], fabSeq := seq }
          let s' := if idle then s'.later .fabricCompletion { unit := die } else s'
          fin s' (die * 65536 + seq) 0xFFFF

def execFxfer (h : Hdr) (d a b : Fld) (s : State) : Res :=
  .next (s.pushFabric h false d a b)

def execFxa2a (h : Hdr) (d a b : Fld) (s : State) : Res :=
  .next (s.pushFabric h true d a b)

/-- An address with a signed stride added `n` times. -/
def strided (base : Nat) (stride : Word) (n : Nat) : Nat :=
  (BitVec.ofNat 64 base + stride * BitVec.ofNat 64 n).toNat

/-- The rows of an FXFER (R374) from its addresses (R52): the first fault ends it. -/
def State.fabRows (s : State) (die : Nat) (src dst : Nat) (ss ds : Word) (bytes : Nat) : List Nat → State × Option Stop
  | [] => (s, none)
  | r :: l =>
    match s.copyElems die die 1 1 (fun x => (x, 0)) bytes (strided src ss r) (strided dst ds r) 0 with
    | (s', _, some (e, _)) => (s', some e)
    | (s', _, none) => s'.fabRows die src dst ss ds bytes l

/-- The first party that failed, with its cause: the one with the lower number. -/
def firstParty (old : Option (Cause × Nat)) (k : Cause) (party : Nat) : Option (Cause × Nat) :=
  match old with
  | none => some (k, party)
  | some (_, p) => if party < p then some (k, party) else old

/-- The blocks of an FXA2A (R166): block j of party i goes to block i of party j. A block that fails is left, and the party whose
source or destination failed is named where it is the first; the rest are delivered. An access that must wait ends the attempt. -/
def State.fabBlocks (s : State) (die bytes : Nat) (party : Nat → Nat × Nat) (first : Option (Cause × Nat)) :
    List (Nat × Nat) → State × Option (Cause × Nat) × Option Stop
  | [] => (s, first, none)
  | (j, i) :: l =>
    match s.copyElems die die 1 1 (fun x => (x, 0)) bytes ((party i).1 + j * bytes) ((party j).2 + i * bytes) 0 with
    | (s', _, none) => s'.fabBlocks die bytes party first l
    | (s', _, some (e, w)) =>
      if e.waits then (s', first, some e)
      else s'.fabBlocks die bytes party (firstParty first (stopCause e) (if w then j else i)) l

/-- The end of a fabric command whose STAT is written: the event, the next command (R374; DEDUCED, log entry 28). -/
def State.fabEnd (s : State) (die : Nat) (c : FabCmd) (bytes : List Byte) (status : Word) : State :=
  let w5 := descWord bytes 5
  let s :=
    if w5.getLsbD 63 then
      s.post (eventMsg (field w5 43 32) (field w5 12 0) c.src c.inf (field (descWord bytes 6) 31 0) status false)
    else s
  let rest := (s.die die).fabQ.drop 1
  let s := s.modDie die fun x => { x with fabQ := rest }
  if rest = [] then s else s.later .fabricCompletion { unit := die }

/-- What a command that has been carried out (`s'`) comes to: STAT is written, and it ends; where that must wait, it is tried again
from the start. -/
def State.fabStat (s s' : State) (die : Nat) (c : FabCmd) (bytes : List Byte) (status : Word) : State :=
  match s'.exWrite die (c.desc + 56) (bytesOfWord status) with
  | (t, .ok ()) => t.fabEnd die c bytes status
  | (t, .error e) => if e.waits then s.awaitStop .fabricCompletion die e else t.fabEnd die c bytes status

/-- FABRIC_COMPLETION (R374): the oldest command of a die's queue, from reading its descriptor to its completion. -/
def execFabricCompletion (s : State) : Res :=
  let die := s.ev.unit
  .next (match (s.die die).fabQ with
    | [] => s
    | c :: _ =>
      let failed (s' : State) (bytes : List Byte) (e : Stop) : State :=
        if e.waits then s.awaitStop .fabricCompletion die e else s.fabStat s' die c bytes (causeStatus (stopCause e))
      match s.exRead die c.desc 64 with
      | (s1, .error e) => failed s1 [] e
      | (s1, .ok bytes) =>
        let w (i : Nat) : Word := descWord bytes i
        let n := field (w 2) 47 32
        let len := field (w 2) 31 0
        let core := c.src.core
        if !c.a2a then
          match s1.fabRows die (ownAddr core (field (w 0) 51 0)) (ownAddr core (field (w 1) 51 0)) (w 3) (w 4) len (List.range n)
            with
          | (s2, some e) => failed s2 bytes e
          | (s2, none) => s.fabStat s2 die c bytes (doneStatus 0 0)
        else
          match s1.exRead die (ownAddr core (field (w 0) 51 0)) (16 * n) with
          | (s2, .error e) => failed s2 bytes e
          | (s2, .ok list) =>
            let at' (i : Nat) : Nat := ownAddr core (field (descWord list i) 51 0)
            match s2.fabBlocks die len (fun i => (at' (2 * i), at' (2 * i + 1))) none (blockElems n n) with
            | (s3, _, some e) => failed s3 bytes e
            | (s3, none, none) => s.fabStat s3 die c bytes (doneStatus 0 0)
            | (s3, some (k, j), none) => s.fabStat s3 die c bytes (causeStatus k ||| at_ 40 (j % 256)))

end Sys2Proof.Machine
end

