-- ==== Sys2Proof/Machine/Fetch.lean ====
section
/-!
DEFINITION. Sys2Proof/Machine/Fetch.lean: fetching and decoding an instruction (R202, R243, R78, R218), and the capture and
replay of repeat frames (R237).
-/

namespace Sys2Proof.Machine

open Sys2Proof

/-! ### Repeat frames -/

/-- One register field on a replay: a register number is stepped, a distance operand and the discard stay; none outside 0
to 55 (R237). -/
def stepFld (k : Int) (f : Fld) : Option Fld :=
  if 56 ≤ f.toNat then some f
  else
    let x := (f.toNat : Int) + k
    if 0 ≤ x ∧ x < 56 then some (BitVec.ofNat 6 x.toNat) else none

/-- An instruction with its g-class and v-class fields d, a, b and SRCC stepped by `k` (R237); the c field of LOP3 and VLOP3
lies in IMM26 and stays (R290, R308). Only the captured instructions have a replay. -/
def stepped (k : Int) : Instr → Option Instr
  | .add h d a b => do
    let d' ← stepFld k d
    let a' ← stepFld k a
    let b' ← stepFld k b
    some (.add h d' a' b')
  | .sub h d a b => do
    let d' ← stepFld k d
    let a' ← stepFld k a
    let b' ← stepFld k b
    some (.sub h d' a' b')
  | .mul h d a b => do
    let d' ← stepFld k d
    let a' ← stepFld k a
    let b' ← stepFld k b
    some (.mul h d' a' b')
  | .mov h d a => do
    let d' ← stepFld k d
    let a' ← stepFld k a
    some (.mov h d' a')
  | .mulh h u d a b => do
    let d' ← stepFld k d
    let a' ← stepFld k a
    let b' ← stepFld k b
    some (.mulh h u d' a' b')
  | .div h u d a b => do
    let d' ← stepFld k d
    let a' ← stepFld k a
    let b' ← stepFld k b
    some (.div h u d' a' b')
  | .rem h u d a b => do
    let d' ← stepFld k d
    let a' ← stepFld k a
    let b' ← stepFld k b
    some (.rem h u d' a' b')
  | .min h u d a b => do
    let d' ← stepFld k d
    let a' ← stepFld k a
    let b' ← stepFld k b
    some (.min h u d' a' b')
  | .max h u d a b => do
    let d' ← stepFld k d
    let a' ← stepFld k a
    let b' ← stepFld k b
    some (.max h u d' a' b')
  | .and h d a b => do
    let d' ← stepFld k d
    let a' ← stepFld k a
    let b' ← stepFld k b
    some (.and h d' a' b')
  | .or h d a b => do
    let d' ← stepFld k d
    let a' ← stepFld k a
    let b' ← stepFld k b
    some (.or h d' a' b')
  | .xor h d a b => do
    let d' ← stepFld k d
    let a' ← stepFld k a
    let b' ← stepFld k b
    some (.xor h d' a' b')
  | .andn h d a b => do
    let d' ← stepFld k d
    let a' ← stepFld k a
    let b' ← stepFld k b
    some (.andn h d' a' b')
  | .shl h d a b => do
    let d' ← stepFld k d
    let a' ← stepFld k a
    let b' ← stepFld k b
    some (.shl h d' a' b')
  | .shr h d a b => do
    let d' ← stepFld k d
    let a' ← stepFld k a
    let b' ← stepFld k b
    some (.shr h d' a' b')
  | .sar h d a b => do
    let d' ← stepFld k d
    let a' ← stepFld k a
    let b' ← stepFld k b
    some (.sar h d' a' b')
  | .rol h d a b => do
    let d' ← stepFld k d
    let a' ← stepFld k a
    let b' ← stepFld k b
    some (.rol h d' a' b')
  | .shlImm h d a n => do
    let d' ← stepFld k d
    let a' ← stepFld k a
    some (.shlImm h d' a' n)
  | .shrImm h d a n => do
    let d' ← stepFld k d
    let a' ← stepFld k a
    some (.shrImm h d' a' n)
  | .sarImm h d a n => do
    let d' ← stepFld k d
    let a' ← stepFld k a
    some (.sarImm h d' a' n)
  | .rolImm h d a n => do
    let d' ← stepFld k d
    let a' ← stepFld k a
    some (.rolImm h d' a' n)
  | .popc h d a => do
    let d' ← stepFld k d
    let a' ← stepFld k a
    some (.popc h d' a')
  | .clz h d a => do
    let d' ← stepFld k d
    let a' ← stepFld k a
    some (.clz h d' a')
  | .ctz h d a => do
    let d' ← stepFld k d
    let a' ← stepFld k a
    some (.ctz h d' a')
  | .sext h d a w1 => do
    let d' ← stepFld k d
    let a' ← stepFld k a
    some (.sext h d' a' w1)
  | .cmp h c d a b => do
    let a' ← stepFld k a
    let b' ← stepFld k b
    some (.cmp h c d a' b')
  | .cmpUnsigned h c d a b => do
    let a' ← stepFld k a
    let b' ← stepFld k b
    some (.cmpUnsigned h c d a' b')
  | .cmpi h c d a imm => do
    let a' ← stepFld k a
    some (.cmpi h c d a' imm)
  | .cmpiUnsigned h c d a imm => do
    let a' ← stepFld k a
    some (.cmpiUnsigned h c d a' imm)
  | .addi h d a imm => do
    let d' ← stepFld k d
    let a' ← stepFld k a
    some (.addi h d' a' imm)
  | .addiXw h d a imm => do
    let d' ← stepFld k d
    let a' ← stepFld k a
    some (.addiXw h d' a' imm)
  | .lea h sc d a b => do
    let d' ← stepFld k d
    let a' ← stepFld k a
    let b' ← stepFld k b
    some (.lea h sc d' a' b')
  | .leaw h sc d a b => do
    let d' ← stepFld k d
    let a' ← stepFld k a
    let b' ← stepFld k b
    some (.leaw h sc d' a' b')
  | .fshl h d a b y => do
    let d' ← stepFld k d
    let a' ← stepFld k a
    let b' ← stepFld k b
    let y' ← stepFld k y
    some (.fshl h d' a' b' y')
  | .fshr h d a b y => do
    let d' ← stepFld k d
    let a' ← stepFld k a
    let b' ← stepFld k b
    let y' ← stepFld k y
    some (.fshr h d' a' b' y')
  | .sel h d a b y => do
    let d' ← stepFld k d
    let a' ← stepFld k a
    let b' ← stepFld k b
    some (.sel h d' a' b' y)
  | .lop3 h d a b y tt => do
    let d' ← stepFld k d
    let a' ← stepFld k a
    let b' ← stepFld k b
    some (.lop3 h d' a' b' y tt)
  | .extr h d a pos w1 => do
    let d' ← stepFld k d
    let a' ← stepFld k a
    some (.extr h d' a' pos w1)
  | .ins h d a pos w1 => do
    let d' ← stepFld k d
    let a' ← stepFld k a
    some (.ins h d' a' pos w1)
  | .movi h d imm => do
    let d' ← stepFld k d
    some (.movi h d' imm)
  | .li64 h d a imm => do
    let d' ← stepFld k d
    let a' ← stepFld k a
    some (.li64 h d' a' imm)
  | .vadd h bk rnd d a b => do
    let d' ← stepFld k d
    let a' ← stepFld k a
    let b' ← stepFld k b
    some (.vadd h bk rnd d' a' b')
  | .vsub h bk rnd d a b => do
    let d' ← stepFld k d
    let a' ← stepFld k a
    let b' ← stepFld k b
    some (.vsub h bk rnd d' a' b')
  | .vmul h bk rnd d a b => do
    let d' ← stepFld k d
    let a' ← stepFld k a
    let b' ← stepFld k b
    some (.vmul h bk rnd d' a' b')
  | .vfma h bk rnd d a b => do
    let d' ← stepFld k d
    let a' ← stepFld k a
    let b' ← stepFld k b
    some (.vfma h bk rnd d' a' b')
  | .vcmp h c t d a b => do
    let a' ← stepFld k a
    let b' ← stepFld k b
    some (.vcmp h c t d a' b')
  | .vmin h bk t d a b => do
    let d' ← stepFld k d
    let a' ← stepFld k a
    let b' ← stepFld k b
    some (.vmin h bk t d' a' b')
  | .vmax h bk t d a b => do
    let d' ← stepFld k d
    let a' ← stepFld k a
    let b' ← stepFld k b
    some (.vmax h bk t d' a' b')
  | .vsel h bk d a b y => do
    let d' ← stepFld k d
    let a' ← stepFld k a
    let b' ← stepFld k b
    some (.vsel h bk d' a' b' y)
  | .vred h op t rnd d a => do
    let d' ← stepFld k d
    let a' ← stepFld k a
    some (.vred h op t rnd d' a')
  | .vdot h t rnd d a b => do
    let d' ← stepFld k d
    let a' ← stepFld k a
    let b' ← stepFld k b
    some (.vdot h t rnd d' a' b')
  | .vabs h bk d a => do
    let d' ← stepFld k d
    let a' ← stepFld k a
    some (.vabs h bk d' a')
  | .vneg h bk d a => do
    let d' ← stepFld k d
    let a' ← stepFld k a
    some (.vneg h bk d' a')
  | .vrcp h bk rnd d a => do
    let d' ← stepFld k d
    let a' ← stepFld k a
    some (.vrcp h bk rnd d' a')
  | .vrsq h bk rnd d a => do
    let d' ← stepFld k d
    let a' ← stepFld k a
    some (.vrsq h bk rnd d' a')
  | .vsqrt h bk rnd d a => do
    let d' ← stepFld k d
    let a' ← stepFld k a
    some (.vsqrt h bk rnd d' a')
  | .vexp2 h bk rnd d a => do
    let d' ← stepFld k d
    let a' ← stepFld k a
    some (.vexp2 h bk rnd d' a')
  | .vlog2 h bk rnd d a => do
    let d' ← stepFld k d
    let a' ← stepFld k a
    some (.vlog2 h bk rnd d' a')
  | .vmov h bk d a => do
    let d' ← stepFld k d
    let a' ← stepFld k a
    some (.vmov h bk d' a')
  | .vbcast h bk d a => do
    let d' ← stepFld k d
    let a' ← stepFld k a
    some (.vbcast h bk d' a')
  | .vext h d a b => do
    let d' ← stepFld k d
    let a' ← stepFld k a
    let b' ← stepFld k b
    some (.vext h d' a' b')
  | .vperm h bk d a b => do
    let d' ← stepFld k d
    let a' ← stepFld k a
    let b' ← stepFld k b
    some (.vperm h bk d' a' b')
  | .vrot h bk d a b => do
    let d' ← stepFld k d
    let a' ← stepFld k a
    let b' ← stepFld k b
    some (.vrot h bk d' a' b')
  | .viadd h bk sat d a b => do
    let d' ← stepFld k d
    let a' ← stepFld k a
    let b' ← stepFld k b
    some (.viadd h bk sat d' a' b')
  | .visub h bk sat d a b => do
    let d' ← stepFld k d
    let a' ← stepFld k a
    let b' ← stepFld k b
    some (.visub h bk sat d' a' b')
  | .vimul h bk sat d a b => do
    let d' ← stepFld k d
    let a' ← stepFld k a
    let b' ← stepFld k b
    some (.vimul h bk sat d' a' b')
  | .vimad h bk sat d a b => do
    let d' ← stepFld k d
    let a' ← stepFld k a
    let b' ← stepFld k b
    some (.vimad h bk sat d' a' b')
  | .vand h bk d a b => do
    let d' ← stepFld k d
    let a' ← stepFld k a
    let b' ← stepFld k b
    some (.vand h bk d' a' b')
  | .vor h bk d a b => do
    let d' ← stepFld k d
    let a' ← stepFld k a
    let b' ← stepFld k b
    some (.vor h bk d' a' b')
  | .vxor h bk d a b => do
    let d' ← stepFld k d
    let a' ← stepFld k a
    let b' ← stepFld k b
    some (.vxor h bk d' a' b')
  | .vshl h bk d a b => do
    let d' ← stepFld k d
    let a' ← stepFld k a
    let b' ← stepFld k b
    some (.vshl h bk d' a' b')
  | .vshr h bk d a b => do
    let d' ← stepFld k d
    let a' ← stepFld k a
    let b' ← stepFld k b
    some (.vshr h bk d' a' b')
  | .vfshl h bk d a b y => do
    let d' ← stepFld k d
    let a' ← stepFld k a
    let b' ← stepFld k b
    let y' ← stepFld k y
    some (.vfshl h bk d' a' b' y')
  | .vfshr h bk d a b y => do
    let d' ← stepFld k d
    let a' ← stepFld k a
    let b' ← stepFld k b
    let y' ← stepFld k y
    some (.vfshr h bk d' a' b' y')
  | .vpopc h bk d a => do
    let d' ← stepFld k d
    let a' ← stepFld k a
    some (.vpopc h bk d' a')
  | .vcvt h bk rnd sat fmt src d a => do
    let d' ← stepFld k d
    let a' ← stepFld k a
    some (.vcvt h bk rnd sat fmt src d' a')
  | .vpack h bk rnd sat fmt q d a => do
    let d' ← stepFld k d
    let a' ← stepFld k a
    some (.vpack h bk rnd sat fmt q d' a')
  | .vunpk h bk fmt q d a => do
    let d' ← stepFld k d
    let a' ← stepFld k a
    some (.vunpk h bk fmt q d' a')
  | .vsmax h rnd d a b y => do
    let d' ← stepFld k d
    let a' ← stepFld k a
    let b' ← stepFld k b
    let y' ← stepFld k y
    some (.vsmax h rnd d' a' b' y')
  | .vsmrg h rnd d a b y => do
    let d' ← stepFld k d
    let a' ← stepFld k a
    let b' ← stepFld k b
    let y' ← stepFld k y
    some (.vsmrg h rnd d' a' b' y')
  | .vscal h bk rnd d a b => do
    let d' ← stepFld k d
    let a' ← stepFld k a
    let b' ← stepFld k b
    some (.vscal h bk rnd d' a' b')
  | .vlop3 h d a b y tt => do
    let d' ← stepFld k d
    let a' ← stepFld k a
    let b' ← stepFld k b
    some (.vlop3 h d' a' b' y tt)
  | .br .. | .call .. | .brz .. | .brnz .. | .loop ..
  | .fork .. | .brp .. | .jmpr .. | .callr .. | .ret ..
  | .join .. | .loopi .. | .rpt .. | .endAct .. | .yield ..
  | .nop | .tlbinv .. | .sleep .. | .preempt .. | .csave ..
  | .crest .. | .tagen .. | .tagclr .. | .eret .. | .trap ..
  | .hint .. | .csrr .. | .csrw .. | .csrs .. | .csrc ..
  | .ld .. | .ldU .. | .st .. | .ldIndexed .. | .stIndexed ..
  | .ldXi .. | .ldUXi .. | .stXi .. | .vld .. | .vst ..
  | .vldXi .. | .vstXi .. | .msgvld .. | .msgld .. | .wdset ..
  | .wdget .. | .pref .. | .lda .. | .strel .. | .fence ..
  | .amoAdd .. | .amoAnd .. | .amoOr .. | .amoXor .. | .amoMin ..
  | .amoMax .. | .amoSwp .. | .amocas .. | .amofadd .. | .vlds ..
  | .vsts .. | .vgath .. | .vscat .. | .hld .. | .hst ..
  | .hrd .. | .hwr .. | .hvld .. | .hvst .. | .hrdXi ..
  | .hwrXi .. | .hvldXi .. | .hvstXi .. | .alloc .. | .hmov ..
  | .hkind .. | .heq .. | .pin .. | .unpin .. | .force ..
  | .forcenb .. | .done .. | .spark .. | .upd .. | .evac ..
  | .susp .. | .suspc .. | .send .. | .sendnb .. | .sendRk ..
  | .sendnbRk .. | .sendc .. | .rktop .. | .rkclr .. | .pmtret ..
  | .pmtcnt .. | .pmtsnd .. | .toksnd .. | .admitTok .. | .refuse ..
  | .kvhRing .. | .kvhLoc .. | .barinit .. | .bararv .. | .barwait ..
  | .bartry .. | .bararvw .. | .gbwait .. | .gbtry .. | .gbarv ..
  | .mrpush .. | .mrhead .. | .mpoll .. | .mwait .. | .mjob ..
  | .mjobnb .. | .macld .. | .macst .. | .mcmd .. | .mrset ..
  | .cpy .. | .cpynb .. | .cppoll .. | .cpwait .. | .halo ..
  | .halocnt .. | .fxfer .. | .fxa2a .. | .resultWriteback | .coreTableWrite
  | .heldMessageDelivery | .spmoveStart | .spmoveDone | .messageAccept | .messageBind
  | .priorityPromotion | .wake | .dequeBind | .probeSend | .probeForward
  | .victimNotice | .trapModeEntry | .saveComplete | .restoreComplete | .contextResume
  | .contextRestart | .contextAbort | .kernelLoad | .kernelLaunch | .kernelAbort
  | .kernelPreempt | .preemptGraceExpire | .kernelSaveStart | .kernelSaveDone | .kernelResume
  | .kernelDrainDone | .treeCombine | .kernelBarrierCombine | .kernelBarrierRelease | .kilnActivate
  | .kilnMark | .kilnEvac | .kilnRelease | .kilnFree | .markDone
  | .kilnSweep | .objectCopyDone | .sparkRun | .matmulEvalDone | .thunkEvalEnd
  | .walkDone | .priResponse | .atsInvalidate | .migrationCommand | .migrationStreamDone
  | .redirectNotice | .staleRequestForward | .migrationInvalidationDone | .linkTrain | .linkQuiesce
  | .linkResume | .linkIsolate | .linkDown | .trainingDone | .trainingTimeout
  | .linkFailure | .replayThreshold | .linkRequestTimeout | .linkResponse | .incomingRequest
  | .windowOverrun | .hostRequest | .storageDma | .fabricCompletion | .kvRingInstall
  | .kvRingLoadDone | .shuttleConfigure | .shuttleDelivery | .matrixJobStart | .ringTileTimeout
  | .matrixJobDone | .mcmdArrival | .copyStart | .copySourceFree | .copyVisible
  | .haloArrival | .mgmtRequest | .eccCorrected | .eccUncorrectable | .watchdogExpire
  | .sysWdogWrite | .sleepExpire | .thermalTrip | .supplyTrip | .packageReset
  | .firmwareVerify | .brewhouseGo | .attestationSign | .ownershipClaim | .islandWrite
  | .gustTokensWrite | .spaceLoad | .mgmtVdmRequest | .i3cTransfer | .mgmtRegisterWrite
  | .tlbinvComplete | .illegalInstruction | .instructionFetchFault => none

/-- The instructions that a repeat frame captures (R237): those of the scalar and of the vector chapter. -/
def capturable : Instr → Bool
  | .add .. | .sub .. | .mul .. | .mov .. | .mulh ..
  | .div .. | .rem .. | .min .. | .max .. | .and ..
  | .or .. | .xor .. | .andn .. | .shl .. | .shr ..
  | .sar .. | .rol .. | .shlImm .. | .shrImm .. | .sarImm ..
  | .rolImm .. | .popc .. | .clz .. | .ctz .. | .sext ..
  | .cmp .. | .cmpUnsigned .. | .cmpi .. | .cmpiUnsigned .. | .addi ..
  | .addiXw .. | .lea .. | .leaw .. | .fshl .. | .fshr ..
  | .sel .. | .lop3 .. | .extr .. | .ins .. | .movi ..
  | .li64 .. | .vadd .. | .vsub .. | .vmul .. | .vfma ..
  | .vcmp .. | .vmin .. | .vmax .. | .vsel .. | .vred ..
  | .vdot .. | .vabs .. | .vneg .. | .vrcp .. | .vrsq ..
  | .vsqrt .. | .vexp2 .. | .vlog2 .. | .vmov .. | .vbcast ..
  | .vext .. | .vperm .. | .vrot .. | .viadd .. | .visub ..
  | .vimul .. | .vimad .. | .vand .. | .vor .. | .vxor ..
  | .vshl .. | .vshr .. | .vfshl .. | .vfshr .. | .vpopc ..
  | .vcvt .. | .vpack .. | .vunpk .. | .vsmax .. | .vsmrg ..
  | .vscal .. | .vlop3 .. => true
  | .br .. | .call .. | .brz .. | .brnz .. | .loop ..
  | .fork .. | .brp .. | .jmpr .. | .callr .. | .ret ..
  | .join .. | .loopi .. | .rpt .. | .endAct .. | .yield ..
  | .nop | .tlbinv .. | .sleep .. | .preempt .. | .csave ..
  | .crest .. | .tagen .. | .tagclr .. | .eret .. | .trap ..
  | .hint .. | .csrr .. | .csrw .. | .csrs .. | .csrc ..
  | .ld .. | .ldU .. | .st .. | .ldIndexed .. | .stIndexed ..
  | .ldXi .. | .ldUXi .. | .stXi .. | .vld .. | .vst ..
  | .vldXi .. | .vstXi .. | .msgvld .. | .msgld .. | .wdset ..
  | .wdget .. | .pref .. | .lda .. | .strel .. | .fence ..
  | .amoAdd .. | .amoAnd .. | .amoOr .. | .amoXor .. | .amoMin ..
  | .amoMax .. | .amoSwp .. | .amocas .. | .amofadd .. | .vlds ..
  | .vsts .. | .vgath .. | .vscat .. | .hld .. | .hst ..
  | .hrd .. | .hwr .. | .hvld .. | .hvst .. | .hrdXi ..
  | .hwrXi .. | .hvldXi .. | .hvstXi .. | .alloc .. | .hmov ..
  | .hkind .. | .heq .. | .pin .. | .unpin .. | .force ..
  | .forcenb .. | .done .. | .spark .. | .upd .. | .evac ..
  | .susp .. | .suspc .. | .send .. | .sendnb .. | .sendRk ..
  | .sendnbRk .. | .sendc .. | .rktop .. | .rkclr .. | .pmtret ..
  | .pmtcnt .. | .pmtsnd .. | .toksnd .. | .admitTok .. | .refuse ..
  | .kvhRing .. | .kvhLoc .. | .barinit .. | .bararv .. | .barwait ..
  | .bartry .. | .bararvw .. | .gbwait .. | .gbtry .. | .gbarv ..
  | .mrpush .. | .mrhead .. | .mpoll .. | .mwait .. | .mjob ..
  | .mjobnb .. | .macld .. | .macst .. | .mcmd .. | .mrset ..
  | .cpy .. | .cpynb .. | .cppoll .. | .cpwait .. | .halo ..
  | .halocnt .. | .fxfer .. | .fxa2a .. | .resultWriteback | .coreTableWrite
  | .heldMessageDelivery | .spmoveStart | .spmoveDone | .messageAccept | .messageBind
  | .priorityPromotion | .wake | .dequeBind | .probeSend | .probeForward
  | .victimNotice | .trapModeEntry | .saveComplete | .restoreComplete | .contextResume
  | .contextRestart | .contextAbort | .kernelLoad | .kernelLaunch | .kernelAbort
  | .kernelPreempt | .preemptGraceExpire | .kernelSaveStart | .kernelSaveDone | .kernelResume
  | .kernelDrainDone | .treeCombine | .kernelBarrierCombine | .kernelBarrierRelease | .kilnActivate
  | .kilnMark | .kilnEvac | .kilnRelease | .kilnFree | .markDone
  | .kilnSweep | .objectCopyDone | .sparkRun | .matmulEvalDone | .thunkEvalEnd
  | .walkDone | .priResponse | .atsInvalidate | .migrationCommand | .migrationStreamDone
  | .redirectNotice | .staleRequestForward | .migrationInvalidationDone | .linkTrain | .linkQuiesce
  | .linkResume | .linkIsolate | .linkDown | .trainingDone | .trainingTimeout
  | .linkFailure | .replayThreshold | .linkRequestTimeout | .linkResponse | .incomingRequest
  | .windowOverrun | .hostRequest | .storageDma | .fabricCompletion | .kvRingInstall
  | .kvRingLoadDone | .shuttleConfigure | .shuttleDelivery | .matrixJobStart | .ringTileTimeout
  | .matrixJobDone | .mcmdArrival | .copyStart | .copySourceFree | .copyVisible
  | .haloArrival | .mgmtRequest | .eccCorrected | .eccUncorrectable | .watchdogExpire
  | .sysWdogWrite | .sleepExpire | .thermalTrip | .supplyTrip | .packageReset
  | .firmwareVerify | .brewhouseGo | .attestationSign | .ownershipClaim | .islandWrite
  | .gustTokensWrite | .spaceLoad | .mgmtVdmRequest | .i3cTransfer | .mgmtRegisterWrite
  | .tlbinvComplete | .illegalInstruction | .instructionFetchFault => false

/-- The instructions that trap FRAME_BRANCH when capture reaches them (R237). -/
def frameBranch : Instr → Bool
  | .br .. | .call .. | .brz .. | .brnz .. | .loop ..
  | .fork .. | .brp .. | .jmpr .. | .callr .. | .ret ..
  | .join .. | .loopi .. | .rpt .. | .endAct .. | .eret .. => true
  | .add .. | .sub .. | .mul .. | .mov .. | .mulh ..
  | .div .. | .rem .. | .min .. | .max .. | .and ..
  | .or .. | .xor .. | .andn .. | .shl .. | .shr ..
  | .sar .. | .rol .. | .shlImm .. | .shrImm .. | .sarImm ..
  | .rolImm .. | .popc .. | .clz .. | .ctz .. | .sext ..
  | .cmp .. | .cmpUnsigned .. | .cmpi .. | .cmpiUnsigned .. | .addi ..
  | .addiXw .. | .lea .. | .leaw .. | .fshl .. | .fshr ..
  | .sel .. | .lop3 .. | .extr .. | .ins .. | .movi ..
  | .li64 .. | .yield .. | .nop | .tlbinv .. | .sleep ..
  | .preempt .. | .csave .. | .crest .. | .tagen .. | .tagclr ..
  | .trap .. | .hint .. | .csrr .. | .csrw .. | .csrs ..
  | .csrc .. | .ld .. | .ldU .. | .st .. | .ldIndexed ..
  | .stIndexed .. | .ldXi .. | .ldUXi .. | .stXi .. | .vld ..
  | .vst .. | .vldXi .. | .vstXi .. | .msgvld .. | .msgld ..
  | .wdset .. | .wdget .. | .pref .. | .lda .. | .strel ..
  | .fence .. | .amoAdd .. | .amoAnd .. | .amoOr .. | .amoXor ..
  | .amoMin .. | .amoMax .. | .amoSwp .. | .amocas .. | .amofadd ..
  | .vlds .. | .vsts .. | .vgath .. | .vscat .. | .hld ..
  | .hst .. | .hrd .. | .hwr .. | .hvld .. | .hvst ..
  | .hrdXi .. | .hwrXi .. | .hvldXi .. | .hvstXi .. | .alloc ..
  | .hmov .. | .hkind .. | .heq .. | .pin .. | .unpin ..
  | .force .. | .forcenb .. | .done .. | .spark .. | .upd ..
  | .evac .. | .susp .. | .suspc .. | .send .. | .sendnb ..
  | .sendRk .. | .sendnbRk .. | .sendc .. | .rktop .. | .rkclr ..
  | .pmtret .. | .pmtcnt .. | .pmtsnd .. | .toksnd .. | .admitTok ..
  | .refuse .. | .kvhRing .. | .kvhLoc .. | .barinit .. | .bararv ..
  | .barwait .. | .bartry .. | .bararvw .. | .gbwait .. | .gbtry ..
  | .gbarv .. | .mrpush .. | .mrhead .. | .mpoll .. | .mwait ..
  | .mjob .. | .mjobnb .. | .macld .. | .macst .. | .mcmd ..
  | .mrset .. | .cpy .. | .cpynb .. | .cppoll .. | .cpwait ..
  | .halo .. | .halocnt .. | .fxfer .. | .fxa2a .. | .vadd ..
  | .vsub .. | .vmul .. | .vfma .. | .vcmp .. | .vmin ..
  | .vmax .. | .vsel .. | .vred .. | .vdot .. | .vabs ..
  | .vneg .. | .vrcp .. | .vrsq .. | .vsqrt .. | .vexp2 ..
  | .vlog2 .. | .vmov .. | .vbcast .. | .vext .. | .vperm ..
  | .vrot .. | .viadd .. | .visub .. | .vimul .. | .vimad ..
  | .vand .. | .vor .. | .vxor .. | .vshl .. | .vshr ..
  | .vfshl .. | .vfshr .. | .vpopc .. | .vcvt .. | .vpack ..
  | .vunpk .. | .vsmax .. | .vsmrg .. | .vscal .. | .vlop3 ..
  | .resultWriteback | .coreTableWrite | .heldMessageDelivery | .spmoveStart | .spmoveDone
  | .messageAccept | .messageBind | .priorityPromotion | .wake | .dequeBind
  | .probeSend | .probeForward | .victimNotice | .trapModeEntry | .saveComplete
  | .restoreComplete | .contextResume | .contextRestart | .contextAbort | .kernelLoad
  | .kernelLaunch | .kernelAbort | .kernelPreempt | .preemptGraceExpire | .kernelSaveStart
  | .kernelSaveDone | .kernelResume | .kernelDrainDone | .treeCombine | .kernelBarrierCombine
  | .kernelBarrierRelease | .kilnActivate | .kilnMark | .kilnEvac | .kilnRelease
  | .kilnFree | .markDone | .kilnSweep | .objectCopyDone | .sparkRun
  | .matmulEvalDone | .thunkEvalEnd | .walkDone | .priResponse | .atsInvalidate
  | .migrationCommand | .migrationStreamDone | .redirectNotice | .staleRequestForward | .migrationInvalidationDone
  | .linkTrain | .linkQuiesce | .linkResume | .linkIsolate | .linkDown
  | .trainingDone | .trainingTimeout | .linkFailure | .replayThreshold | .linkRequestTimeout
  | .linkResponse | .incomingRequest | .windowOverrun | .hostRequest | .storageDma
  | .fabricCompletion | .kvRingInstall | .kvRingLoadDone | .shuttleConfigure | .shuttleDelivery
  | .matrixJobStart | .ringTileTimeout | .matrixJobDone | .mcmdArrival | .copyStart
  | .copySourceFree | .copyVisible | .haloArrival | .mgmtRequest | .eccCorrected
  | .eccUncorrectable | .watchdogExpire | .sysWdogWrite | .sleepExpire | .thermalTrip
  | .supplyTrip | .packageReset | .firmwareVerify | .brewhouseGo | .attestationSign
  | .ownershipClaim | .islandWrite | .gustTokensWrite | .spaceLoad | .mgmtVdmRequest
  | .i3cTransfer | .mgmtRegisterWrite | .tlbinvComplete | .illegalInstruction | .instructionFetchFault => false

/-- The rows of the agenda: what the device or the world outside brings about (R56 on) (log entry 7). -/
def isEvent : Instr → Bool
  | .resultWriteback | .coreTableWrite | .heldMessageDelivery | .spmoveStart | .spmoveDone
  | .messageAccept | .messageBind | .priorityPromotion | .wake | .dequeBind
  | .probeSend | .probeForward | .victimNotice | .trapModeEntry | .saveComplete
  | .restoreComplete | .contextResume | .contextRestart | .contextAbort | .kernelLoad
  | .kernelLaunch | .kernelAbort | .kernelPreempt | .preemptGraceExpire | .kernelSaveStart
  | .kernelSaveDone | .kernelResume | .kernelDrainDone | .treeCombine | .kernelBarrierCombine
  | .kernelBarrierRelease | .kilnActivate | .kilnMark | .kilnEvac | .kilnRelease
  | .kilnFree | .markDone | .kilnSweep | .objectCopyDone | .sparkRun
  | .matmulEvalDone | .thunkEvalEnd | .walkDone | .priResponse | .atsInvalidate
  | .migrationCommand | .migrationStreamDone | .redirectNotice | .staleRequestForward | .migrationInvalidationDone
  | .linkTrain | .linkQuiesce | .linkResume | .linkIsolate | .linkDown
  | .trainingDone | .trainingTimeout | .linkFailure | .replayThreshold | .linkRequestTimeout
  | .linkResponse | .incomingRequest | .windowOverrun | .hostRequest | .storageDma
  | .fabricCompletion | .kvRingInstall | .kvRingLoadDone | .shuttleConfigure | .shuttleDelivery
  | .matrixJobStart | .ringTileTimeout | .matrixJobDone | .mcmdArrival | .copyStart
  | .copySourceFree | .copyVisible | .haloArrival | .mgmtRequest | .eccCorrected
  | .eccUncorrectable | .watchdogExpire | .sysWdogWrite | .sleepExpire | .thermalTrip
  | .supplyTrip | .packageReset | .firmwareVerify | .brewhouseGo | .attestationSign
  | .ownershipClaim | .islandWrite | .gustTokensWrite | .spaceLoad | .mgmtVdmRequest
  | .i3cTransfer | .mgmtRegisterWrite | .tlbinvComplete => true
  | .add .. | .sub .. | .mul .. | .mov .. | .mulh ..
  | .div .. | .rem .. | .min .. | .max .. | .and ..
  | .or .. | .xor .. | .andn .. | .shl .. | .shr ..
  | .sar .. | .rol .. | .shlImm .. | .shrImm .. | .sarImm ..
  | .rolImm .. | .popc .. | .clz .. | .ctz .. | .sext ..
  | .cmp .. | .cmpUnsigned .. | .cmpi .. | .cmpiUnsigned .. | .addi ..
  | .addiXw .. | .lea .. | .leaw .. | .fshl .. | .fshr ..
  | .sel .. | .lop3 .. | .extr .. | .ins .. | .movi ..
  | .li64 .. | .br .. | .call .. | .brz .. | .brnz ..
  | .loop .. | .fork .. | .brp .. | .jmpr .. | .callr ..
  | .ret .. | .join .. | .loopi .. | .rpt .. | .endAct ..
  | .yield .. | .nop | .tlbinv .. | .sleep .. | .preempt ..
  | .csave .. | .crest .. | .tagen .. | .tagclr .. | .eret ..
  | .trap .. | .hint .. | .csrr .. | .csrw .. | .csrs ..
  | .csrc .. | .ld .. | .ldU .. | .st .. | .ldIndexed ..
  | .stIndexed .. | .ldXi .. | .ldUXi .. | .stXi .. | .vld ..
  | .vst .. | .vldXi .. | .vstXi .. | .msgvld .. | .msgld ..
  | .wdset .. | .wdget .. | .pref .. | .lda .. | .strel ..
  | .fence .. | .amoAdd .. | .amoAnd .. | .amoOr .. | .amoXor ..
  | .amoMin .. | .amoMax .. | .amoSwp .. | .amocas .. | .amofadd ..
  | .vlds .. | .vsts .. | .vgath .. | .vscat .. | .hld ..
  | .hst .. | .hrd .. | .hwr .. | .hvld .. | .hvst ..
  | .hrdXi .. | .hwrXi .. | .hvldXi .. | .hvstXi .. | .alloc ..
  | .hmov .. | .hkind .. | .heq .. | .pin .. | .unpin ..
  | .force .. | .forcenb .. | .done .. | .spark .. | .upd ..
  | .evac .. | .susp .. | .suspc .. | .send .. | .sendnb ..
  | .sendRk .. | .sendnbRk .. | .sendc .. | .rktop .. | .rkclr ..
  | .pmtret .. | .pmtcnt .. | .pmtsnd .. | .toksnd .. | .admitTok ..
  | .refuse .. | .kvhRing .. | .kvhLoc .. | .barinit .. | .bararv ..
  | .barwait .. | .bartry .. | .bararvw .. | .gbwait .. | .gbtry ..
  | .gbarv .. | .mrpush .. | .mrhead .. | .mpoll .. | .mwait ..
  | .mjob .. | .mjobnb .. | .macld .. | .macst .. | .mcmd ..
  | .mrset .. | .cpy .. | .cpynb .. | .cppoll .. | .cpwait ..
  | .halo .. | .halocnt .. | .fxfer .. | .fxa2a .. | .vadd ..
  | .vsub .. | .vmul .. | .vfma .. | .vcmp .. | .vmin ..
  | .vmax .. | .vsel .. | .vred .. | .vdot .. | .vabs ..
  | .vneg .. | .vrcp .. | .vrsq .. | .vsqrt .. | .vexp2 ..
  | .vlog2 .. | .vmov .. | .vbcast .. | .vext .. | .vperm ..
  | .vrot .. | .viadd .. | .visub .. | .vimul .. | .vimad ..
  | .vand .. | .vor .. | .vxor .. | .vshl .. | .vshr ..
  | .vfshl .. | .vfshr .. | .vpopc .. | .vcvt .. | .vpack ..
  | .vunpk .. | .vsmax .. | .vsmrg .. | .vscal .. | .vlop3 ..
  | .illegalInstruction | .instructionFetchFault => false

/-! ### Fetching -/

/-- What a fetch finds: an instruction with its length, words that decode to none, or a fault with its cause, its level and
the address it names. -/
inductive Fetched
  | instr (i : Instr) (len : Nat)
  | illegal (w0 w1 : Word32)
  | fault (k : Cause)
  | stall (st : Stall)
deriving DecidableEq, Repr

/-- The installed code a context fetches from outside a code message (R202, R218): its base and size. -/
def State.codeOf (s : State) (i : CtxId) : Nat × Nat :=
  let c := s.ctxAt i
  match c.kernel.bind s.kernels.find? with
  | none => (0, 0)
  | some k =>
    if c.trapMode then
      match (s.resident.find? k.part).bind s.kernels.find? with
      | some r => (r.codeBase, r.codeSize)
      | none => (0, 0)
    else (k.codeBase, k.codeSize)

/-- One word of installed code (R243 steps 2 and 3). -/
def State.fetchWord (s : State) (i : CtxId) (pc : Nat) : Except Fetched Word32 :=
  let (base, size) := s.codeOf i
  let bounds (w : Word32) : Except Fetched Word32 :=
    if base ≤ pc ∧ pc + 4 ≤ base + size then .ok w else .error (.fault { code := 0x0C4 })
  if !(windowOf pc).paged then bounds 0
  else
    match s.translate i.core pc with
    | .error (code, level) => .error (.fault { code, acc := 4, level, addr := BitVec.ofNat 64 pc })
    | .ok x =>
      if !permits x.pte .fetch then
        .error (.fault { code := 0x047, acc := 4, level := x.level, addr := BitVec.ofNat 64 pc })
      else if let some frame := x.held then .error (.stall (.migration frame (x.passage (spaceSid (s.coreSpace i.core)) pc)))
      else if !s.dieServes i.core x.pa then .error (.fault { code := 0x163, acc := 4 })
      else if base ≤ pc ∧ pc + 4 ≤ base + size ∧ s.poisoned x.pa then
        .error (.fault { code := 0x160, acc := 4, addr := BitVec.ofNat 64 (pc / 8 * 8) })
      else bounds (BitVec.ofNat 32 (natOfBytes (s.readBytes x.pa 4)))

/-- One word of a code message's payload (R78); the address of poisoned bits is their offset there (R224). -/
def State.payloadWord (s : State) (i : CtxId) (pc : Nat) : Except Fetched Word32 :=
  match s.codeLen i, s.slotOf i with
  | some len, some m =>
    if pc + 4 ≤ len ∧ m.ecc.contains (pc / 8 + 2) then
      .error (.fault { code := 0x160, acc := 4, addr := BitVec.ofNat 64 (pc / 8 * 8) })
    else if pc + 4 ≤ len then .ok (BitVec.ofNat 32 (natOfBytes ((m.msg.payload.drop pc).take 4)))
    else .error (.fault { code := 0x0C4 })
  | _, _ => .error (.fault { code := 0x0C4 })

/-- A word of the code a context runs. -/
def State.codeWord (s : State) (i : CtxId) (pc : Nat) : Except Fetched Word32 :=
  if (s.codeLen i).isSome then s.payloadWord i pc else s.fetchWord i pc

/-- The next instruction of a context (R243 steps 1 to 4). -/
def State.fetch (s : State) (i : CtxId) : Fetched :=
  let pc := (s.ctxAt i).pc.toNat
  if pc % 4 ≠ 0 then .fault { code := 0x006 }
  else
    match s.codeWord i pc with
    | .error f => f
    | .ok w0 =>
      if twoWords w0 then
        match s.codeWord i (pc + 4) with
        | .error f => f
        | .ok w1 =>
          match decodeWords w0 w1 with
          | some x => .instr x 8
          | none => .illegal w0 w1
      else
        match decodeWords w0 0 with
        | some x => .instr x 4
        | none => .illegal w0 0

/-- ILLEGAL_INSTRUCTION (R242): the issuing context traps at the word. -/
def execIllegalInstruction (s : State) : Res :=
  .next (s.trapCode 0x000)

/-- INSTRUCTION_FETCH_FAULT (R243): the cause, its ACC, its level and its address are what the event brings. -/
def execInstructionFetchFault (s : State) : Res :=
  .next (s.trap { code := s.ev.num, acc := s.ev.unit, level := s.ev.sub, addr := s.ev.w0 })

end Sys2Proof.Machine
end

