-- ==== Sys2Proof/Machine/Save.lean ====
section
/-!
DEFINITION. Sys2Proof/Machine/Save.lean: the context-save engine: the image of a context (R64), saving, shipping and
restoring it (R60, R62, R63, R222, R271), and the words of the context registers that the image and CSRR share.
-/

namespace Sys2Proof.Machine

open Sys2Proof

/-! ### Registers as words -/

/-- CTX.ACT (R58). -/
def Context.actReg (c : Context) : Word :=
  at_ 51 (c.act.orig % 8192) ||| at_ 32 c.lmask.toNat ||| at_ 16 c.act.key.toNat ||| at_ 14 c.act.prio.toNat
    ||| at_ 12 c.act.kind.toNat ||| at_ 0 (c.act.entry % 64)

/-- CTX.FDEPTH (R136). -/
def Context.fdepthReg (c : Context) : Word :=
  at_ 16 (c.fdepth % 65536) ||| at_ 0 c.fdepthLim.toNat

/-- CTX.LOOP (R257). -/
def Context.loopReg (c : Context) : Word :=
  match c.loops with
  | [] => 0
  | l :: _ => at_ 32 (l.rem % 2 ^ 32) ||| at_ 0 c.loops.length

/-- The control block of the image, in its order (R64). -/
def Context.control (c : Context) : List Word :=
  [bitAt 0 c.inf, at_ 0 c.rm.toNat, c.fflagsReg, bitAt 0 c.schk, c.fdepthReg, c.gprog, c.causeReg, c.trapPc, c.trapAddr,
   c.trapObj, c.cpyXid, c.fspill]

/-- State codes in the order of R56. -/
def CtxState.code : CtxState → Nat
  | .free => 0
  | .dormant => 1
  | .ready => 2
  | .running => 3
  | .waiting => 4
  | .trapped => 5
  | .saving => 6
  | .saved => 7
  | .restoring => 8

/-! ### The image (R64) -/

/-- Bytes with zeros behind them, to a length. -/
def padTo (n : Nat) (l : List Byte) : List Byte :=
  l ++ List.replicate (n - l.length) 0

/-- Words as bytes. -/
def wordsBytes (l : List Word) : List Byte := l.flatMap bytesOfWord

/-- The loop stack, the innermost first (DESIGN CHOICE, log entry 33). -/
def Context.loopBytes (c : Context) : List Byte :=
  padTo 128 (wordsBytes ((c.loops.take 4).flatMap fun l => [l.start, l.exit, BitVec.ofNat 64 l.rem, 0]))

/-- The words of a captured instruction, the first in the low half. -/
def capturedWord (i : Instr) : Word :=
  BitVec.ofNat 64 (((encode i).getD 0 0).toNat + 2 ^ 32 * ((encode i).getD 1 0).toNat)

/-- The repeat frame: 16 captured words, the count, the stride, the position with the replay (DESIGN CHOICE, log entry 33). -/
def Context.frameBytes (c : Context) : List Byte :=
  match c.frame with
  | none => List.replicate 256 0
  | some f =>
    padTo 256 (padTo 128 (wordsBytes ((f.caps.take 16).map fun x => capturedWord x.2))
      ++ wordsBytes [BitVec.ofNat 64 (f.count + 2 ^ 16 * f.len), BitVec.ofInt 64 f.stride,
        BitVec.ofNat 64 (f.pos + 2 ^ 16 * f.replay), match f.caps with | x :: _ => x.1 | [] => c.pc])

/-- The distance history. -/
def Context.histBytes (c : Context) : List Byte :=
  padTo 512 ((c.hist.take 8).flatMap fun x => bytesOfNat 64 x.toNat)

/-- The handles of the 32 on-chip entries of the force chain, which are the claims that found CUR below 32 (R136), in the order
in which they were claimed (DESIGN CHOICE, log entry 33). -/
def Context.chainBytes (c : Context) : List Byte :=
  padTo 256 (wordsBytes ((c.chain.filterMap fun x => match x with
    | .claim y => some y.handle
    | .demand _ _ _ _ => none
    | .strict _ => none).reverse.take 32))

/-- The image of a context that records a state. -/
def Context.imageBytes (c : Context) (i : CtxId) (rec : CtxState) : List Byte :=
  padTo 64 (wordsBytes
      [at_ 0 1 ||| at_ 16 rec.code ||| bitAt 20 c.pendingWake ||| at_ 21 i.ctx ||| at_ 24 i.core, c.pc, c.actReg])
    ++ wordsBytes ((List.range 56).map fun n => (c.reg .g n).truncate 64)
    ++ (List.range 56).flatMap (fun n => bytesOfNat 64 (c.reg .v n).toNat)
    ++ wordsBytes ((List.range 16).map fun n => (c.reg .h n).truncate 64)
    ++ padTo 64 ((List.range 8).flatMap fun n => bytesOfNat 2 (c.reg .p n).toNat)
    ++ padTo 256 (wordsBytes c.control)
    ++ wordsBytes ((List.range 8).map fun n => c.win.get 0 n)
    ++ c.loopBytes ++ c.frameBytes ++ c.histBytes ++ c.chainBytes ++ List.replicate 384 0

/-- Bytes written from an address of an image up: none where one of them cannot be written. -/
def State.writeImage (s : State) (d : Nat) (virt : Bool) : (addr : Nat) → List Byte → Option State
  | _, [] => some s
  | addr, b :: l =>
    match s.imagePa d addr virt .store with
    | none => none
    | some pa => (if pa % 8 = 7 then (s.writeByte pa b).cleanse (pa - 7) 8 else s.writeByte pa b).writeImage d virt (addr + 1) l

/-- Bytes read from an address of an image up. -/
def State.readImage (s : State) (d : Nat) (virt : Bool) (addr : Nat) : Nat → Option (List Byte)
  | 0 => some []
  | n + 1 =>
    match s.imagePa d addr virt .load, s.readImage d virt (addr + 1) n with
    | some pa, some l => if s.poisoned pa then none else some (s.readByte pa :: l)
    | _, _ => none

/-- Bytes `off` to `off + n` of an image. -/
def imageField (bytes : List Byte) (off n : Nat) : List Byte := (bytes.drop off).take n

/-- The word at an offset. -/
def imageWord (bytes : List Byte) (off : Nat) : Word := wordOfBytes (imageField bytes off 8)

/-- The context that an image names (R64). -/
def imageId (bytes : List Byte) : CtxId :=
  { core := field (imageWord bytes 0) 36 24, ctx := field (imageWord bytes 0) 23 21 }

/-- Whether an image, wherever it stands now, is the one that a saving wrote; a wake since may have marked its header (R60). -/
def Shadow.wrote (x : Shadow) (bytes : List Byte) : Bool :=
  x.id == imageId bytes && (x.ctx.imageBytes x.id x.ctx.st).drop 8 == bytes.drop 8

/-- What the device remembers of the saving of an image: the saving that wrote it, wherever it was written; or, of an image that has been
changed since, the one that was written where it stands, if it names the same context (DESIGN CHOICE, log entry 33). -/
def State.shadowOf (s : State) (d addr : Nat) (virt : Bool) (bytes : List Byte) : Option Context :=
  let here := (s.imagePa d addr virt .load).bind s.shadows.find?
  match here with
  | some x =>
    if x.wrote bytes then some x.ctx
    else
      match List.find? (fun y => y.2.wrote bytes) s.shadows with
      | some y => some y.2.ctx
      | none => if x.id = imageId bytes then some x.ctx else none
  | none => (List.find? (fun y => y.2.wrote bytes) s.shadows).map fun y => y.2.ctx

/-- A saving, remembered by the image's physical address. -/
def State.putShadow (s : State) (d addr : Nat) (virt : Bool) (x : Shadow) : State :=
  match s.imagePa d addr virt .store with
  | some pa => { s with shadows := s.shadows.put pa x }
  | none => s

/-- Bytes of a save area (R64). -/
def imageSize : Nat := 6144

/-! ### Saving -/

/-- Whether a trap of a context has not reached its handler yet (R218). -/
def State.entryPending (s : State) (i : CtxId) : Bool :=
  s.agenda.any fun x => x.row == .trapModeEntry && x.ev.unit == i.core && x.ev.sub == i.ctx

/-- Whether the instruction of a context is under way outside it, beyond a port or in the context-save engine, so that the context is not
between two instructions (R216). -/
def Context.inFlight (c : Context) : Bool :=
  c.parts.isSome || !c.replies.isEmpty || match c.stall with
  | some (.link _ _ _) => true
  | some (.result _ _) => true
  | some (.pri _ _) => true
  | some (.copy _ _ _) => false
  | some .tlbinv => false
  | some .eval => false
  | some (.migration _ _) => false
  | some (.save _ _) => true
  | none => false

/-- A context whose wait ends as it is saved (R127, R264, R372): a FORCE, a job and a copy are waited for anew, a SLEEP has
been woken; a barrier is still waited for. -/
def State.unwait (s : State) (i : CtxId) : State :=
  let c := s.ctxAt i
  match c.st, c.wait with
  | .waiting, some w =>
    match w.kind with
    | .force _ => (s.unlinkWaiter i).modCtxAt i (·.rewait)
    | .job _ _ => s.setCtxAt i c.rewait
    | .copy _ _ => s.setCtxAt i c.rewait
    | .sleep _ d => s.setCtxAt i (c.finishWait s.clock w (some (d, 1)))
    | .barrier _ _ => s
    | .kbarrier _ _ => s
  | _, _ => s

/-- → Saving (R56): every outstanding write completes first (R235). -/
def State.startSave (s : State) (i : CtxId) (r : SaveReq) : State :=
  let s := s.unwait i
  let c := s.ctxAt i
  let prior : CtxState := if c.st = .running then .ready else c.st
  (s.setCtxAt i { c with st := .saving, stall := none, pend := [], replies := [], parts := none, retry := none, saveReq := some { r with prior } }).later
    .saveComplete (evCtx i)

/-- Whether a cause is a probe victim's (R80). -/
def victimCode (code : Nat) : Bool :=
  code == cCYCLE || code == 0x08C

/-- Whether the trap of a context is a probe victim's: a pre-emption of the same cycle saves the Trapped context (R222). -/
def Context.victim (c : Context) : Bool :=
  c.trapCause.getLsbD 58 && victimCode (field c.trapCause 8 0)

/-- Whether a request must be held (R222): the context is in trap mode or about to be, or inside an instruction. -/
def State.holdsSave (s : State) (i : CtxId) : Bool :=
  let c := s.ctxAt i
  c.trapMode || (s.entryPending i && !c.victim) || c.inFlight

/-- A held request is taken once nothing holds it (R222); the others of the context are answered BUSY then. -/
def State.takeHeld (s : State) (i : CtxId) : State :=
  let c := s.ctxAt i
  match c.heldReqs with
  | [] => s
  | r :: l =>
    if s.holdsSave i then s
    else
      match c.st with
      | .ready => ((s.setCtxAt i { c with heldReqs := [] }).startSave i r).answerHeld l 2
      | .running => ((s.setCtxAt i { c with heldReqs := [] }).startSave i r).answerHeld l 2
      | .waiting => ((s.setCtxAt i { c with heldReqs := [] }).startSave i r).answerHeld l 2
      | .trapped => ((s.setCtxAt i { c with heldReqs := [] }).startSave i r).answerHeld l 2
      | .free => s
      | .dormant => s
      | .saving => s
      | .saved => s
      | .restoring => s

/-- The record that stays with a Saved context: its kernel, its inbox slot, its job ids, the barrier it waits at, where its image
is (R22, R60, R71, R372). -/
def Context.savedRecord (c : Context) (addr : Nat) (virt : Bool) : Context :=
  { kernel := c.kernel, st := .saved, slot := c.slot, jobs := c.jobs, wait := c.wait, image := some (addr, virt) }

/-- A kernel whose contexts are being saved or restored has one image fewer to go; with the last one of a RESUME it is
Running again and the command is answered (R223). -/
def State.kernelImage (s : State) (i : CtxId) (failed : Bool) : State :=
  match (s.ctxAt i).kernel with
  | none => s
  | some kid =>
    match s.kernels.find? kid with
    | none => s
    | some k =>
      match k.save with
      | none => s
      | some v =>
        if !v.images.contains i then s
        else
          let v := { v with images := List.filter (· != i) v.images, failed := v.failed || failed }
          if v.resume && v.images.isEmpty then
            { s with kernels := s.kernels.put kid { k with save := none } }.kcmdReply k.part
              (if v.failed then 3 else 0)
          else { s with kernels := s.kernels.put kid { k with save := some v } }

/-- SAVE_COMPLETE (R64, R222, R63): Saved, or shipped, or back where it was when a write of the image faulted, or a
register holds poisoned bits (R224; DESIGN CHOICE, log entry 48). R63 names no end of a shipping whose write faults: the
origin takes HOME_EXECUTE as an ordinary fault and the target is Dormant again (DESIGN CHOICE, log entry 33). A target on another die
that has stopped answers nothing (R226). -/
def execSaveComplete (s : State) : Res :=
  let i := s.evId
  let c := s.ctxAt i
  .next (match c.st, c.saveReq with
    | .saving, some r =>
      let d := match r.ship with | some t => coreDie t.core | none => coreDie i.core
      match s.imageHold d r.image imageSize r.virt with
      | some st => s.await .saveComplete st
      | none =>
      let gone := r.ship.any fun t => coreDie t.core != coreDie i.core && (s.die (coreDie t.core)).stopped
      match if c.ecc = [] ∧ c.histEcc = [] ∧ gone = false then s.writeImage d r.virt r.image (c.imageBytes i r.prior) else none with
      | some s1 =>
        let s1 := s1.putShadow d r.image r.virt { id := i, ctx := { c with st := r.prior, saveReq := none } }
        match r.ship with
        | none => ((s1.setCtxAt i (c.savedRecord r.image r.virt)).answerSave r.asker 0).kernelImage i false
        | some t =>
          let s2 := (s1.freeInbox i).setCtxAt i { c.ended c.kernel .dormant with jobs := c.jobs }
          let s2 := s2.modCtxAt t fun x => { x with saveReq := some { image := r.image, prior := .dormant } }
          (s2.answerHeld c.heldReqs 1).later .restoreComplete (evCtx t)
      | none =>
        let back := { c with st := r.prior, saveReq := none, notBefore := s.clock + 1 }
        match r.ship with
        | none =>
          let s1 := ((s.setCtxAt i back).answerSave r.asker 3).kernelImage i true
          if c.pendingWake then (s1.modCtxAt i fun x => { x with pendingWake := false }).wakeCtx i else s1
        | some t =>
          if gone then (s.setCtxAt i back).takeTrap i c.pc { code := 0x163, acc := r.acc }
          else
            let s1 := (s.setCtxAt i back).modCtxAt t fun x => { x with st := .dormant, saveReq := none }
            s1.takeTrap i c.pc { code := 0x04B, acc := r.acc, level := r.level, addr := r.addr }
    | _, _ => s)

/-! ### Restoring -/

/-- Whether bytes are zero. -/
def allZero (l : List Byte) : Bool := l.all (· == 0)

/-- The image passes R64: format `0x0001` and no reserved byte set. -/
def imageOk (bytes : List Byte) : Bool :=
  field (imageWord bytes 0) 15 0 == 1 && field (imageWord bytes 0) 63 37 == 0 && allZero (imageField bytes 24 40)
    && allZero (imageField bytes 0x1090 48) && allZero (imageField bytes 0x1120 160) && allZero (imageField bytes 0x1680 384)

/-- The state an image records. -/
def recordedState (n : Nat) : CtxState :=
  if n = 1 then .dormant else if n = 4 then .waiting else if n = 5 then .trapped else .ready

/-- Loops of an image without a shadow. -/
def imageLoops (bytes : List Byte) : List Loop :=
  (List.range 4).filterMap fun n =>
    let o := 0x1200 + 32 * n
    let rem := (imageWord bytes (o + 16)).toNat
    if rem = 0 then none else some { start := imageWord bytes o, exit := imageWord bytes (o + 8), rem }

/-- The captured instructions of an image, at their addresses from `a` on. -/
def imageCaps (bytes : List Byte) (a : Word) : (n k : Nat) → List (Word × Instr)
  | 0, _ => []
  | n + 1, k =>
    let w := imageWord bytes (0x1280 + 8 * k)
    match decodeWords (w.truncate 32) (w.extractLsb' 32 32) with
    | some i => (a, i) :: imageCaps bytes (a + BitVec.ofNat 64 (instrBytes i)) n (k + 1)
    | none => []

/-- The repeat frame of an image without a shadow. -/
def imageFrame (bytes : List Byte) : Option Frame :=
  let cw := imageWord bytes 0x1300
  let pw := imageWord bytes 0x1310
  if cw = 0 then none
  else
    some
      { count := field cw 15 0, len := field cw 31 16, stride := (imageWord bytes 0x1308).toInt
        caps := imageCaps bytes (imageWord bytes 0x1318) 16 0, pos := field pw 15 0, replay := field pw 31 16 }

/-- The force chain of an image without a shadow: claims, each by its handle. -/
def imageChain (bytes : List Byte) : List Chain :=
  ((List.range 32).filterMap fun n =>
    let h := imageWord bytes (0x1580 + 8 * n)
    if h = 0 then none else some (.claim { handle := h, op := 0 })).reverse

/-- The registers that an image gives a context; reserved bits of a register read as zero (R5). -/
def Context.fromImage (c : Context) (bytes : List Byte) : Context :=
  let w (i : Nat) : Word := imageWord bytes (0x10C0 + 8 * i)
  let act := imageWord bytes 16
  { c with
    ecc := [], histEcc := []
    pc := imageWord bytes 8
    g := (List.range 56).foldl (fun m n => m.set 0 n (if n = 0 then 0 else imageWord bytes (0x40 + 8 * n))) []
    v := (List.range 56).foldl (fun m n => m.set 0 n (BitVec.ofNat 512 (natOfBytes (imageField bytes (0x200 + 64 * n) 64)))) []
    h := (List.range 16).foldl (fun m n => m.set 0 n (imageWord bytes (0x1000 + 8 * n))) []
    p := (List.range 8).foldl (fun m n =>
      m.set 0 n (if n = 0 then 0 else BitVec.ofNat 16 (natOfBytes (imageField bytes (0x1080 + 2 * n) 2)))) []
    act := { orig := field act 63 51, key := act.extractLsb' 16 16, prio := act.extractLsb' 14 2, kind := act.extractLsb' 12 2
             entry := field act 5 0 }
    lmask := act.extractLsb' 32 16
    inf := (w 0).getLsbD 0, rm := (w 1).truncate 2, fflags := (w 2).truncate 5, schk := (w 3).getLsbD 0
    fdepthLim := (w 4).truncate 16, gprog := w 5 &&& 0xFFFFFFFF803FFFFF, trapCause := w 6 &&& 0xEFFE0000000001FF
    trapPc := w 7 &&& 0x000FFFFFFFFFFFFC, trapAddr := w 8, trapObj := w 9, cpyXid := w 10 &&& 0xFFF9FFFF
    fspill := w 11 &&& 0x000FFFFFFFFFFFC0
    win := (List.range 8).foldl (fun m n => m.set 0 n (imageWord bytes (0x11C0 + 8 * n) &&& 0x000FFFFFF00003FF)) [] }

/-- A restored context: what the image gives, and what it has no room for as the shadow of its saving kept it, while those
parts of the image are unchanged (DESIGN CHOICE, log entry 33). -/
def Context.restored (c : Context) (shadow : Option Context) (bytes : List Byte) : Context :=
  let base := (shadow.getD {}).fromImage bytes
  let base := { base with
    kernel := c.kernel, slot := c.slot, jobs := c.jobs, st := recordedState (field (imageWord bytes 0) 19 16)
    heldReqs := c.heldReqs, saveReq := none, pendingWake := false, stall := none, waiter := none, reserved := false
    image := none, wait := shadow.bind fun x => if x.pc = base.pc then x.wait else none }
  match shadow with
  | some x =>
    if x.loopBytes ++ x.frameBytes ++ x.histBytes ++ x.chainBytes = imageField bytes 0x1200 1152 then base
    else
      { base with
        loops := imageLoops bytes, frame := imageFrame bytes, chain := imageChain bytes
        hist := (List.range 8).map fun n => BitVec.ofNat 512 (natOfBytes (imageField bytes (0x1380 + 64 * n) 64)) }
  | none =>
    { base with
      loops := imageLoops bytes, frame := imageFrame bytes, chain := imageChain bytes
      hist := (List.range 8).map fun n => BitVec.ofNat 512 (natOfBytes (imageField bytes (0x1380 + 64 * n) 64)) }

/-- What a restored context that was Waiting finds at its instruction (R358): the wait, and whether its condition is met:
BARWAIT and GBWAIT compare GEN with their token register, BARARVW tests its AMASK bit (log entry 45). None where it issues its
instruction again, as on a barrier that is Faulted (R356, R357). A page of the code that migrates holds this up; where the code cannot be
read any more, the wait that was saved with the context stands for the instruction. -/
def State.waitOf (s : State) (i : CtxId) : Except Stall (Option (Wait × Bool)) :=
  let c := s.ctxAt i
  let token (a : Fld) : BitVec 16 := (c.srcG a).truncate 16
  let wait (kind : WaitKind) (h : Hdr) : Wait := { kind, since := s.clock, h }
  let named (n : Nat) (x : Wait × Bool) : Option (Wait × Bool) := if ((s.core i.core).bar n).state = bFAULTED then none else some x
  let kernelWide (n : Nat) (t : BitVec 16) (h : Hdr) : Option (Wait × Bool) :=
    match c.kernel with
    | some kid =>
      if (match s.kernels.find? kid with | some k => (k.bars.get ({} : KBar) n).fault | none => false) then none
      else some (wait (.kbarrier n t) h, (s.gbarAt i.core kid n).gen != t)
    | none => none
  let saved : Option (Wait × Bool) :=
    match c.wait with
    | some { kind := .barrier n t, h, .. } => named n (wait (.barrier n t) h, ((s.core i.core).bar n).gen != t)
    | some { kind := .kbarrier n t, h, .. } => kernelWide n t h
    | some { kind := .force _, .. } => none
    | some { kind := .job _ _, .. } => none
    | some { kind := .copy _ _, .. } => none
    | some { kind := .sleep _ _, .. } => none
    | none => none
  match s.fetch i with
  | .instr (.barwait h a n) _ =>
    .ok (named n.toNat (wait (.barrier n.toNat (token a)) h, ((s.core i.core).bar n.toNat).gen != token a))
  | .instr (.bararvw h n) _ =>
    let b := (s.core i.core).bar n.toNat
    .ok (named n.toNat (wait (.barrier n.toNat b.gen) h, !b.amask.getLsbD i.ctx))
  | .instr (.gbwait h a n) _ => .ok (kernelWide n.toNat (token a) h)
  | .instr _ _ => .ok none
  | .illegal _ _ => .ok saved
  | .fault _ => .ok saved
  | .stall st => .error st

/-- A restored context enters its recorded state; one whose wait is over, or that a wake has reached, goes on after it
(R60, R62, R358). -/
def State.enterRestored (s : State) (i : CtxId) (c : Context) (woken : Bool) : Except Stall State :=
  let s := s.setCtxAt i { c with notBefore := s.clock + 1 }
  let c := { c with notBefore := s.clock + 1, wait := none }
  if c.st ≠ .waiting then .ok (s.setCtxAt i c)
  else
    match s.waitOf i with
    | .error st => .error st
    | .ok none => .ok (s.setCtxAt i { c with st := .ready })
    | .ok (some (w, met)) =>
      .ok (if woken || met then s.setCtxAt i (c.finishWait s.clock w none) else s.setCtxAt i { c with wait := some w })

/-- RESTORE_COMPLETE (R62, R63, R223): the image is read and the context enters the state it records. -/
def execRestoreComplete (s : State) : Res :=
  let i := s.evId
  let c := s.ctxAt i
  .next (match c.st, c.saveReq with
    | .restoring, some r =>
      match s.imageHold (coreDie i.core) r.image imageSize r.virt with
      | some st => s.await .restoreComplete st
      | none =>
      match s.readImage (coreDie i.core) r.virt r.image imageSize with
      | none => ((s.setCtxAt i { c with st := r.prior, saveReq := none }).answerSave r.asker 3).kernelImage i true
      | some bytes =>
        let x := c.restored (s.shadowOf (coreDie i.core) r.image r.virt bytes) bytes
        let woken := c.pendingWake || (imageWord bytes 0).getLsbD 20
        match s.enterRestored i x woken with
        | .error st => s.await .restoreComplete st
        | .ok s1 => (s1.answerSave r.asker 0).kernelImage i false
    | _, _ => s)

end Sys2Proof.Machine
end

