-- ==== Sys2Proof/Machine/Control.lean ====
section
/-!
DEFINITION. Sys2Proof/Machine/Control.lean: control flow (R249 to R263), traps and their dispositions (R218, R219, R266,
R267), control registers (R268, R269), TAGEN and TAGCLR (R270), save and restore requests (R271), TLBINV (R272), and the
events of a context.
-/

namespace Sys2Proof.Machine

open Sys2Proof

/-! ### Transfers of control (R249 to R253) -/

def cILLEGAL : Nat := 0x000
def cCSR : Nat := 0x001
def cFRAME : Nat := 0x004
def cLOOPDEPTH : Nat := 0x005
def cFALIGN : Nat := 0x006
def cLOOPRANGE : Nat := 0x008
def cJOIN : Nat := 0x009
def cTAGENTRY : Nat := 0x0CF
def cMISALIGNED : Nat := 0x04C
def cWATCHDOG : Nat := 0x162
def cSAVEIMAGE : Nat := 0x166

/-- 52 bits of an instruction address. -/
def addr52 (w : Word) : Word := w &&& 0x000FFFFFFFFFFFFF#64

/-- An offset of words, from the instruction's own address (R229, R249). -/
def Context.target {n : Nat} (c : Context) (off : BitVec n) : Word :=
  addr52 (c.pc + 4 * sext64 off)

/-- The target checks of R249. -/
def State.targetTrap (s : State) (t : Word) : Option Nat :=
  if t.toNat % 4 ≠ 0 then some cFALIGN
  else
    match s.codeLen s.cur with
    | some len => if len ≤ t.toNat then some cCODE else none
    | none => none

/-- A taken transfer to `t`, with `f` its other effect (R252). -/
def State.transfer (s : State) (h : Hdr) (t : Word) (f : Context → Context) : State :=
  match s.targetTrap t with
  | some code => s.trapCode code
  | none => s.setCtx ((f s.ctx).jumped s.clock h t)

/-- The shape of the instructions that a repeat frame cannot capture (R237): during capture they trap FRAME_BRANCH, else they
are guarded (log entry 12). -/
def State.flow (s : State) (h : Hdr) (len : Nat) (res : Option (Cls × Fld)) (srcs : List (Cls × Fld))
    (act : State → State) : State :=
  if s.ctx.capturing then s.trapCode cFRAME else s.guarded h len res srcs act

/-- A conditional branch. -/
def State.branch (s : State) (h : Hdr) (srcs : List (Cls × Fld)) (off : BitVec 12) (take : Context → Bool) : State :=
  s.flow h oneWord none srcs fun s =>
    if take s.ctx then s.transfer h (s.ctx.target off) id else s.done h oneWord id

def execBr (h : Hdr) (off : BitVec 18) (s : State) : Res :=
  .next (s.flow h oneWord none [] fun s => s.transfer h (s.ctx.target off) id)

/-- CALL (R252): g55 := PC + 4 with latency 1 and no distance entry. -/
def execCall (h : Hdr) (off : BitVec 18) (s : State) : Res :=
  .next (s.flow h oneWord none [] fun s =>
    s.transfer h (s.ctx.target off) fun c => c.writeReg (.fixed 1) .g 55 (ofWord (c.pc + 4)))

def execBrz (h : Hdr) (a : Fld) (off : BitVec 12) (s : State) : Res :=
  .next (s.branch h [gs a] off fun c => c.srcG a == 0)

def execBrnz (h : Hdr) (a : Fld) (off : BitVec 12) (s : State) : Res :=
  .next (s.branch h [gs a] off fun c => c.srcG a != 0)

/-- BRP's test, against CTX.ACT.LMASK (R252). -/
def PTest.holds (t : PTest) (m lmask : Mask) : Bool :=
  match t with
  | .any => m != 0
  | .all => m == lmask
  | .none => m == 0

def execBrp (h : Hdr) (t : PTest) (a : Fld) (off : BitVec 12) (s : State) : Res :=
  .next (s.branch h [(.p, a)] off fun c => PTest.holds t (c.srcP a &&& c.lmask) c.lmask)

def execJmpr (h : Hdr) (a : Fld) (s : State) : Res :=
  .next (s.flow h oneWord none [gs a] fun s => s.transfer h (addr52 (s.ctx.srcG a)) id)

def execCallr (h : Hdr) (d a : Fld) (s : State) : Res :=
  .next (s.flow h oneWord (some (.g, d)) [gs a] fun s =>
    s.transfer h (addr52 (s.ctx.srcG a)) fun c => c.dst (.fixed 1) .g d (ofWord (c.pc + 4)))

/-- RET (R252, R253). -/
def execRet (h : Hdr) (a : Fld) (s : State) : Res :=
  .next (s.flow h oneWord none [gs a] fun s =>
    let t := addr52 (s.ctx.srcG a)
    if (s.targetTrap t).isNone && s.ctx.endsClosure t then s.returnClosure h else s.transfer h t id)

/-! ### Loops and repeat frames (R254, R258) -/

/-- LOOP and LOOPI: the checks in their order, then the loop, or its exit as the next pc. -/
def State.pushLoop (s : State) (h : Hdr) (len : Nat) (exit : Word) (count : Nat) : State :=
  let c := s.ctx
  let start := c.pc + BitVec.ofNat 64 len
  if exit.toNat ≤ start.toNat then s.trapCode cLOOPRANGE
  else if 4 ≤ c.loops.length then s.trapCode cLOOPDEPTH
  else if c.loops.head?.any fun l => l.exit.toNat < exit.toNat then s.trapCode cLOOPRANGE
  else if count = 0 then s.setCtx ((c.passed s.clock h.stall).fallTo c.pc exit)
  else s.setCtx { c.passed s.clock h.stall with loops := { start, exit, rem := count } :: c.loops, pc := start }

def execLoop (h : Hdr) (a : Fld) (off : BitVec 12) (s : State) : Res :=
  .next (s.flow h oneWord none [gs a] fun s =>
    if off.toInt < 2 then s.trapCode cLOOPRANGE
    else s.pushLoop h oneWord (s.ctx.target off) ((s.ctx.srcG a).toNat % 2 ^ 32))

def execLoopi (h : Hdr) (n1 : BitVec 14) (off : BitVec 12) (s : State) : Res :=
  .next (s.flow h twoWord none [] fun s =>
    if off.toInt < 3 then s.trapCode cLOOPRANGE
    else s.pushLoop h twoWord (s.ctx.target off) (n1.toNat + 1))

/-- RPT (R258): a frame with nothing captured yet. -/
def execRpt (h : Hdr) (len1 : BitVec 4) (stride : BitVec 6) (count1 : BitVec 8) (s : State) : Res :=
  .next (s.flow h twoWord none [] fun s =>
    let c := s.ctx
    s.setCtx { (c.passed s.clock h.stall).fallTo c.pc (c.pc + 8) with
      frame := some
        { count := count1.toNat + 1, stride := stride.toInt, len := len1.toNat + 1, caps := [], replay := 0, pos := 0 } })

/-! ### FORK, JOIN, END (R259 to R262) -/

/-- The child image of R259 (log entry 13), in a context that still holds the job ids that a shipped activation left with it (R63). -/
def Context.forked (c : Context) (m : Mask) (t : Word) (jobs : List Nat) : Context :=
  { jobs, kernel := c.kernel, st := .dormant, reserved := true, forkChild := true, pc := t, lmask := m
    g := c.g, v := c.v, h := c.h, p := c.p, ecc := c.ecc, win := c.win, inf := c.inf, rm := c.rm, schk := c.schk
    fdepthLim := c.fdepthLim, fspill := c.fspill, act := c.act, effects := c.effects }

/-- A record pushed on the local deque, the newest first (R260). -/
def State.pushDeque (s : State) (r : DequeRec) : State :=
  s.modMe fun k => { k with deque := r :: k.deque }

/-- FORK (R259): stalled while no Dormant context of the kernel on the core is unreserved. -/
def execFork (h : Hdr) (a : Fld) (off : BitVec 12) (s : State) : Res :=
  .next (s.flow h oneWord none [] fun s =>
    let c := s.ctx
    if c.trapMode then s.trapCode cCONTROL
    else
      match c.readTrap [(.p, a)] with
      | some code => s.operandTrap code 0
      | none =>
        let m := c.srcP a &&& c.active h
        let t := c.target off
        if m = 0 then s.done h oneWord id
        else if m = c.lmask then s.transfer h t id
        else
          match s.targetTrap t with
          | some code => s.trapCode code
          | none =>
            match c.kernel.bind s.me.dormantOf with
            | none => s.stalledFull
            | some n =>
              ((s.modMe fun k => k.setCtx n (c.forked m t (k.ctx n).jobs)).pushDeque { ctx := n, join := false }).done h oneWord fun c =>
                { c with lmask := c.lmask &&& ~~~m })

/-- Offset of a JOIN word in the issuing core's scratchpad (R261): through a raw window, or the core's own slot. -/
def State.joinOffset (s : State) (va : Nat) : Option Nat :=
  let own : Bool :=
    match windowOf va with
    | .local_ _ => (s.ctx.wd va).isNone
    | .remote n => n == s.cur.core
    | .none => false
    | .hbm => false
    | .heap => false
    | .host => false
    | .link _ => false
  let off := va % 0x100000
  if own ∧ off + 8 ≤ spadBytes (coreDie s.cur.core) then some off else none

/-- A JOIN word read and arrived at (R261): COUNT less by one, and the lanes of all parts so far. -/
def joinWord (w : Word) (lanes : Mask) : Nat × Mask :=
  (field w 15 0 - 1, w.extractLsb' 32 16 ||| lanes)

/-- JOIN (R261) (log entry 13). -/
def execJoin (h : Hdr) (a : Fld) (s : State) : Res :=
  .next (s.flow h oneWord none [] fun s =>
    let c := s.ctx
    if c.trapMode ∨ c.fdepth ≠ 0 then s.trapCode cCONTROL
    else
      match c.readTrap [gs a] with
      | some code => s.operandTrap code 0
      | none =>
        let va := (c.srcG a).toNat
        match s.joinOffset va with
        | none => s.trapCode cJOIN
        | some off =>
          let pa := spadBase s.cur.core + off
          if va % 8 ≠ 0 then s.trap { code := cMISALIGNED, acc := 3, addr := c.srcG a }
          else if s.poisoned pa then s.trap { code := 0x160, acc := 3, addr := c.srcG a }
          else
            let w := s.readWord pa
            if field w 15 0 = 0 ∨ field w 63 48 ≠ 0 ∨ field w 31 16 ≠ 0 then s.trapCode cJOIN
            else
              let (count, lanes) := joinWord w c.lmask
              if count ≠ 0 then
                (s.writeWord pa (at_ 32 lanes.toNat ||| at_ 0 count)).endActivation s.cur
              else
                ((s.writeWord pa 0).done h oneWord fun c =>
                  { c with lmask := lanes, effects := true, st := .dormant, reserved := true, continued := true }).pushDeque
                  { ctx := s.cur.ctx, join := true })

/-- END (R262). -/
def execEndAct (h : Hdr) (s : State) : Res :=
  .next (s.flow h oneWord none [] fun s =>
    if s.ctx.trapMode ∨ s.ctx.fdepth ≠ 0 then s.trapCode cCONTROL else s.endActivation s.cur)

/-- YIELD (R263): the other contexts that are Ready and not stalled issue first. -/
def execYield (h : Hdr) (s : State) : Res :=
  .next (s.guarded h oneWord none [] fun s =>
    let others := (List.range 8).filter fun n =>
      let c := s.me.ctx n
      n != s.cur.ctx && c.st == .ready && c.stall.isNone && !c.full && c.notBefore ≤ s.clock
    s.done h oneWord fun c => { c with yieldFor := others })

/-- SLEEP (R264). -/
def execSleep (h : Hdr) (d a : Fld) (s : State) : Res :=
  .next (s.guarded h oneWord (some (.g, d)) [gs a] fun s =>
    let n := min (s.ctx.srcG a).toNat 0xFFFFFFFF
    if n = 0 then s.done h oneWord (·.dst .variable_ .g d 0) else s.waitOn h (.sleep (s.clock + n) d))

def execNop (s : State) : Res :=
  .next (s.done { stall := 0, pred := 0 } oneWord id)

/-- HINT (R248, R265): NOP, with its stall count. -/
def execHint (stall : BitVec 3) (_n : BitVec 4) (_imm : BitVec 26) (s : State) : Res :=
  .next (s.done { stall, pred := 0 } twoWord id)

/-! ### TRAP, ERET and the dispositions (R218, R219, R266, R267) -/

/-- TRAP (R266): completed, with TRAP.PC after it (log entry 11); its stall count holds for the handler (R235). -/
def execTrap (h : Hdr) (n : BitVec 5) (s : State) : Res :=
  .next (s.guarded h oneWord none [] fun s =>
    (s.modCtx (·.passed s.clock h.stall)).takeTrap s.cur (s.ctx.pc + 4) { code := 0x020 + n.toNat })

/-- Whether a message of its own started the activation of a context (R219). -/
def Context.restartable (c : Context) : Bool :=
  !c.forkChild && !c.continued

/-- The context as Restart leaves it (R219, R57, R73): registers from the same message, by the entry that bound it on its core of
origin (R58, R63), history, loops and frame empty (log entry 14). -/
def State.restarted (s : State) (i : CtxId) : Context :=
  let c := s.ctxAt i
  let e := (s.core c.act.orig).tag c.act.entry
  let kid := c.kernel.getD 0
  let len := if c.act.kind = 1 then 0 else field c.start.1 28 20
  let x := startContext kid (s.kernels.find? kid) i.core c.act.entry e c.start.1 c.start.2 len c.act.kind.toNat
    c.act.prio.toNat c.slot c.cpyXid
  { x with
    act := c.act, ecc := c.startEcc, startEcc := c.startEcc, inf := if field c.trapCause 8 0 = 0x0C0 then c.inf else x.inf, notBefore := s.clock + 1
    trapCause := c.trapCause, trapPc := c.trapPc, trapAddr := c.trapAddr, trapObj := c.trapObj
    effects := c.effects, jobs := c.jobs, heldReqs := c.heldReqs, noticed := c.noticed, busy := c.busy }

/-- Restart: the force chain fails, then the context starts anew. -/
def State.restart (s : State) (i : CtxId) : State :=
  let s := s.failChain i
  s.setCtxAt i (s.restarted i)

/-- Abort: the force chain fails and the activation ends. -/
def State.abortCtx (s : State) (i : CtxId) : State :=
  (s.failChain i).endActivation i

/-- Resume. -/
def State.resume (s : State) (i : CtxId) : State :=
  s.modCtxAt i (·.resumed)

/-- ERET (R267), with its stall count (R235); a held pre-emption is taken at once (R222). -/
def execEret (h : Hdr) (n : Disp) (s : State) : Res :=
  .next (s.flow h oneWord none [] fun s =>
    if !s.ctx.trapMode then s.trapCode cCONTROL
    else
      let after (s : State) : State :=
        (s.modCtx fun c => { c with notBefore := s.clock + 1 + h.stall.toNat }).takeHeld s.cur
      match n with
      | .resume => after ((s.modCtx (·.passed s.clock h.stall)).resume s.cur)
      | .restart => if s.ctx.restartable then after (s.restart s.cur) else s.trapCode cCONTROL
      | .abort => s.abortCtx s.cur)

/-- A disposition that comes through the context's command register (R219): 0 Resume, 1 Restart, 2 Abort; with its
management status. -/
def State.dispose (s : State) (i : CtxId) (how : Nat) : State × Nat :=
  let c := s.ctxAt i
  if !coreExists i.core ∨ 2 < how then (s, mFORM)
  else if c.st ≠ .trapped then (s, mSTATE)
  else if how = 2 then (s.abortCtx i, mOK)
  else if !c.trapMode && c.trapCause.getLsbD 58 && !c.victim then (s, mSTATE)
  else if how = 0 then ((s.resume i).takeHeld i, mOK)
  else if c.restartable then ((s.restart i).takeHeld i, mOK)
  else (s, mSTATE)

/-- Whether a kernel of partition `p` holds a core (R408, R409; DEDUCED, log entry 35). -/
def State.partHolds (s : State) (p core : Nat) : Bool :=
  s.kernels.any fun x => x.2.part == p && x.2.cores.any fun r => r.core == core

/-- A write of a register of a core: by the owner, or by the partition whose kernels hold the core (R409, R411). -/
def State.asHolder (s : State) (who : Master) (core : Nat) (f : State → State × Nat) : State :=
  match who with
  | .outside id => s.asOwner (.outside id) f
  | .part p c x =>
    if s.partHolds p core then
      let r := f s
      r.1.settle (.part p c x) r.2 0
    else s.settle (.part p c x) mNOTOWNER 0

/-- CONTEXT_RESUME, CONTEXT_RESTART, CONTEXT_ABORT: a write of a context's command register (log entry 27). -/
def execContextResume (s : State) : Res :=
  .next (s.asHolder s.ev.who s.ev.unit fun s => s.dispose s.evId 0)

def execContextRestart (s : State) : Res :=
  .next (s.asHolder s.ev.who s.ev.unit fun s => s.dispose s.evId 1)

def execContextAbort (s : State) : Res :=
  .next (s.asHolder s.ev.who s.ev.unit fun s => s.dispose s.evId 2)

/-- TRAP_MODE_ENTRY (R218): the cycle after a trap, the context is Ready at its handler, or it stays Trapped and the event
core of its partition receives a notice. -/
def execTrapModeEntry (s : State) : Res :=
  let i := s.evId
  let c := s.ctxAt i
  let vec := (s.core i.core).trapVec
  let code := field c.trapCause 8 0
  .next (if c.st ≠ .trapped then s
    else if vec.getLsbD 0 && !c.trapMode && !machineGroup code then
      s.setCtxAt i { c.enterTrapMode vec with notBefore := max c.notBefore s.clock }
    else s.trapNotice i code)

/-- DEQUE_BIND (R260): the newest record of a core's deque is bound; a record whose context a CREST has taken names nothing to bind any
more, and one whose context a CREST is taking waits for its end (DEDUCED, log entry 34). -/
def execDequeBind (s : State) : Res :=
  let id := s.ev.unit
  let k := s.core id
  .next (match k.deque with
    | [] => s
    | r :: l =>
      let c := k.ctx r.ctx
      if !c.reserved then s.setCore id { k with deque := l }
      else if c.st ≠ .dormant then s
      else
        s.setCore id
          (({ k with deque := l }).setCtx r.ctx
            { c with st := .ready, reserved := false, busy := 0, notBefore := max c.notBefore (s.clock + 1) }))

/-- WATCHDOG_EXPIRE (R225): more than 2^LIM cycles in Ready or Running since binding. -/
def execWatchdogExpire (s : State) : Res :=
  let i := s.evId
  let c := s.ctxAt i
  let lim := (s.core i.core).wdog.toNat
  .next (if lim ≠ 0 ∧ (c.st = .ready ∨ c.st = .running) ∧ 2 ^ lim < c.busy then s.trapAsync i { code := cWATCHDOG } else s)

/-! ### Control registers (R268, R269) -/

/-- PKG as it reads in this cycle: a write takes effect in the next one (R93). -/
def State.pkgNow (s : State) : Nat :=
  match s.mgmt.pkgWas with
  | some (t, old) => if t = s.clock then old else s.mgmt.pkg
  | none => s.mgmt.pkg

/-- SYS.GRP (R93), with PKG as the owner has set it; zero without a kernel. -/
def State.grpReg (s : State) (core : Nat) (kid : Option Nat) : Word :=
  match kid with
  | some k => setField ((s.core core).views.get {} k).grp 41 32 s.pkgNow
  | none => 0

/-- SYS.WHO (R16). -/
def whoReg (i : CtxId) : Word :=
  at_ 20 (stackOf (coreDie i.core) (coreCluster i.core)) ||| at_ 13 i.ctx ||| at_ 0 i.core

/-- The value of control register `n` (R269): none where no register has the number. -/
def State.csr (s : State) (n : Nat) : Option Word :=
  let c := s.ctx
  let k := s.me
  let d := s.die (coreDie s.cur.core)
  if n = 0x000 then some (bitAt 0 c.inf)
  else if n = 0x001 then some (at_ 0 c.rm.toNat)
  else if n = 0x002 then some c.fflagsReg
  else if n = 0x003 then some (bitAt 0 c.schk)
  else if n = 0x004 then some c.fdepthReg
  else if n = 0x005 then some c.fspill
  else if n = 0x006 then some c.gprog
  else if n = 0x007 then some c.actReg
  else if n = 0x008 then some c.loopReg
  else if n = 0x010 then some c.causeReg
  else if n = 0x011 then some c.trapPc
  else if n = 0x012 then some c.trapAddr
  else if n = 0x013 then some c.trapObj
  else if n = 0x018 then some c.cpyXid
  else if 0x040 ≤ n ∧ n ≤ 0x05F then some 0
  else if n = 0x100 then some (whoReg s.cur)
  else if n = 0x101 then some (s.grpReg s.cur.core c.kernel)
  else if n = 0x102 then some (BitVec.ofNat 64 (s.clock / 2))
  else if n = 0x103 then some (k.wdog.zeroExtend 64)
  else if n = 0x104 then some k.trapVec
  else if n = 0x105 then some (s.coreSpace s.cur.core)
  else if n = 0x106 then some d.rtbase
  else if n = 0x108 then some k.spk
  else if n = 0x109 then some k.htbase
  else if n = 0x10A then some k.expBase
  else if n = 0x10B then some d.shtStat
  else if n = 0x10C then some k.drop
  else if n = 0x10D then some (k.nanCnt.zeroExtend 64)
  else if n = 0x10E then some 0
  else if 0x200 ≤ n ∧ n ≤ 0x23F then some (k.tag (n - 0x200)).reg
  else if 0x300 ≤ n ∧ n ≤ 0x33F then some (k.bar (n - 0x300)).reg
  else if 0x340 ≤ n ∧ n ≤ 0x343 then
    some (match c.kernel with | some kid => s.gbarReg s.cur.core kid (n - 0x340) | none => 0)
  else none

/-- The RW bits of control register `n`. -/
def csrRw (n : Nat) : Word :=
  if n = 0x000 then 1
  else if n = 0x001 then 3
  else if n = 0x003 then 1
  else if n = 0x004 then 0xFFFF
  else if n = 0x005 then 0x000FFFFFFFFFFFC0
  else if n = 0x006 then 0xFFFFFFFF803FFFFF
  else if n = 0x108 then 0xFFFFFFFFFFFFFFFF
  else if n = 0x109 then 0xFFFC1
  else if n = 0x10A then 0xFFFDF
  else if n = 0x10C then 0xFFFFFFFF
  else if n = 0x10D then 0xFFFFFFFF
  else 0

/-- The W1C bits of control register `n`. -/
def csrW1c (n : Nat) : Word :=
  if n = 0x002 then 0x1F else 0

/-- Control register `n` with its writable bits set to those of a value. -/
def State.setCsr (s : State) (n : Nat) (v : Word) : State :=
  if n = 0x000 then s.modCtx fun c => { c with inf := v.getLsbD 0 }
  else if n = 0x001 then s.modCtx fun c => { c with rm := v.truncate 2 }
  else if n = 0x002 then s.modCtx fun c => { c with fflags := v.truncate 5 }
  else if n = 0x003 then s.modCtx fun c => { c with schk := v.getLsbD 0 }
  else if n = 0x004 then s.modCtx fun c => { c with fdepthLim := v.truncate 16 }
  else if n = 0x005 then s.modCtx fun c => { c with fspill := v }
  else if n = 0x006 then s.modCtx fun c => { c with gprog := v }
  else if n = 0x108 then s.modMe fun k => { k with spk := v }
  else if n = 0x109 then s.modMe fun k => { k with htbase := v }
  else if n = 0x10A then s.modMe fun k => { k with expBase := v }
  else if n = 0x10C then s.modMe fun k => { k with drop := v }
  else if n = 0x10D then s.modMe fun k => { k with nanCnt := v.truncate 32 }
  else s

/-- What CSRR, CSRW, CSRS and CSRC make of a register (R268). -/
inductive CsrOp
  | read
  | write
  | set
  | clear
deriving DecidableEq, Repr

/-- The register after the operation (R268). -/
def CsrOp.apply (op : CsrOp) (rw w1c old v : Word) : Word :=
  match op with
  | .read => old
  | .write => ((old &&& ~~~rw) ||| (v &&& rw)) &&& ~~~(v &&& w1c)
  | .set => old ||| (v &&& rw)
  | .clear => (old &&& ~~~(v &&& rw)) &&& ~~~(v &&& w1c)

/-- A control-register access (R268): the old value goes to gd after the write. -/
def State.csrAccess (s : State) (h : Hdr) (op : CsrOp) (d : Fld) (srcs : List (Cls × Fld)) (v : Context → Word)
    (n : BitVec 12) : State :=
  s.guarded h twoWord (some (.g, d)) [] fun s =>
    match s.csr n.toNat with
    | none => s.trapCode cCSR
    | some old =>
      match s.ctx.readTrap srcs with
      | some code => s.operandTrap code 0
      | none =>
        let new := op.apply (csrRw n.toNat) (csrW1c n.toNat) old (v s.ctx)
        (s.setCsr n.toNat new).done h twoWord (·.dst .variable_ .g d (ofWord old))

def execCsrr (h : Hdr) (d : Fld) (n : BitVec 12) (s : State) : Res :=
  .next (s.csrAccess h .read d [] (fun _ => 0) n)

def execCsrw (h : Hdr) (d a : Fld) (n : BitVec 12) (s : State) : Res :=
  .next (s.csrAccess h .write d [gs a] (·.srcG a) n)

def execCsrs (h : Hdr) (d a : Fld) (n : BitVec 12) (s : State) : Res :=
  .next (s.csrAccess h .set d [gs a] (·.srcG a) n)

def execCsrc (h : Hdr) (d a : Fld) (n : BitVec 12) (s : State) : Res :=
  .next (s.csrAccess h .clear d [gs a] (·.srcG a) n)

/-! ### TAGEN and TAGCLR (R270) -/

/-- EN of an entry of the issuing context's kernel. -/
def State.tagEnable (s : State) (h : Hdr) (n : BitVec 6) (en : Bool) : State :=
  s.guarded h oneWord none [] fun s =>
    let e := s.me.tag n.toNat
    if !e.v ∨ some e.kernel ≠ s.ctx.kernel then s.trapCode cTAGENTRY
    else (s.modMe fun k => k.setTag n.toNat { e with en }).done h oneWord id

def execTagen (h : Hdr) (n : BitVec 6) (s : State) : Res :=
  .next (s.tagEnable h n true)

def execTagclr (h : Hdr) (n : BitVec 6) (s : State) : Res :=
  .next (s.tagEnable h n false)

/-! ### PREEMPT, CSAVE, CREST (R222, R271) -/

/-- The shape of an instruction that only trap mode may issue (R249). -/
def State.handlerOnly (s : State) (h : Hdr) (res : Option (Cls × Fld)) (srcs : List (Cls × Fld)) (act : State → State) :
    State :=
  s.guarded h oneWord res [] fun s =>
    if !s.ctx.trapMode then s.trapCode cCONTROL
    else
      match s.ctx.readTrap srcs with
      | some code => s.operandTrap code 0
      | none => act s

/-- The context that ga names. -/
def targetCtx (w : Word) : CtxId :=
  { core := field w 12 0, ctx := field w 15 13 }

/-- A status at once. -/
def State.statusNow (s : State) (h : Hdr) (d : Fld) (status : Nat) : State :=
  s.done h oneWord (·.dst .variable_ .g d (ofWord (BitVec.ofNat 64 status)))

/-- A request to save a context: answered at once, begun, or held until the context leaves trap mode. The issuing context
is stalled until the answer. A core of another die that has stopped answers nothing (R226); a context that a FORK has reserved is Dormant
here, since R260 excepts it for R57 and R84 alone. -/
def State.requestSave (s : State) (h : Hdr) (d : Fld) (t : CtxId) (image : Nat) (virt : Bool) : State :=
  let r : SaveReq := { asker := some s.cur, image, virt }
  let begin_ : State :=
    let s := s.modCtx fun c => { c with stall := some (.save h d) }
    if s.holdsSave t then s.modCtxAt t fun c => { c with heldReqs := c.heldReqs ++ [r] } else s.startSave t r
  let c := s.ctxAt t
  if !s.coreMapped t.core then s.statusNow h d 4
  else if s.answersNot (coreDie t.core) then s.trapCode 0x163
  else
    match c.st with
    | .free => s.statusNow h d 1
    | .dormant => s.statusNow h d 1
    | .saving => s.statusNow h d 2
    | .saved => s.statusNow h d 2
    | .restoring => s.statusNow h d 2
    | .ready => begin_
    | .running => begin_
    | .waiting => begin_
    | .trapped => begin_

def execPreempt (h : Hdr) (d a : Fld) (s : State) : Res :=
  .next (s.handlerOnly h (some (.g, d)) [gs a] fun s =>
    let t := targetCtx (s.ctx.srcG a)
    if t = s.cur then s.trapCode cCONTROL else s.requestSave h d t (s.saveArea t) false)

def execCsave (h : Hdr) (d a b : Fld) (s : State) : Res :=
  .next (s.handlerOnly h (some (.g, d)) [gs a, gs b] fun s =>
    let t := targetCtx (s.ctx.srcG a)
    let image := (s.ctx.srcG b).toNat
    if t = s.cur then s.trapCode cCONTROL
    else if image % 64 ≠ 0 then s.trap { code := cMISALIGNED, acc := 2, addr := s.ctx.srcG b }
    else s.requestSave h d t image true)

/-- Whether two addresses of an image name one place (R271). -/
def State.sameImage (s : State) (d : Nat) (x : Option (Nat × Bool)) (addr : Nat) : Bool :=
  match x with
  | none => false
  | some (a, virt) => (s.imagePa d a virt .load).isSome && s.imagePa d a virt .load == s.imagePa d addr true .load

/-- The kernel that saved an image (R271), as far as the device has seen the saving; of an image that it has not seen, the one that holds the
context which the image names, if any does (DEDUCED, log entry 33). -/
def State.imageKernel (s : State) (shadow : Option Context) (bytes : List Byte) : Option Nat :=
  match shadow with
  | some y => y.kernel
  | none => (s.ctxAt (imageId bytes)).kernel

/-- Whether a wait is for a named barrier. -/
def Wait.named (w : Wait) : Bool :=
  match w.kind with
  | .barrier _ _ => true
  | .kbarrier _ _ => false
  | .force _ => false
  | .job _ _ => false
  | .copy _ _ => false
  | .sleep _ _ => false

/-- Whether an image may be restored into a context (R271, R358): its kernel is the one that saved it, and an image that waits at a named
barrier goes back where it was saved. A breach is a use that R11 gives the trap of the owning chapter, SAVE_IMAGE (DEDUCED, log
entry 33). -/
def State.imageFits (s : State) (t : CtxId) (image : Nat) (bytes : List Byte) : Except Stall Bool :=
  let c := s.ctxAt t
  let shadow := s.shadowOf (coreDie t.core) image true bytes
  let kernel := s.imageKernel shadow bytes
  if kernel.isSome ∧ kernel ≠ c.kernel then .ok false
  else if recordedState (field (imageWord bytes 0) 19 16) ≠ .waiting ∨ imageId bytes = t then .ok true
  else
    match (s.setCtxAt t { c.restored shadow bytes with st := .waiting }).waitOf t with
    | .error st => .error st
    | .ok none => .ok true
    | .ok (some (w, _)) => .ok !w.named

/-- CREST: the image is checked as the instruction issues; a target in a state that R271 leaves out is left alone, with a
status that the spec does not give (DESIGN CHOICE, log entry 34). A Dormant context that a FORK has reserved is a Dormant target, as R260
excepts it for R57 and R84 alone (DEDUCED, log entry 34). -/
def execCrest (h : Hdr) (d a b : Fld) (s : State) : Res :=
  .next (s.handlerOnly h (some (.g, d)) [gs a, gs b] fun s =>
    let t := targetCtx (s.ctx.srcG a)
    let image := (s.ctx.srcG b).toNat
    let c := s.ctxAt t
    let restore : State :=
      match s.imageHold (coreDie t.core) image imageSize true with
      | some st => s.stallOn st
      | none =>
      match s.readImage (coreDie t.core) true image imageSize with
      | none => s.statusNow h d 3
      | some bytes =>
        if !imageOk bytes then s.trapCode cSAVEIMAGE
        else
        match s.imageFits t image bytes with
        | .error st => s.stallOn st
        | .ok false => s.trapCode cSAVEIMAGE
        | .ok true =>
          let s := s.modCtx fun c => { c with stall := some (.save h d) }
          let r : SaveReq := { asker := some s.cur, image, virt := true, prior := c.st }
          let wait := if s.sameImage (coreDie t.core) c.image image then c.wait else none
          (s.modCtxAt t fun c => { c with st := .restoring, saveReq := some r, wait }).later .restoreComplete (evCtx t)
    let open_ : State :=
      { s with fresh := s.fresh + 1 }.statusNow h d ((Config.freeWord s.fresh).toNat % 5)
    if image % 64 ≠ 0 then s.trap { code := cMISALIGNED, acc := 1, addr := s.ctx.srcG b }
    else if !s.coreMapped t.core then s.statusNow h d 4
    else if s.answersNot (coreDie t.core) then s.trapCode 0x163
    else
      match c.st with
      | .dormant => restore
      | .saved => restore
      | .saving => s.statusNow h d 2
      | .restoring => s.statusNow h d 2
      | .free => open_
      | .ready => open_
      | .running => open_
      | .waiting => open_
      | .trapped => open_)

/-! ### TLBINV (R272) and the caches (R147) -/

/-- Leaves held in a core's translation cache (R147; DESIGN CHOICE, log entry 36). -/
def tlbSize : Nat := 64

/-- Leaves of a cluster's translation cache, to which the spec gives no size (DESIGN CHOICE, log entry 36). -/
def clusterTlbSize : Nat := 1024

/-- The caches of these cores, and of their clusters, without the leaves that a test names (R156, R272). -/
def State.dropLeaves (s : State) (ids : List Nat) (p : TlbEnt → Bool) : State :=
  { s with
    cores := s.cores.map fun x => (x.1, if ids.contains x.1 then { x.2 with tlb := x.2.tlb.filter fun e => !p e } else x.2)
    clusters := s.clusters.map fun x => (x.1, if ids.any fun i => coreEngine i == x.1 then x.2.filter fun e => !p e else x.2) }

/-- Whether a leaf maps a byte of a range of 64 KiB pages; a count of 0 is the whole space. -/
def TlbEnt.inRange (e : TlbEnt) (sid first count : Nat) : Bool :=
  e.sid == sid && (count == 0 ||
    (decide (e.page * 2 ^ e.bits < (first + count) * 65536) && decide (first * 65536 < (e.page + 1) * 2 ^ e.bits)))

/-- TLBINV: the context is stalled until TLBINV_COMPLETE. -/
def execTlbinv (h : Hdr) (c a b : Fld) (s : State) : Res :=
  .next (s.handlerOnly h none [gs c, gs a, gs b] fun s =>
    let x := s.ctx
    let ev : Ev := { evCtx s.cur with
      num := field (x.srcG c) 15 0, w0 := BitVec.ofNat 64 (field (x.srcG a) 51 16), w1 := BitVec.ofNat 64 (field (x.srcG b) 31 0) }
    ((s.done h oneWord id).modCtx fun c => { c with stall := some .tlbinv }).later .tlbinvComplete ev)

/-- Whether an event is the end of a walk for a page of a range (R272). -/
def State.walkInRange (s : State) (x : Due) (sid first count : Nat) : Bool :=
  x.row == .walkDone && spaceSid (s.coreSpace x.ev.unit) == sid &&
    (count == 0 || (decide (first * 65536 ≤ x.ev.w0.toNat) && decide (x.ev.w0.toNat < (first + count) * 65536)))

/-- TLBINV_COMPLETE: every cache of the package has lost the leaves, and the context goes on. -/
def execTlbinvComplete (s : State) : Res :=
  let sid := s.ev.num
  let first := s.ev.w0.toNat
  let count := s.ev.w1.toNat
  let s1 : State := { s.dropLeaves (s.cores.map fun x => x.1) (·.inRange sid first count) with
    agenda := List.filter (fun x => !s.walkInRange x sid first count) s.agenda }
  .next (s1.modCtxAt s.evId fun c =>
    if c.stall = some Stall.tlbinv then { c with stall := none } else c)

/-- WALK_DONE (R147): the leaf that the cluster's cache holds, or that a walk finds now, is cached, and the oldest goes when a cache is
full. -/
def execWalkDone (s : State) : Res :=
  let id := s.ev.unit
  let va := s.ev.w0.toNat
  let space := s.coreSpace id
  let sid := spaceSid space
  let cluster := coreEngine id
  let put (n : Nat) (e : TlbEnt) (l : List TlbEnt) : List TlbEnt := if (leafFor l sid va).isSome then l else List.take n (e :: l)
  let found : Option TlbEnt :=
    match leafFor (s.clusters.get [] cluster) sid va with
    | some e => some e
    | none =>
      match s.walk (coreDie id) space va with
      | .error _ => none
      | .ok l => some { sid, page := va / 2 ^ l.bits, bits := l.bits, pte := l.pte }
  .next (match found with
    | none => s
    | some e =>
      let s1 : State := { s with clusters := s.clusters.put cluster (put clusterTlbSize e (s.clusters.get [] cluster)) }
      s1.modCore id fun k => { k with tlb := put tlbSize e k.tlb })

/-- STALE_REQUEST_FORWARD (R156): a request that a stale leaf has sent to the old frame is forwarded, and the core loses the
leaf. -/
def execStaleRequestForward (s : State) : Res :=
  let id := s.ev.unit
  let sid := spaceSid (s.coreSpace id)
  let va := s.ev.w0.toNat
  .next (s.dropLeaves [id] fun e => e.sid == sid && e.page == va / 2 ^ e.bits)

end Sys2Proof.Machine
end

