-- ==== Sys2Proof/Machine/Kernel.lean ====
section
/-!
DEFINITION. Sys2Proof/Machine/Kernel.lean: the kernel commands (R82 to R86, R223, R240, R409) and the events of a kernel.
-/

namespace Sys2Proof.Machine

open Sys2Proof

/-! ### Commands (R409) -/

/-- Statuses of R84. -/
def kOK : Nat := 0
def kFORMAT : Nat := 1
def kBADCORE : Nat := 2
def kBADOVF : Nat := 3
def kNOCTX : Nat := 4
def kREGION : Nat := 5
def kTAGDUP : Nat := 6
def kRANKDEPTH : Nat := 7
def kBLKKIND : Nat := 8
def kKNUM : Nat := 9
def kLOADFAULT : Nat := 10
def kKSTATE : Nat := 11

/-- FAULT of a PREEMPTK or a RESUME (R222, R223; DEDUCED, log entry 37). -/
def kSAVEFAULT : Nat := 3

def kcmdOp (c : Cmd4) : Nat := field c.w0 2 0
def kcmdNum (c : Cmd4) : Nat := field c.w0 15 8

/-- The form rules of R409 for the command of an OP. -/
def kcmdFormOk (op : Nat) (c : Cmd4) : Bool :=
  kcmdOp c == op && field c.w0 7 3 == 0 && field c.w0 63 16 == 0 && field c.w1 63 48 == 0 &&
    (if op = 1 then field c.w2 63 52 == 0 && field c.w3 63 52 == 0
     else if op = 2 then
       c.w1 == 0 && field c.w2 63 48 == 0 && field c.w3 31 9 == 0 && field c.w3 63 44 == 0 && decide (field c.w3 8 0 ≤ 256)
     else if op = 3 then c.w1 == 0 && c.w2 == 0 && c.w3 == 0
     else if op = 4 then c.w1.toNat % 64 == 0 && field c.w2 63 32 == 0 && c.w3 == 0
     else c.w1.toNat % 64 == 0 && c.w2 == 0 && c.w3 == 0)

/-- Whether a kernel holds its number (R409). -/
def Kernel.live (k : Kernel) : Bool :=
  k.state != .done && k.state != .aborted

/-- The kernel that a number names among those of a partition. -/
def State.kernelOf (s : State) (p num : Nat) : Option (Nat × Kernel) :=
  List.find? (fun x => x.2.part == p && x.2.num == num && x.2.live) s.kernels

/-- A write of word 3 of KCMD.p: by the owner while V = 1, or by the partition itself; then the command is carried out. An
event that the device makes itself (`flag`) has been taken before. -/
def State.takeKcmd (s : State) (act : State → State) : State :=
  let p := s.ev.unit
  if s.ev.flag then act s
  else
    match s.ev.who with
    | .outside id =>
      if !s.ownedBy (.outside id) then s.settle (.outside id) mNOTOWNER 0
      else if !partV (s.part p) then s.settle (.outside id) mSTATE 0
      else act (s.settle (.outside id) mOK 0)
    | .part q c x =>
      if q = p then act (s.settle (.part q c x) mOK 0) else s.settle (.part q c x) mNOTOWNER 0

/-- The shape of a command on a kernel that the partition has loaded: its form, its number, then `act`, which gives the
state and the status; none means that the reply comes later. -/
def State.onKernel (s : State) (op : Nat) (act : State → Nat → Kernel → State × Option Nat) : State :=
  s.takeKcmd fun s =>
    let p := s.ev.unit
    if !kcmdFormOk op s.ev.cmd then s.kcmdReply p kFORMAT
    else
      match s.kernelOf p (kcmdNum s.ev.cmd) with
      | none => s.kcmdReply p kKNUM
      | some (kid, k) =>
        match act s kid k with
        | (s', some status) => s'.kcmdReply p status
        | (s', none) => s'

/-- A kernel in another form. -/
def State.putKernel (s : State) (kid : Nat) (k : Kernel) : State :=
  { s with kernels := s.kernels.put kid k }

/-- A command that is not ready is tried again in the next cycle (R260). -/
def State.retryKcmd (s : State) : State :=
  s.nextCycle (if kcmdOp s.ev.cmd = 3 then .kernelAbort else .kernelPreempt) { s.ev with flag := true }

/-! ### bxasm objects (R240) -/

/-- A segment descriptor. -/
structure Segment where
  kind  : Nat
  align : Nat
  off   : Nat
  size  : Nat
deriving DecidableEq, Repr

/-- The segment descriptors from a physical address on; none where one cannot be read (R18), a reserved bit is set or a TYPE is unknown. -/
def State.segments (s : State) (pa : Nat) : Nat → Option (List Segment)
  | 0 => some []
  | n + 1 =>
    let w0 := s.readWord pa
    if !s.rawOk pa 32 ∨ field w0 63 16 ≠ 0 ∨ s.readWord (pa + 24) ≠ 0 ∨ field w0 7 0 = 0 ∨ 7 < field w0 7 0 then none
    else
      match s.segments (pa + 32) n with
      | none => none
      | some l =>
        some ({ kind := field w0 7 0, align := field w0 15 8, off := (s.readWord (pa + 8)).toNat
                size := (s.readWord (pa + 16)).toNat } :: l)

/-- An object at a physical address: its segments. -/
def State.object (s : State) (pa : Nat) : Option (List Segment) :=
  let w0 := s.readWord pa
  if !s.rawOk pa 64 ∨ field w0 31 0 ≠ 0x4B584F31 ∨ field w0 47 32 ≠ 1 ∨ !(List.range 7).all (fun i => s.readWord (pa + 8 + 8 * i) == 0) then none
  else s.segments (pa + 64) (field w0 63 48)

/-- The first segment of a TYPE. -/
def segOf (l : List Segment) (kind : Nat) : Option Segment :=
  l.find? fun g => g.kind == kind

/-- The bytes of a segment of the object at `pa`. -/
def State.segBytes (s : State) (pa : Nat) (g : Segment) : List Byte :=
  s.readBytes (pa + g.off) g.size

/-- Word `i` of bytes. -/
def wordAt (bytes : List Byte) (i : Nat) : Word :=
  wordOfBytes ((bytes.drop (8 * i)).take 8)

/-- Bytes with others put over them at an offset. -/
def overlay (bytes : List Byte) (off : Nat) (l : List Byte) : List Byte :=
  bytes.take off ++ l ++ bytes.drop (off + l.length)

/-- One relocation of the segment with index `idx` (R240): none where its kind is unknown or it passes the segment's end. -/
def relocate (idx : Nat) (data : Nat) (w0 w1 : Word) (bytes : List Byte) : Option (List Byte) :=
  let kind := field w0 15 8
  let off := field w0 63 16
  let v := BitVec.ofNat 64 data + w1
  let n := if kind = 1 then 8 else 4
  if kind = 0 ∨ 3 < kind then none
  else if field w0 7 0 ≠ idx then some bytes
  else if bytes.length < off + n then none
  else if kind = 1 then some (overlay bytes off (bytesOfWord v))
  else if kind = 2 then some (overlay bytes off (bytesOfNat 4 (field v 31 0)))
  else some (overlay bytes off (bytesOfNat 4 (field v 63 32)))

/-- Every relocation of a segment, from the table's `n` entries. -/
def relocateAll (idx data : Nat) (table : List Byte) : (n i : Nat) → List Byte → Option (List Byte)
  | 0, _, bytes => some bytes
  | n + 1, i, bytes =>
    match relocate idx data (wordAt table (2 * i)) (wordAt table (2 * i + 1)) bytes with
    | none => none
    | some b => relocateAll idx data table n (i + 1) b

/-! ### Placement tables (R83, R84) -/

/-- A placement table as it stands: the header, the core records and the tag records. -/
structure Placement where
  w0    : Word
  w1    : Word
  w2    : Word
  w3    : Word
  cores : List Word
  tags  : List TagRec
deriving DecidableEq, Repr

/-- The table in bytes that are long enough. -/
def placementOf (bytes : List Byte) : Option Placement :=
  let w0 := wordAt bytes 0
  let ncore := field w0 39 27
  let ntag := field w0 47 40
  if bytes.length < 32 + 8 * ncore + 16 * ntag then none
  else
    some
      { w0, w1 := wordAt bytes 1, w2 := wordAt bytes 2, w3 := wordAt bytes 3
        cores := (List.range ncore).map fun i => wordAt bytes (4 + i)
        tags := (List.range ntag).map fun i =>
          { w0 := wordAt bytes (4 + ncore + 2 * i), w1 := wordAt bytes (5 + ncore + 2 * i) } }

def recCore (w : Word) : CoreRec := { core := field w 63 51, ovf := field w 50 38, nctx := field w 37 34 }
def TagRec.launch (r : TagRec) : Bool := r.w0.getLsbD 63
def TagRec.tag (r : TagRec) : Nat := field r.w0 43 32
def TagRec.kind (r : TagRec) : Nat := field r.w0 58 57
def TagRec.depth (r : TagRec) : Nat := if r.kind = 1 then field r.w0 54 51 + 1 else 0
def TagRec.first (r : TagRec) : Nat := field r.w1 63 51
def TagRec.count (r : TagRec) : Nat := field r.w1 50 38

/-- The handler-table entry that a record becomes (R68, R83). -/
def TagRec.entry (r : TagRec) (kid : Nat) : TagEnt :=
  { word := bitAt 63 true ||| bitAt 60 r.launch ||| at_ 44 (field r.w0 59 44) ||| at_ 32 r.tag ||| at_ 2 (field r.w0 31 2)
      ||| bitAt 1 (r.w0.getLsbD 1)
    kernel := kid, en := r.w0.getLsbD 62 }

/-- FORMAT: what the words of a table must keep (R83, R84). For NCORE out of range, a COUNT of 0 and a REGBASE or REGSIZE that is no
multiple of 64 R84 names no status (DESIGN CHOICE, log entry 50). -/
def Placement.formOk (t : Placement) : Bool :=
  field t.w0 63 48 == 1 && field t.w0 23 0 == 0 && field t.w1 19 13 == 0 && field t.w2 51 40 == 0 && t.w3 == 0 &&
    decide (1 ≤ t.tags.length) && decide (t.tags.length ≤ 64) && decide (1 ≤ t.cores.length) &&
    decide (t.cores.length ≤ 6400) && field t.w2 39 20 % 64 == 0 && field t.w2 19 0 % 64 == 0 &&
    t.cores.all (fun w => field w 33 0 == 0 && decide (1 ≤ (recCore w).nctx) && decide ((recCore w).nctx ≤ 8)) &&
    t.tags.all (fun r => field r.w0 61 60 == 0 && !r.w0.getLsbD 0 && field r.w1 37 0 == 0 && decide (1 ≤ r.count) &&
      decide (r.first + r.count ≤ t.cores.length))

/-- The core records. -/
def Placement.recs (t : Placement) : List CoreRec := t.cores.map recCore

/-- The tag records that serve core record `i`, in table order. -/
def servedBy (tags : List TagRec) (i : Nat) : List TagRec :=
  tags.filter fun r => decide (r.first ≤ i) && decide (i < r.first + r.count)

/-- Whether no element occurs twice. -/
def distinct : List Nat → Bool
  | [] => true
  | x :: l => !l.contains x && distinct l

/-- The Free contexts of a core, in order. -/
def Core.freeCtxs (k : Core) : List Nat :=
  (List.range 8).filter fun n => (k.ctx n).st == .free

/-- The Unused entries of a core, in order. -/
def Core.unusedTags (k : Core) : List Nat :=
  (List.range 64).filter fun n => !(k.tag n).v

/-- Whether the regions of a table overlap those of another kernel on a core. -/
def State.regionTaken (s : State) (core base size : Nat) : Bool :=
  s.kernels.any fun x =>
    x.2.live && x.2.cores.any (fun r => r.core == core) && decide (base < x.2.regbase + x.2.regsize) &&
      decide (x.2.regbase < base + size) && size != 0 && x.2.regsize != 0

/-- A table together with the position of each of its core records. -/
def Placement.indexed (t : Placement) : List (Nat × CoreRec) :=
  (List.range t.cores.length).filterMap fun i => (t.cores[i]?).map fun w => (i, recCore w)

/-- The first failure of a table, from status 2 to status 8 (R84); none where it can be installed. -/
def State.placementFails (s : State) (t : Placement) : Option Nat :=
  let l := t.indexed
  let base := field t.w2 19 0
  let size := field t.w2 39 20
  if l.any (fun x => !s.coreMapped x.2.core) || !distinct (l.map fun x => x.2.core) then some kBADCORE
  else if l.any (fun x => !l.any fun y => y.2.core == x.2.ovf) then some kBADOVF
  else if l.any fun x =>
      let k := s.core x.2.core
      decide (k.freeCtxs.length < x.2.nctx) || decide (k.unusedTags.length < (servedBy t.tags x.1).length) then some kNOCTX
  else if l.any fun x =>
      decide (spadBytes (coreDie x.2.core) < base + size) || s.regionTaken x.2.core base size then some kREGION
  else if l.any fun x =>
      let k := s.core x.2.core
      let tags := (servedBy t.tags x.1).map TagRec.tag
      !distinct tags || tags.any (fun g => (k.match_ g).isSome) then some kTAGDUP
  else if l.any fun x =>
      let k := s.core x.2.core
      let there := ((List.range 64).map fun n => if (k.tag n).v ∧ (k.tag n).kind = 1 then (k.tag n).depth else 0).foldl (· + ·) 0
      decide (64 < there + ((servedBy t.tags x.1).map TagRec.depth).foldl (· + ·) 0) then some kRANKDEPTH
  else if t.tags.any fun r => r.launch && r.kind != 0 then some kBLKKIND
  else none

/-! ### LOAD (R84, R240, R409; log entry 19) -/

/-- Everything that LOAD needs of an object. -/
structure Image where
  place : Placement
  code  : List Byte
  data  : Option (List Byte)
  image : Option (List Byte)
  wins  : List Word
deriving DecidableEq, Repr

/-- Whether an address is in the HBM/global window and aligned to a segment. -/
def segAt (va : Nat) (g : Segment) : Bool :=
  windowOf va == .hbm && va % 2 ^ g.align == 0

/-- The bytes of the first segment of a TYPE with its relocations resolved against the data address: none where one of them is
wrong, an empty answer where the object has no such segment (R240). -/
def State.fixed (s : State) (pa : Nat) (l : List Segment) (data kind : Nat) : Option (Option (List Byte)) :=
  let relocs := match segOf l 6 with | some g => s.segBytes pa g | none => []
  match segOf l kind with
  | none => some none
  | some g =>
    let idx := ((List.range l.length).find? fun i => (l[i]?).any fun g => g.kind == kind).getD 0
    (relocateAll idx data relocs (relocs.length / 16) 0 (s.segBytes pa g)).map some

/-- A LOAD's object, code base and data address; none where status FORMAT applies. An object that cannot be read, or lacks its code or
its placement table, has no status of its own in R84 and answers FORMAT too (DESIGN CHOICE, log entry 50). -/
def State.imageOf (s : State) (pa code data : Nat) : Option Image := do
  let l ← s.object pa
  if !l.all fun g => s.rawOk (pa + g.off) g.size then none
  let gc ← segOf l 1
  let code_ ← (← s.fixed pa l data 1)
  let table ← (← s.fixed pa l data 2)
  let image ← s.fixed pa l data 3
  let bytes ← s.fixed pa l data 4
  let defaults ← s.fixed pa l data 7
  let place ← placementOf table
  let wins := match defaults with
    | some b => (List.range 8).map fun i => wordAt b i
    | none => List.replicate 8 0
  let dataOk := match segOf l 4 with
    | some g => segAt data g
    | none => data == 0
  let sized := match image with | some b => b.length == field place.w2 39 20 | none => true
  if !place.formOk || !segAt code gc || code % 4 != 0 || !dataOk || wins.any wdBad || !sized then none
  return { place, code := code_, data := bytes, image, wins }

/-- Bytes written in a space, in pieces that lie in one 64 KiB page each, so that the pieces before one that faults stay
written (R84). -/
def State.writeSegment (s : State) (d : Nat) : (fuel va : Nat) → List Byte → State × Except Stop Unit
  | 0, _, _ => (s, .ok ())
  | fuel + 1, va, bytes =>
    if bytes = [] then (s, .ok ())
    else
      let n := 65536 - va % 65536
      match s.exWrite d va (bytes.take n) with
      | (s', .error e) => (s', .error e)
      | (s', .ok ()) => s'.writeSegment d fuel (va + n) (bytes.drop n)

/-- SYS.GRP of a core for a kernel (R93). -/
def grpWord (recs : List CoreRec) (r : CoreRec) : Word :=
  at_ 19 (recs.filter fun x => coreStack x.core == coreStack r.core).length
    ||| at_ 12 (recs.filter fun x => coreEngine x.core == coreEngine r.core).length ||| at_ 0 r.nctx

/-- One core of a kernel that is loaded: its contexts, its entries, SYS.GRP and its regions. -/
def State.installCore (s : State) (kid : Nat) (im : Image) (i : Nat) (r : CoreRec) : State :=
  let k := s.core r.core
  let k := (k.freeCtxs.take r.nctx).foldl (fun k n => k.setCtx n ((k.ctx n).allocated kid)) k
  let k := ((servedBy im.place.tags i).zip k.unusedTags).foldl (fun k x => k.setTag x.2 (x.1.entry kid)) k
  let k := { k with views := k.views.put kid { grp := grpWord im.place.recs r } }
  let s := s.setCore r.core k
  match im.image with
  | some b => s.writeBytes (spadBase r.core + field im.place.w2 19 0) b
  | none => s

/-- Every core of a kernel that is loaded. -/
def State.installCores (s : State) (kid : Nat) (im : Image) : List (Nat × CoreRec) → State
  | [] => s
  | (i, r) :: l => (s.installCore kid im i r).installCores kid im l

/-- The kernel that a LOAD makes. -/
def Image.kernel (im : Image) (p num codeBase : Nat) : Kernel :=
  let t := im.place
  { part := p, num, state := .loaded, comb := field t.w0 26 25, pers := t.w0.getLsbD 24, skewb := field t.w1 63 32
    rptag := field t.w1 31 20, rpcore := field t.w1 12 0, eptag := field t.w2 63 52, regbase := field t.w2 19 0
    regsize := field t.w2 39 20, cores := t.recs, tags := t.tags, codeBase, codeSize := im.code.length, wins := im.wins }

/-- What a LOAD comes to: its status, the kernel it made, or a page that migrates, for which it is tried again. -/
inductive Loaded
  | status (s : State) (n : Nat)
  | made (s : State) (kid : Nat)
  | hold (s : State) (st : Stall)

/-- LOAD of the object at `pa` as kernel `num` of a partition (R84). -/
def State.load (s : State) (p num pa code data : Nat) : Loaded :=
  match s.imageOf pa code data with
  | none => .status s kFORMAT
  | some im =>
    match s.placementFails im.place with
    | some n => .status s n
    | none =>
      if (s.kernelOf p num).isSome then .status s kKNUM
      else
        let d := match im.place.recs with | r :: _ => coreDie r.core | [] => 0
        match s.writeSegment d (im.code.length + 1) code im.code with
        | (s', .error (.hold st)) => .hold s' st
        | (s', .error _) => .status s' kLOADFAULT
        | (s1, .ok ()) =>
          let bytes := im.data.getD []
          match s1.writeSegment d (bytes.length + 1) data bytes with
          | (s', .error (.hold st)) => .hold s' st
          | (s', .error _) => .status s' kLOADFAULT
          | (s2, .ok ()) =>
            let kid := s2.nextKid
            let s3 := { s2 with nextKid := kid + 1, kernels := s2.kernels.put kid (im.kernel p num code) }
            .made (s3.installCores kid im im.place.indexed) kid

/-- KERNEL_LOAD: OP 1 of KCMD.p. -/
def execKernelLoad (s : State) : Res :=
  .next (s.takeKcmd fun s =>
    let p := s.ev.unit
    let c := s.ev.cmd
    if !kcmdFormOk 1 c then s.kcmdReply p kFORMAT
    else
      match s.load p (kcmdNum c) (field c.w1 47 0) (field c.w2 51 0) (field c.w3 51 0) with
      | .status s' n => s'.kcmdReply p n
      | .made s' _ => s'.kcmdReply p kOK
      | .hold s' st => { s' with ev := { s.ev with flag := true } }.await .kernelLoad st)

/-! ### LAUNCH (R85) -/

/-- The launch messages of a record of kernel `kid`, in record order. -/
def launchMsgs (kid : Nat) (k : Kernel) (r : TagRec) (payload : List Byte) : List Msg :=
  ((k.cores.drop r.first).take r.count).mapIdx fun i x =>
    { deviceMsg 0 r.tag x.core x.core 0 i payload with launch := some kid }

/-- A kernel launched with a tag record. -/
def State.launch (s : State) (kid : Nat) (k : Kernel) (r : TagRec) (payload : List Byte) : State :=
  let cores := ((k.cores.drop r.first).take r.count).map fun x => x.core
  (s.putKernel kid { k with state := .launched, launching := cores }).posts (launchMsgs kid k r payload)

/-- KERNEL_LAUNCH: OP 2 of KCMD.p. Of two records with the launch tag, on cores of their own, the first one is launched; a payload
that cannot be read (R18) answers FORMAT (DESIGN CHOICE, log entry 50). -/
def execKernelLaunch (s : State) : Res :=
  .next (s.onKernel 2 fun s kid k =>
    let c := s.ev.cmd
    match k.tags.find? fun r => r.tag == field c.w3 43 32 with
    | none => (s, some kFORMAT)
    | some r =>
      if !r.launch then (s, some kFORMAT)
      else if k.state ≠ .loaded then (s, some kKSTATE)
      else if !s.rawOk (field c.w2 47 0) (field c.w3 8 0) then (s, some kFORMAT)
      else (s.launch kid k r (s.readBytes (field c.w2 47 0) (field c.w3 8 0)), some kOK))

/-! ### The end of a kernel (R82) -/

/-- Whether a deque of a kernel's cores names one of its contexts (R260). -/
def State.dequeBusy (s : State) (kid : Nat) (k : Kernel) : Bool :=
  k.cores.any fun r =>
    (s.core r.core).deque.any fun x => ((s.core r.core).ctx x.ctx).kernel == some kid

/-- A context leaves its kernel: it waits for nothing, it is in nobody's queue, and who asked for its save is answered; its registers hold
what they held. A thunk that an aborted context was evaluating stays BLACKHOLE, with its waiters: R129 fails the force chain at a
disposition, and R82 gives ABORT no such effect, while R121 speaks of an abort of the activation (DESIGN CHOICE, log entry 57). -/
def State.freeCtx (s : State) (i : CtxId) : State :=
  let s := (s.unwait i).dropJobs i
  let c := s.ctxAt i
  let asked := match c.saveReq with | some r => r.asker | none => none
  ((s.setCtxAt i (c.ended none .free)).answerHeld c.heldReqs 1).answerSave asked 1

/-- Contexts freed one by one. -/
def State.freeCtxs (s : State) : List CtxId → State
  | [] => s
  | i :: l => (s.freeCtx i).freeCtxs l

/-- The contexts of a kernel on a core. -/
def State.ctxsOfKernel (s : State) (core kid : Nat) : List CtxId :=
  (ctxsOf core).filter fun i => (s.ctxAt i).kernel == some kid

/-- What a core gives back when a kernel ends: contexts, entries, inbox slots, barriers, views (R82, R92, R96). -/
def State.releaseCore (s : State) (kid core : Nat) : State :=
  let s := s.freeCtxs (s.ctxsOfKernel core kid)
  let keepTag (x : Nat × TagEnt) : Bool := !(x.2.v && x.2.kernel == kid)
  let keepBar (x : Nat × Bar) : Bool := x.2.kernel != some kid
  s.modCore core fun k =>
    { k with
      tags := List.filter keepTag k.tags
      inbox := List.filter (fun x => x.2.kernel != kid) k.inbox
      bars := List.filter keepBar k.bars
      views := k.views.erase kid }

/-- Every core of a kernel that ends. -/
def State.releaseCores (s : State) (kid : Nat) : List CoreRec → State
  | [] => s
  | r :: l => (s.releaseCore kid r.core).releaseCores kid l

/-- The Full slots of the shuttle channels whose delivery messages a kernel receives return to Held (R176). -/
def State.returnSlots (s : State) (kid : Nat) : List Nat → State
  | [] => s
  | d :: l =>
    let evt := (s.die d).shtEvt
    let k := s.core (field evt 12 0)
    let mine := match k.match_ (field evt 43 32) with | some n => (k.tag n).kernel == kid | none => false
    let full := (s.die (pairDie d)).shtFull
    (if mine then (s.modDie (pairDie d) fun x => { x with shtFull := 0 }).modDie d fun x => { x with shtHeld := x.shtHeld ||| full }
      else s).returnSlots kid l

/-- A kernel ends in Done or Aborted; what it was is kept with its completion word. -/
def State.endKernel (s : State) (kid : Nat) (k : Kernel) (st : KState) : State :=
  let s := (s.returnSlots kid (List.range 8)).releaseCores kid k.cores
  s.putKernel kid { k with state := st, cores := [], tags := [], launching := [], tree := [], bars := [], save := none }

/-- KERNEL_ABORT: OP 3 of KCMD.p, in any state from Loaded on; it waits until the deques are empty (R260). A persistent kernel goes to
Aborted as any other: R82 says so, and R89's Completing after an ABORT is taken for the way to Aborted (DESIGN CHOICE, log entry 50). -/
def execKernelAbort (s : State) : Res :=
  .next (s.onKernel 3 fun s kid k =>
    if s.dequeBusy kid k then (s.retryKcmd, none)
    else
      let pending : Bool := match k.save with | some v => k.state != .preempted || v.resume | none => false
      let s' := s.endKernel kid k .aborted
      (if pending = true then s'.kcmdReply k.part kKSTATE else s', some kOK))

/-- Whether a Completing kernel has drained (R82). -/
def State.drained (s : State) (kid : Nat) (k : Kernel) : Bool :=
  k.state == .completing && k.cores.all fun r =>
    (s.ctxsOfKernel r.core kid).all (fun i => (s.ctxAt i).st == .dormant && !(s.ctxAt i).reserved) &&
      !(s.core r.core).inbox.any (fun x => x.2.kernel == kid)

/-- KERNEL_DRAIN_DONE: Completing → Done. -/
def execKernelDrainDone (s : State) : Res :=
  .next (match s.kernels.find? s.ev.unit with
    | none => s
    | some k => if s.drained s.ev.unit k then s.endKernel s.ev.unit k .done else s)

/-! ### PREEMPTK and RESUME (R223) -/

/-- Every context that a kernel holds. -/
def State.kernelCtxs (s : State) (kid : Nat) (k : Kernel) : List CtxId :=
  k.cores.flatMap fun r => s.ctxsOfKernel r.core kid

/-- PREEMPT_NOTICE for a context: at once, or when its instruction is no longer under way (R216). -/
def State.notify (s : State) (i : CtxId) : State :=
  if (s.ctxAt i).inFlight then s.modCtxAt i fun c => { c with noticed := true }
  else (s.modCtxAt i fun c => { c with noticed := false }).trapAsync i { code := 0x165 }

/-- Notices to several contexts. -/
def State.notifyAll (s : State) : List CtxId → State
  | [] => s
  | i :: l => (s.notify i).notifyAll l

/-- A notice that is outstanding is taken, or lapses with the context's Ready state. -/
def State.takeNotice (s : State) (i : CtxId) : State :=
  let c := s.ctxAt i
  if !c.noticed then s
  else if c.st ≠ .ready ∧ c.st ≠ .running then s.modCtxAt i fun c => { c with noticed := false }
  else s.notify i

/-- KERNEL_PREEMPT: OP 4 of KCMD.p, of a Running kernel; it waits until the deques are empty (R260). While an earlier PREEMPTK of the kernel
is under way, or the restores of a RESUME are, it answers KSTATE: R84 gives that status to a kernel that is not Running, and says nothing
of this one (DESIGN CHOICE, log entry 37). -/
def execKernelPreempt (s : State) : Res :=
  .next (s.onKernel 4 fun s kid k =>
    let c := s.ev.cmd
    let g := field c.w2 31 0
    if k.state ≠ .running ∨ k.save.isSome then (s, some kKSTATE)
    else if s.dequeBusy kid k then (s.retryKcmd, none)
    else
      let notice := if g = 0 then [] else
        (s.kernelCtxs kid k).filter fun i => (s.ctxAt i).st == .ready || (s.ctxAt i).st == .running
      let s := (s.putKernel kid { k with save := some { area := field c.w1 47 0, notice, since := s.clock } }).notifyAll notice
      (if g = 0 then s else s.schedule (s.clock + g) .preemptGraceExpire { unit := kid, num := s.clock }, none))

/-- Whether every notified context has left trap mode or ended (R223). -/
def State.noticesAnswered (s : State) (v : KSave) : Bool :=
  v.notice.all fun i => !(s.ctxAt i).noticed && !(s.ctxAt i).trapMode && !s.entryPending i

/-- PREEMPT_GRACE_EXPIRE: the notices are waited for no longer. -/
def execPreemptGraceExpire (s : State) : Res :=
  .next (match s.kernels.find? s.ev.unit with
    | none => s
    | some k =>
      match k.save with
      | none => s
      | some v => if v.started ∨ v.resume ∨ v.since ≠ s.ev.num then s else s.putKernel s.ev.unit { k with save := some { v with notice := [] } })

/-- A context that PREEMPT_NOTICE alone has stopped, as the save of its PREEMPTK takes it: Ready at the instruction at which the notice met
it, since R386 gives the run the end that it would have had and R219 no Resume for such a trap (DEDUCED, log entry 37). -/
def Context.noticeOver (c : Context) : Context :=
  if c.st = .trapped ∧ !c.trapMode ∧ c.trapCause.getLsbD 58 ∧ field c.trapCause 8 0 = 0x165 then c.resumed else c

/-- The contexts whose image is due are saved as soon as they can be (R222). -/
def State.saveThese (s : State) : List CtxId → State
  | [] => s
  | i :: l =>
    let c := s.ctxAt i
    let start : State := if s.holdsSave i then s else (s.setCtxAt i c.noticeOver).startSave i { image := s.saveArea i }
    (match c.st with
      | .ready => start
      | .running => start
      | .waiting => start
      | .trapped => start
      | .dormant => if c.reserved then s else start
      | .free => s
      | .saving => s
      | .saved => s.kernelImage i false
      | .restoring => s).saveThese l

/-- The images of contexts whose die has stopped end in error (R226; DEDUCED, log entry 37). -/
def State.failGone (s : State) : List CtxId → State
  | [] => s
  | i :: l => (s.kernelImage i true).failGone l

/-- What a PREEMPTK or a RESUME goes on with. -/
def State.saveProgress (s : State) (kid : Nat) : State :=
  match (s.kernels.find? kid).bind (·.save) with
  | none => s
  | some v =>
    let s := s.failGone (v.images.filter fun i => (s.die (coreDie i.core)).stopped)
    if v.started ∧ !v.resume then
      match (s.kernels.find? kid).bind (·.save) with
      | some v => s.saveThese v.images
      | none => s
    else s

/-- KERNEL_SAVE_START: the contexts that are not Saved go to Saving. -/
def execKernelSaveStart (s : State) : Res :=
  let kid := s.ev.unit
  .next (match s.kernels.find? kid with
    | none => s
    | some k =>
      match k.save with
      | none => s
      | some v =>
        if v.started ∨ v.resume ∨ k.state ≠ .running ∨ !s.noticesAnswered v then s
        else
          let all := (s.kernelCtxs kid k).filter fun i => (s.ctxAt i).st != .free && (s.ctxAt i).st != .saved
          (s.putKernel kid { k with save := some { v with started := true, images := all, taken := all } }).saveProgress kid)

/-- The engines of the clusters that hold a core of a kernel, in ascending order (R223). -/
def Kernel.engines (k : Kernel) : List Nat :=
  (k.cores.map fun r => coreEngine r.core).foldl (fun l n => if l.contains n then l else insertNat n l) []
where
  insertNat (n : Nat) : List Nat → List Nat
    | [] => [n]
    | m :: l => if n ≤ m then n :: m :: l else m :: insertNat n l

/-- Whether an engine command was pushed by a context of a kernel. -/
def State.cmdOf (s : State) (kid : Nat) (c : EngCmd) : Bool :=
  (s.ctxAt c.src).kernel == some kid

/-- Whether no job of the kernel is under way on an engine. -/
def State.enginesIdle (s : State) (kid : Nat) (k : Kernel) : Bool :=
  k.engines.all fun n => !(s.engine n).queue.any fun c => c.started && s.cmdOf kid c

/-- The kernel block of a core (R223). -/
def State.coreBlock (s : State) (kid : Nat) (k : Kernel) (core : Nat) : List Byte :=
  wordsBytes ((List.range 64).map fun n =>
      let b := (s.core core).bar n
      if b.kernel = some kid then b.reg else 0)
    ++ wordsBytes ((List.range 4).map fun n => s.gbarReg core kid n)
    ++ List.replicate 32 0 ++ s.readBytes (spadBase core + k.regbase) k.regsize

/-- The header of the kernel block (R223; DEDUCED, log entry 37). -/
def Kernel.blockHeader (k : Kernel) : List Byte :=
  wordsBytes [at_ 0 1 ||| at_ 16 k.cores.length ||| at_ 32 k.epoch, 0, 0, 0, 0, 0, 0, 0]

/-- The accumulators of an engine, row by row. -/
def Engine.accBytes (e : Engine) (n : Nat) : List Byte :=
  (List.range (accDim n * accDim n)).flatMap fun i => bytesOfNat 4 (e.acc.get 0 i).toNat

/-- A kind of command as a number. -/
def EngKind.code : EngKind → Nat
  | .job => 0
  | .accLoad => 1
  | .accStore => 2
  | .matmul => 3

/-- A queued command in a ring state: what it is in word 0, then its words. -/
def EngCmd.record (c : EngCmd) : List Word :=
  (at_ 0 c.kind.code ||| at_ 2 (c.id % 65536) ||| bitAt 18 c.inf ||| bitAt 19 c.remote ||| at_ 20 (c.src.ctx % 8)
    ||| at_ 24 (c.src.core % 8192)) :: (List.range 4).map c.w

/-- Bytes of a ring state. -/
def ringStateSize : Nat := 2048

/-- The ring state of an engine, whose layout the spec does not give (DESIGN CHOICE, log entry 37): two words for each ring, the
number of queued commands of the kernel, and five words for each of them. The evaluation of a thunk is no job: its FORCE issues again. -/
def State.ringState (s : State) (kid n : Nat) : List Byte :=
  let e := s.engine n
  let jobs := e.queue.filter fun c => s.cmdOf kid c && c.kind != .matmul
  padTo ringStateSize (wordsBytes ((List.range 32).flatMap (fun i =>
      let r := e.ring i
      [r.desc.zeroExtend 64, at_ 0 r.tail ||| at_ 16 r.head ||| at_ 32 r.count])
    ++ BitVec.ofNat 64 jobs.length :: jobs.flatMap EngCmd.record))

/-- Everything that PREEMPTK writes after the context images (R223). -/
def State.kernelBlock (s : State) (kid : Nat) (k : Kernel) : List Byte :=
  k.blockHeader ++ (k.cores.flatMap fun r => s.coreBlock kid k r.core)
    ++ (k.engines.flatMap fun n => (s.engine n).accBytes n ++ s.ringState kid n)

/-- An engine's queue without a kernel's commands. -/
def State.unqueue (s : State) (kid : Nat) : List Nat → State
  | [] => s
  | n :: l =>
    (s.modEngine n fun e => { e with queue := List.filter (fun c => !s.cmdOf kid c) e.queue }).unqueue kid l

/-- The contexts that a PREEMPTK took return from their images. -/
def State.restoreThese (s : State) : List CtxId → State
  | [] => s
  | i :: l =>
    let c := s.ctxAt i
    (match c.st, c.image with
      | .saved, some (addr, virt) =>
        (s.setCtxAt i { c with st := .restoring, saveReq := some { image := addr, virt, prior := .saved } }).later
          .restoreComplete (evCtx i)
      | _, _ => s).restoreThese l

/-- Whether a PREEMPTK has only its kernel block left to write. An epoch that its root completes meanwhile has not ended (see
`Kernel.paused`), so that the kernel is Running still. -/
def State.saveEnding (s : State) (kid : Nat) (k : Kernel) : Bool :=
  match k.save with
  | none => false
  | some v => k.state == .running && v.started && !v.resume && v.images.isEmpty && (v.failed || s.enginesIdle kid k)

/-- KERNEL_SAVE_DONE: Preempted, or still Running with status FAULT after a write that faulted. The regions of a core that is not mapped
any more are unpopulated (R23), so that their save faults too (DEDUCED, log entry 37). -/
def execKernelSaveDone (s : State) : Res :=
  let kid := s.ev.unit
  .next (match s.kernels.find? kid with
    | none => s
    | some k =>
      match k.save with
      | none => s
      | some v =>
        if !s.saveEnding kid k then s
        else
          let back : State :=
            (((s.putKernel kid { k with save := none }).restoreThese v.taken).treeStep kid 0).kcmdReply k.part kSAVEFAULT
          if v.failed then back
          else
            match if k.cores.all (fun r => s.coreMapped r.core) then s.writeImage 0 false v.area (s.kernelBlock kid k) else none with
            | none => back
            | some s' =>
              ((s'.putKernel kid { k with state := .preempted }).unqueue kid k.engines).kcmdReply k.part kOK)

/-- BAR.N from what was saved of it (R95, R96). -/
def barOf (kid : Nat) (w : Word) : Bar :=
  { expect := w.extractLsb' 48 16, arr := w.extractLsb' 32 16, gen := w.extractLsb' 16 16, amask := w.extractLsb' 8 8
    state := field w 2 0, kernel := some kid }

/-- A core's part of the kernel block put back. -/
def State.restoreCore (s : State) (kid : Nat) (k : Kernel) (core : Nat) (bytes : List Byte) : State :=
  let s := s.modCore core fun c =>
    { c with bars := (List.range 64).foldl (fun m n =>
        if (c.bar n).kernel = some kid then m.put n (barOf kid (wordAt bytes n)) else m) c.bars }
  let s := (List.range 4).foldl (fun s n =>
    let w := wordAt bytes (64 + n)
    let b := s.gbarAt core kid n
    s.setGbar core kid n { b with gen := w.extractLsb' 16 16, arv := w.getLsbD 3 }) s
  s.writeBytes (spadBase core + k.regbase) ((bytes.drop 576).take k.regsize)

/-- Every core's part, in record order. -/
def State.restoreCores (s : State) (kid : Nat) (k : Kernel) : List CoreRec → List Byte → State
  | [], _ => s
  | r :: l, bytes => (s.restoreCore kid k r.core bytes).restoreCores kid k l (bytes.drop (576 + k.regsize))

/-- The accumulators of an engine from bytes. -/
def accOf (n : Nat) (bytes : List Byte) : FMap Word32 :=
  (List.range (accDim n * accDim n)).foldl (fun m i =>
    m.set 0 i (BitVec.ofNat 32 (natOfBytes ((bytes.drop (4 * i)).take 4)))) []

/-- The command that a record of a ring state holds. -/
def cmdOfRecord (clock : Nat) (w : Nat → Word) : EngCmd :=
  let kinds := [EngKind.job, .accLoad, .accStore, .matmul]
  { kind := kinds.getD (field (w 0) 1 0) .job, words := (List.range 4).map fun i => w (i + 1), cmd := 0, id := field (w 0) 17 2
    src := { core := field (w 0) 36 24, ctx := field (w 0) 22 20 }, inf := (w 0).getLsbD 18, remote := (w 0).getLsbD 19
    started := false, since := clock, flags := 0, fault := 0 }

/-- An engine with an image put back: the accumulators, the rings, and the jobs queued again (R223). -/
def Engine.restored (e : Engine) (clock n : Nat) (bytes : List Byte) : Engine :=
  let size := 4 * accDim n * accDim n
  let w (i : Nat) : Word := wordAt (bytes.drop size) i
  let ring (i : Nat) : Ring :=
    { desc := (w (2 * i)).truncate 32, tail := field (w (2 * i + 1)) 15 0, head := field (w (2 * i + 1)) 31 16
      count := field (w (2 * i + 1)) 47 32 }
  let jobs := (List.range (min 32 (w 64).toNat)).map fun j => cmdOfRecord clock fun i => w (65 + 5 * j + i)
  { e with
    rings := (List.range 32).foldl (fun m i => m.put i (ring i)) [], acc := accOf n (bytes.take size), queue := e.queue ++ jobs }

/-- The matrix-side images of several engines. -/
def State.restoreEngines (s : State) : List Nat → List Byte → State
  | [], _ => s
  | n :: l, bytes =>
    (s.modEngine n (·.restored s.clock n bytes)).restoreEngines l (bytes.drop (4 * accDim n * accDim n + ringStateSize))

/-- Whether an image of a context can be restored. -/
def State.imageReady (s : State) (i : CtxId) : Bool :=
  match (s.ctxAt i).image with
  | none => false
  | some (addr, virt) =>
    match s.readImage (coreDie i.core) virt addr imageSize with
    | none => false
    | some bytes => imageOk bytes

/-- Size of a kernel block. -/
def Kernel.blockSize (k : Kernel) : Nat :=
  64 + k.cores.length * (576 + k.regsize) + (k.engines.map fun n => 4 * accDim n * accDim n + ringStateSize).foldl (· + ·) 0

/-- KERNEL_RESUME: OP 5 of KCMD.p, of a Preempted kernel, which is Running from now on: the matrix side, the kernel block, then the
contexts; an epoch whose end had to wait ends (R82, R386). A core that is not mapped any more has no regions to restore (R23; DEDUCED, log
entry 37). -/
def execKernelResume (s : State) : Res :=
  .next (s.onKernel 5 fun s kid k =>
    match k.state, k.save with
    | .preempted, some v =>
      match s.readImage 0 false (field s.ev.cmd.w1 47 0) k.blockSize with
      | none => (s, some kSAVEFAULT)
      | some bytes =>
        if field (wordAt bytes 0) 15 0 ≠ 1 then (s, some kFORMAT)
        else if !v.taken.all s.imageReady || !k.cores.all (fun r => s.coreMapped r.core) then (s, some kSAVEFAULT)
        else
          let s1 := s.restoreEngines k.engines (bytes.drop (64 + k.cores.length * (576 + k.regsize)))
          let s2 := s1.restoreCores kid k k.cores (bytes.drop 64)
          if v.taken = [] then ((s2.putKernel kid { k with state := .running, save := none }).treeStep kid 0, some kOK)
          else
            let k' : Kernel :=
              { k with state := .running, save := some { v with resume := true, images := v.taken, failed := false } }
            (((s2.putKernel kid k').restoreThese v.taken).treeStep kid 0, none)
    | _, _ => (s, some kKSTATE))

end Sys2Proof.Machine
end

