-- ==== Sys2Proof/Machine/Migration.lean ====
section
/-!
DEFINITION. Sys2Proof/Machine/Migration.lean: page migration (R154 to R157). A migration that has not begun has phase 0, one
that streams phase 1, one whose leaf is rewritten phase 2; in the last two its destination frame names it.
-/

namespace Sys2Proof.Machine

open Sys2Proof

/-- Statuses of R155. -/
def gDONE : Nat := 0
def gNOTLEAF : Nat := 1
def gPINNED : Nat := 2
def gBUSY : Nat := 3
def gBADDEST : Nat := 4
def gCHANGED : Nat := 5
def gFAULT : Nat := 6
def gFORM : Nat := 7

def migPage (c : Cmd4) : Nat := field c.w0 51 16
def migSid (c : Cmd4) : Nat := field c.w0 15 0
def migDest (c : Cmd4) : Nat := field c.w1 47 16
def migTag (c : Cmd4) : Nat := field c.w2 43 32
def migCore (c : Cmd4) : Nat := field c.w2 12 0

/-- The reserved bits of a command (R155). -/
def migFormOk (c : Cmd4) : Bool :=
  field c.w0 63 52 == 0 && field c.w1 63 48 == 0 && field c.w1 15 0 == 0 && field c.w2 63 44 == 0 &&
    field c.w2 31 13 == 0 && c.w3 == 0

/-- The message that ends a command (R155, R413). -/
def migMsg (c : Cmd4) (status : Nat) : Msg :=
  deviceMsg 3 (migTag c) (migCore c) (migCore c) 0 status []

/-- The space a SID names: the die's own, or that of another die with the SID (DEDUCED, log entry 38). -/
def State.spaceOf (s : State) (d sid : Nat) : Option Word :=
  (((s.die d).space :: s.dies.map fun x => x.2.space).find? fun w => spaceSid w == sid && spaceEn w)

/-- Whether a frame is the source or destination of a migration in progress. -/
def State.frameBusy (s : State) (frame : Nat) : Bool :=
  s.dies.any fun x => x.2.migs.any fun m =>
    m.phase != 0 && (migDest m.cmd == frame || pteAddr m.leaf / 0x10000 == frame)

/-- A command put in the queue of a die, which has room for 16 (R155). -/
def State.queueMigration (s : State) (d : Nat) (c : Cmd4) : Option State :=
  if 16 ≤ (s.die d).migs.length then none
  else
    some ((s.modDie d fun x => { x with migs := x.migs ++ [{ cmd := c, leafAt := 0, leaf := 0, phase := 0, poison := false }] }).later
      .migrationCommand { unit := d, cmd := c })

/-- The migration that a destination frame names. -/
def State.migOf (s : State) (d frame : Nat) : Option Migration :=
  (s.die d).migs.find? fun m => m.phase != 0 && migDest m.cmd == frame

/-- A migration ends: its record goes and its message is sent. -/
def State.endMigration (s : State) (d : Nat) (m : Migration) (status : Nat) : State :=
  (s.modDie d fun x => { x with migs := x.migs.erase m }).post (migMsg m.cmd status)

/-! ### The queue of a frame (R156, R157) -/

/-- The first request of a queue has its turn now; a context issues its instruction again. -/
def State.giveTurn (s : State) (frame : Nat) (r : FrameHold) : State :=
  match r.queue with
  | [] => { s with frames := s.frames.erase frame }
  | x :: _ =>
    let s : State := { s with frames := s.frames.put frame { r with streaming := false, turn := some s.clock } }
    match x.asker with
    | .ctx i =>
      s.modCtxAt i fun c =>
        match c.stall with
        | some (.migration f _) => if f = frame then { c with stall := none } else c
        | _ => c
    | .event _ _ => s

/-- The requests that a frame has queued are applied from now on, in their order, where the frame is. -/
def State.drainFrame (s : State) (frame : Nat) : State :=
  match s.frames.find? frame with
  | some r => s.giveTurn frame r
  | none => s

/-- The requests that a frame has queued will be applied at this frame. -/
def State.drainAt (s : State) (frame dest : Nat) : State :=
  match s.frames.find? frame with
  | some r => { s with frames := s.frames.put frame { r with dest, streaming := false } }
  | none => s

/-- Whether a request has had its turn, at the end of a cycle: its instruction has issued, or its context cannot issue any more; an
event has been carried out in every cycle since. -/
def State.turnOver (s : State) (x : Held) (t : Nat) : Bool :=
  match x.asker with
  | .ctx i =>
    let c := s.ctxAt i
    s.issued.contains i || !(c.st == .ready || c.st == .running) || c.stall.isSome || c.full || !s.coreRuns i.core
  | .event _ _ => decide (t < s.clock)

/-- The turns of the queues at the end of a cycle. -/
def State.nextTurns (s : State) : FMap FrameHold → State
  | [] => s
  | (frame, r) :: l =>
    match r.queue, r.turn with
    | x :: rest, some t => (if s.turnOver x t then s.giveTurn frame { r with queue := rest } else s).nextTurns l
    | _, _ => s.nextTurns l

/-- Whether a migration out of a frame must wait: the page is Redirecting (R154), or a queue has not been applied to the frame yet
(DESIGN CHOICE, log entry 17). -/
def State.frameUnsettled (s : State) (frame : Nat) : Bool :=
  s.redirs.any (fun e => e.2 == frame) || s.frames.any fun x => x.1 == frame || x.2.dest == frame

/-- MIGRATION_COMMAND: the checks of R155, then MIG := 1 by CAS, from which on the home queues every request for the frame. -/
def execMigrationCommand (s : State) : Res :=
  let d := s.ev.unit
  let c := s.ev.cmd
  let q : Migration := { cmd := c, leafAt := 0, leaf := 0, phase := 0, poison := false }
  .next (if !(s.die d).migs.contains q then s
    else if !migFormOk c then s.endMigration d q gFORM
    else
      match s.spaceOf d (migSid c) with
      | none => s.endMigration d q gNOTLEAF
      | some space =>
        match s.walk d space (migPage c * 0x10000) with
        | .error _ => s.endMigration d q gNOTLEAF
        | .ok l =>
          let dest := migDest c
          if l.bits ≠ 16 then s.endMigration d q gNOTLEAF
          else if ptePn l.pte then s.endMigration d q gPINNED
          else if pteMig l.pte then s.endMigration d q gBUSY
          else if s.frameUnsettled (pteAddr l.pte / 0x10000) then s.later .migrationCommand s.ev
          else if !isHbm (dest * 0x10000) ∨ dest = pteAddr l.pte / 0x10000 ∨ s.frameBusy dest then s.endMigration d q gBADDEST
          else
            let m : Migration := { cmd := c, leafAt := l.at_, leaf := l.pte, phase := 1, poison := false }
            let s1 := (s.writeWord l.at_ (l.pte ||| bitAt 57 true)).modDie d fun x => { x with migs := m :: x.migs.erase q }
            let s2 : State := { s1 with frames := s1.frames.put (pteAddr l.pte / 0x10000) { dest, streaming := true, queue := [] } }
            s2.later .migrationStreamDone { unit := d, sub := dest })

/-- The leaf after step 3 (R156). -/
def movedLeaf (leaf : Word) (dest : Nat) : Word :=
  (leaf &&& ~~~(at_ 12 (2 ^ 36 - 1)) &&& ~~~(bitAt 57 true)) ||| at_ 16 dest

/-- The cores that hold a leaf of a page: their next request goes to the old home, which forwards it. -/
def State.staleCores (s : State) (sid page : Nat) : List Nat :=
  (s.cores.filter fun x => (s.cachedLeaf x.1 sid (page * 0x10000)).isSome).map fun x => x.1

/-- Forwarded requests, one for each core with a stale leaf. -/
def State.forwards (s : State) (page : Nat) : List Nat → State
  | [] => s
  | id :: l => (s.later .staleRequestForward { unit := id, w0 := BitVec.ofNat 64 (page * 0x10000) }).forwards page l

/-- Whether another migration streams on the leaf that a migration began with: software has changed the leaf in between (R154). -/
def State.leafTaken (s : State) (m : Migration) : Bool :=
  s.dies.any fun x => x.2.migs.any fun y => y.phase == 1 && y.leafAt == m.leafAt && y != m

/-- A migration fails (R157): the leaf loses MIG, where it has it still and not by another migration, the destination is unchanged, and the
queue is applied at the old frame. -/
def State.failMigration (s : State) (d : Nat) (m : Migration) (status : Nat) : State :=
  let w := s.readWord m.leafAt
  let s := if pteV w && pteL w && pteMig w && !s.leafTaken m then s.writeWord m.leafAt (w &&& ~~~(bitAt 57 true)) else s
  let frame := pteAddr m.leaf / 0x10000
  ((s.endMigration d m status).drainAt frame frame).drainFrame frame

/-- MIGRATION_STREAM_DONE: the frame copied and the leaf rewritten by CAS; a poisoned line, or then a leaf that software has changed,
ends the migration with the destination unchanged (R156, R157). -/
def execMigrationStreamDone (s : State) : Res :=
  let d := s.ev.unit
  let dest := s.ev.sub
  .next (match s.migOf d dest with
    | none => s
    | some m =>
      if m.phase ≠ 1 then s
      else
        let sid := migSid m.cmd
        let page := migPage m.cmd
        let src := pteAddr m.leaf
        if (s.firstPoison ((List.range 8192).map fun i => src + 8 * i)).isSome then s.failMigration d m gFAULT
        else if s.readWord m.leafAt ≠ m.leaf ||| bitAt 57 true then s.failMigration d m gCHANGED
        else
          let s := s.writeBytes (dest * 0x10000) (s.readBytes src 0x10000)
          let s := s.writeWord m.leafAt (movedLeaf m.leaf dest)
          let m' := { m with phase := 2 }
          let s := s.modDie d fun x =>
            { x with migs := x.migs.map fun y => if y = m then m' else y
                     redirs := x.redirs.put (src / 0x10000) dest }
          ((((s.drainAt (src / 0x10000) dest).now .redirectNotice { unit := d, sub := dest }).forwards page (s.staleCores sid page))).later
            .migrationInvalidationDone { unit := d, sub := dest })

/-- REDIRECT_NOTICE: the queue goes to the new home. -/
def execRedirectNotice (s : State) : Res :=
  .next (match s.migOf s.ev.unit s.ev.sub with
    | none => s
    | some m => if m.phase = 2 then s.drainFrame (pteAddr m.leaf / 0x10000) else s)

/-- A redirect ends; one that leads to its old frame leads on to the new one. -/
def State.endRedirect (s : State) (frame dest : Nat) : State :=
  let f (d : Die) : Die := { d with redirs := (d.redirs.erase frame).map fun e => (e.1, if e.2 = frame then dest else e.2) }
  { s with dies := s.dies.map fun x => (x.1, f x.2) }

/-- MIGRATION_INVALIDATION_DONE: no cache holds the page any more, the old home forwards nothing, the command ends. -/
def execMigrationInvalidationDone (s : State) : Res :=
  let d := s.ev.unit
  .next (match s.migOf d s.ev.sub with
    | none => s
    | some m =>
      if m.phase ≠ 2 then s
      else
        let s1 := s.dropLeaves (s.cores.map fun x => x.1) (·.inRange (migSid m.cmd) (migPage m.cmd) 1)
        (s1.endRedirect (pteAddr m.leaf / 0x10000) (migDest m.cmd)).endMigration d m gDONE)

end Sys2Proof.Machine
end

