-- ==== Sys2Proof/Machine/Manage.lean ====
section
/-!
DEFINITION. Sys2Proof/Machine/Manage.lean: the management block (R20 to R23, R402 to R412), boot and attestation (R405 to
R407), ownership (R410), errors and trips (R224 to R227), and every event that a master outside or a partition causes.
-/

namespace Sys2Proof.Machine

open Sys2Proof

/-! ### Registers of the management block (R411) -/

/-- A management register by its address; `n`, `i` are its indices, `d` a die, `id` a logical core id. -/
inductive MReg
  | claim
  | stat
  | boot
  | dump
  | vwin
  | grpPkg
  | attCtl
  | nonce (i : Nat)
  | go
  | part (p : Nat)
  | bhImg (p : Nat)
  | kcmd (p i : Nat)
  | isl (n : Nat)
  | gust (d : Nat)
  | bhKey (p i : Nat)
  | attBuf (i : Nat)
  | coreTable (d m : Nat)
  | errLog (d : Nat)
  | errThr (d : Nat)
  | saveBase (d : Nat)
  | kvRing (d : Nat)
  | shtOut (d : Nat)
  | shtEvt (d : Nat)
  | space (d : Nat)
  | rtbase (d : Nat)
  | migQueue (d i : Nat)
  | kilnQueue (d i : Nat)
  | spmove (d : Nat)
  | mxcap (d cl : Nat)
  | cap (id i : Nat)
  | ccap (id : Nat)
  | trapVec (id : Nat)
  | wdog (id : Nat)
  | command (id c : Nat)
  | noCore
  | port (n : Nat)
  | inBase (n : Nat)
  | inLim (n : Nat)
  | peer (p : Nat)
  | bar (addr : Nat)
  | absent
deriving DecidableEq, Repr

/-- The package block. -/
def packageReg (o : Nat) : MReg :=
  if o = 0x000 then .claim
  else if o = 0x008 then .stat
  else if o = 0x010 then .boot
  else if o = 0x018 then .dump
  else if o = 0x020 then .vwin
  else if o = 0x030 then .grpPkg
  else if o = 0x038 then .attCtl
  else if 0x040 ≤ o ∧ o < 0x060 then .nonce ((o - 0x040) / 8)
  else if o = 0x060 then .go
  else if 0x100 ≤ o ∧ o < 0x140 then .part ((o - 0x100) / 8)
  else if 0x140 ≤ o ∧ o < 0x180 then .bhImg ((o - 0x140) / 8)
  else if 0x200 ≤ o ∧ o < 0x300 then .kcmd ((o - 0x200) / 32) (o % 32 / 8)
  else if 0x400 ≤ o ∧ o < 0x500 then .isl ((o - 0x400) / 8)
  else if 0x500 ≤ o ∧ o < 0x540 then .gust ((o - 0x500) / 8)
  else if 0x800 ≤ o ∧ o < 0x900 then .bhKey ((o - 0x800) / 32) (o % 32 / 8)
  else if 0x1000 ≤ o ∧ o < 0x1D08 then .attBuf ((o - 0x1000) / 8)
  else .absent

/-- The block of a die. -/
def dieReg (d o : Nat) : MReg :=
  if o / 8 < dieClusters d * 4 then .coreTable d (o / 8)
  else if o = 0x1000 then .errLog d
  else if o = 0x1008 then .errThr d
  else if o = 0x1010 then .saveBase d
  else if o = 0x1018 then .kvRing d
  else if o = 0x1020 then .shtOut d
  else if o = 0x1028 then .shtEvt d
  else if o = 0x1030 then .space d
  else if o = 0x1038 then .rtbase d
  else if 0x1040 ≤ o ∧ o < 0x1060 then .migQueue d ((o - 0x1040) / 8)
  else if 0x1060 ≤ o ∧ o < 0x1080 then .kilnQueue d ((o - 0x1060) / 8)
  else if o = 0x1080 then .spmove d
  else if 0x2000 ≤ o ∧ o < 0x2000 + 8 * dieClusters d then .mxcap d ((o - 0x2000) / 8)
  else .absent

/-- The block of a core. -/
def coreReg (id o : Nat) : MReg :=
  if !coreExists id then .noCore
  else if o < 0x100 then .cap id (o / 8)
  else if o = 0x100 then .ccap id
  else if o = 0x108 then .trapVec id
  else if o = 0x110 then .wdog id
  else if 0x140 ≤ o ∧ o < 0x180 then .command id ((o - 0x140) / 8)
  else .absent

/-- The port block. -/
def portReg (o : Nat) : MReg :=
  if o < 0x50 then .port (o / 8)
  else if 0x100 ≤ o ∧ o < 0x180 then (if o % 16 = 0 then .inBase ((o - 0x100) / 16) else .inLim ((o - 0x100) / 16))
  else if 0x1000 ≤ o ∧ o < 0x3000 then .peer ((o - 0x1000) / 8)
  else .absent

/-- The register at a physical address (R18, R411). -/
def mregOf (addr : Nat) : MReg :=
  let o := addr - 0x011000000000
  if addr < 0x011000000000 ∨ o % 8 ≠ 0 then .absent
  else if o < 0x01000000 then packageReg o
  else if o < 0x01800000 then dieReg ((o - 0x01000000) / 0x100000) (o % 0x100000)
  else if o < 0x02000000 then .absent
  else if o < 0x04000000 then coreReg ((o - 0x02000000) / 0x1000) (o % 0x1000)
  else if o < 0x05000000 then portReg (o - 0x04000000)
  else if 0x80000000 ≤ o ∧ o < 0x100000000 then .bar addr
  else .absent

/-! ### The core table and spares (R20 to R22) -/

/-- Bits 10:0, the physical position. -/
def entryPos (e : Word32) : Nat := e.toNat % 2048
def entryV (e : Word32) : Bool := e.getLsbD 31

/-- An entry as it is stored: SP follows from PCLUS (R20). -/
def entryStored (d : Nat) (v : Word32) : Word32 :=
  let sp : Bool := decide (dieClusters d ≤ entryPos v / 8)
  (v &&& 0xC00007FF) ||| (if sp then 0x20000000 else 0)

/-- The entries of a die, in order. -/
def State.entries (s : State) (d : Nat) : List (Nat × Word32) :=
  (List.range (dieClusters d * 8)).map fun n => (n, s.tableEntry (d * 1024 + n))

/-- Whether another valid entry of the die uses a position. -/
def State.positionUsed (s : State) (d n pos : Nat) : Bool :=
  (s.entries d).any fun x => x.1 != n && entryV x.2 && entryPos x.2 == pos

/-- Whether a context of a core is in a state that keeps it where it is (R21, R22). -/
def State.coreActive (s : State) (id : Nat) : Bool :=
  (ctxsOf id).any fun i =>
    match (s.ctxAt i).st with
    | .ready => true
    | .running => true
    | .waiting => true
    | .trapped => true
    | .saving => true
    | .restoring => true
    | .free => false
    | .dormant => false
    | .saved => false

/-- The checks of a write of entry `n` (R21): a position changes only after a move to it, and only to a free one; an entry becomes
valid only at a free one. R21 names no order of its two statuses: BUSY comes first (DESIGN CHOICE, log entry 49). -/
def State.entryCheck (s : State) (d n : Nat) (v : Word32) : Nat :=
  let old := s.tableEntry (d * 1024 + n)
  if entryPos v = entryPos old then (if entryV v ∧ s.positionUsed d n (entryPos v) then mCONFLICT else mOK)
  else
    let moved := match (s.die d).moved.find? n with | some m => m.pos == entryPos v | none => false
    if s.coreActive (d * 1024 + n) || !moved then mBUSY
    else if s.positionUsed d n (entryPos v) then mCONFLICT
    else mOK

/-- The state that a move has copied becomes the core's (R22); the ingress queue of HOLD is the logical core's own. -/
def State.applyMove (s : State) (id : Nat) (m : Moved) : State :=
  let base := spadBase id
  let inside (a : Nat) : Bool := decide (base ≤ a) && decide (a < base + spadBytes (coreDie id))
  let kept : FMap Byte := List.filter (fun x => !inside x.1) s.mem
  let s := { s with mem := m.pad.foldl (fun (l : FMap Byte) (x : Nat × Byte) => l.set memDefault (base + x.1) x.2) kept }
  s.setCore id { m.core with hold := (s.core id).hold, tlb := [] }

/-- Entry `n` written. A core whose V is cleared keeps its contexts, inbox, held messages and scratchpad, and comes back with them where V is
set again at the same position: R23 does not say what it holds then (DESIGN CHOICE, log entry 27). -/
def State.writeEntry (s : State) (d n : Nat) (v : Word32) : State :=
  let old := s.tableEntry (d * 1024 + n)
  let v := entryStored d v
  let s' := s.modDie d fun x => { x with table := x.table.put n v }
  if entryPos v = entryPos old then s'
  else
    match (s.die d).moved.find? n with
    | none => s'
    | some m => (s'.applyMove (d * 1024 + n) m).modDie d fun x => { x with moved := x.moved.erase n }

/-- A write of two entries (R411): each that changes is checked, and then both change or neither. The second is checked against the
table with the first one written (DESIGN CHOICE, log entry 49). -/
def State.writeTable (s : State) (d m : Nat) (v : Word) : State × Nat :=
  let a : Word32 := v.truncate 32
  let b : Word32 := v.extractLsb' 32 32
  let ca := if a = s.tableEntry (d * 1024 + 2 * m) then mOK else s.entryCheck d (2 * m) a
  let s1 := s.writeEntry d (2 * m) a
  let cb := if b = s.tableEntry (d * 1024 + 2 * m + 1) then mOK else s1.entryCheck d (2 * m + 1) b
  if ca ≠ mOK then (s, ca)
  else if cb ≠ mOK then (s, cb)
  else (s1.writeEntry d (2 * m + 1) b, mOK)

/-- Fields of DIE.SPMOVE (R22). -/
def spCore (w : Word) : Nat := field w 12 0
def spSpare (w : Word) : Nat := field w 21 16
def spBusy (w : Word) : Bool := w.getLsbD 62
def spRegister (busy : Bool) (stat spare core : Nat) : Word :=
  bitAt 62 busy ||| at_ 59 stat ||| at_ 16 spare ||| at_ 0 core

/-- The position of spare `n` of a die. -/
def sparePos (d n : Nat) : Nat := dieClusters d * 8 + n

/-- A write of DIE.SPMOVE. A SPARE at the position that CORE's own entry uses ends with STAT 2 as one at another's: R22 speaks of another
valid entry, and says nothing else of this case (DESIGN CHOICE, log entry 27). -/
def State.writeSpmove (s : State) (d : Nat) (v : Word) : State × Nat :=
  let old := (s.die d).spmove
  let id := spCore v
  let set (busy : Bool) (stat : Nat) : State := s.modDie d fun x => { x with spmove := spRegister busy stat (spSpare v) id }
  let k := s.core id
  if spBusy old then (s, mBUSY)
  else if !v.getLsbD 63 then (set false (field old 61 59), mOK)
  else if field v 58 22 ≠ 0 ∨ field v 15 13 ≠ 0 ∨ (!isM d ∧ 32 ≤ spSpare v) ∨ coreDie id ≠ d ∨ !s.coreMapped id then (set false 3, mOK)
  else if !s.coreHeld id ∨ s.coreActive id ∨ k.deque ≠ [] ∨ k.copies ≠ [] then (set false 1, mOK)
  else if (s.entries d).any (fun x => entryV x.2 && entryPos x.2 == sparePos d (spSpare v)) then (set false 2, mOK)
  else ((set true (field old 61 59)).later .spmoveDone { unit := d }, mOK)

/-- SPMOVE_DONE: the copy is complete, or poisoned bits of the scratchpad or of a slot end it with FAULT (R22, R224). -/
def execSpmoveDone (s : State) : Res :=
  let d := s.ev.unit
  let w := (s.die d).spmove
  let id := spCore w
  let base := spadBase id
  .next (if !spBusy w then s
    else if (s.firstPoison ((List.range (spadBytes d / 8)).map fun i => base + 8 * i)).isSome
        ∨ (s.core id).inbox.any (fun x => !x.2.ecc.isEmpty) then
      s.modDie d fun x => { x with spmove := spRegister false 4 (spSpare w) id }
    else
      let inside (x : Nat × Byte) : Bool := decide (base ≤ x.1) && decide (x.1 < base + spadBytes d)
      let m : Moved :=
        { pos := sparePos d (spSpare w), core := s.core id, pad := (List.filter inside s.mem).map fun x => (x.1 - base, x.2) }
      s.modDie d fun x =>
        { x with spmove := spRegister false 0 (spSpare w) id, moved := x.moved.put (id % 1024) m })

/-! ### Islands and tokens (R402, R403) -/

def State.setIsland (s : State) (n : Nat) (i : Island) : State :=
  let m := s.mgmt
  { s with mgmt := { m with islands := m.islands.put n i } }

/-- Whether a die holds a kernel from Loaded to Completing (R402). -/
def State.dieHolds (s : State) (d : Nat) : Bool :=
  s.kernels.any fun x => x.2.live && x.2.state != .preempted && x.2.cores.any fun r => coreDie r.core == d

/-- A write of ISL.n. -/
def State.writeIsland (s : State) (n : Nat) (v : Word) : State × Nat :=
  let i := s.island n
  let freq := field v 47 36
  let tlim := field v 15 8
  let st := field v 1 0
  let freqOk : Bool := decide (250 ≤ freq) && decide (freq ≤ 2000) && freq % 125 == 0
  if (n < 8 ∧ !freqOk) ∨ tlim < 85 ∨ 115 < tlim ∨ st = 3 then (s, mFORM)
  else if i.state = 3 then (s, mSTATE)
  else if st ≠ 1 ∧ n < 24 ∧ s.dieHolds (n % 8) then (s, mBUSY)
  else (s.setIsland n { freq := if n < 8 then freq else i.freq, tlim, state := st }, mOK)

/-- ISL.n as it reads: VOLT and TEMP are what the sensors say now (DESIGN CHOICE, log entry 10). -/
def State.readIsland (s : State) (n : Nat) : Word :=
  let i := s.island n
  let x := Config.sensor s.fresh n
  at_ 36 (if n < 8 then i.freq else 0) ||| at_ 24 (x.toNat % 4096) ||| at_ 16 (x.toNat / 4096 % 256) ||| at_ 8 i.tlim
    ||| at_ 0 i.state

/-- A write of PWR.GUST.d. -/
def State.writeGust (s : State) (d : Nat) (v : Word) : State × Nat :=
  let n := field v 7 0
  if n = 0 ∨ dieClusters d < n then (s, mFORM) else (s.modDie d fun x => { x with tokens := some n }, mOK)

/-! ### Boot (R405, R406), attestation (R407), ownership (R410) -/

/-- Management state changed. -/
def State.modMgmt (s : State) (f : Mgmt → Mgmt) : State :=
  { s with mgmt := f s.mgmt }

/-- A list cut or filled with zeros to a length. -/
def fit (n : Nat) (l : List Byte) : List Byte :=
  (l ++ List.replicate n 0).take n

/-- Bytes of the object at an address: to the end of its last segment (R240). -/
def State.objectSize (s : State) (pa : Nat) : Nat :=
  match s.object pa with
  | none => 0
  | some l => l.foldl (fun n g => max n (g.off + g.size)) (64 + 32 * l.length)

/-- Bytes of an image's XMSS signature, of the scheme of the firmware's (R405; PRESUMED, log entry 39). -/
def bootSignature : Nat := 2500

/-- The names of a symbols segment that holds `n` entries: NUL-ended strings one after another (R240). -/
def symbolNames : List Byte → List Byte → List (List Byte)
  | [], _ => []
  | b :: l, acc => if b = 0 then acc.reverse :: symbolNames l [] else symbolNames l (b :: acc)

/-- The entry and the name of each symbol; the number of entries is the one that leaves as many names (R240). -/
def symbolsOf (bytes : List Byte) : List (Word × Word × List Byte) :=
  let n := ((List.range (bytes.length / 16 + 1)).find? fun n => ((bytes.drop (16 * n)).filter (· == 0)).length == n).getD 0
  (List.range n).zip (symbolNames (bytes.drop (16 * n)) []) |>.map fun x => (wordAt bytes (2 * x.1), wordAt bytes (2 * x.1 + 1), x.2)

/-- "trapvec". -/
def trapvecName : List Byte := [0x74, 0x72, 0x61, 0x70, 0x76, 0x65, 0x63]

/-- The offset of the symbol `trapvec` in the code of the object at `pa`. -/
def State.trapvecOf (s : State) (pa : Nat) : Option Nat :=
  match (s.object pa).bind fun l => segOf l 5 with
  | none => none
  | some g => ((symbolsOf (s.segBytes pa g)).find? fun x => x.2.2 == trapvecName).map fun x => x.2.1.toNat

/-- TRAP.VEC of the cores of a kernel. -/
def State.setVectors (s : State) (vec : Word) : List CoreRec → State
  | [] => s
  | r :: l => (s.modCore r.core fun k => { k with trapVec := vec }).setVectors vec l

/-- The four words of BH.KEY.p as bytes. -/
def Mgmt.key (m : Mgmt) (p : Nat) : List Byte :=
  (List.range 4).flatMap fun i => bytesOfWord (m.bhKey.get 0 (4 * p + i))

/-- Where Brewhouse places a segment: a free value, in the HBM/global window and aligned as LOAD asks for it (R409; DESIGN CHOICE, log
entry 39). -/
def placedAt (x align : Nat) : Nat :=
  let a := 0x1000000000000 + x % 0x7000000000000
  max (2 ^ align) (a / 2 ^ align * 2 ^ align)

/-- The code base and the data address that Brewhouse gives the object at `pa` of a partition; an object without a data segment has no
data address. -/
def State.bootPlaces (s : State) (p pa : Nat) : Nat × Nat :=
  let l := (s.object pa).getD []
  let place (x kind : Nat) : Nat := match segOf l kind with | some g => placedAt x (max 2 g.align) | none => 0
  (place (Config.bootCode p) 1, place (Config.bootData p) 4)

/-- Brewhouse starts partition `p` (R406): the image checked, loaded as kernel 0, its vectors set and its first launch tag
launched; a failed check, or an image that cannot be read (R18, R224), sets ERR 3. A page that migrates holds the LOAD up. -/
def State.startPartition (s : State) (p : Nat) : State :=
  let pa := field (s.mgmt.bhImg.get 0 p) 47 0
  let n := s.objectSize pa
  let bytes := s.readBytes pa n
  let bad (s : State) : State := s.modMgmt fun m => { m with err := 3 }
  if n = 0 ∨ !s.rawOk pa (n + bootSignature) ∨ !Config.xmssVerify (s.mgmt.key p) bytes (s.readBytes (pa + n) bootSignature) then bad s
  else
    let (code, data) := s.bootPlaces p pa
    match s.load p 0 pa code data with
    | .status s' _ => bad s'
    | .hold s' st =>
      let ev : Ev := { s.ev with flag := true, sub := p }
      { s' with ev, asker := .event .brewhouseGo ev }.await .brewhouseGo st
    | .made s' kid =>
      match s'.kernels.find? kid with
      | none => bad s'
      | some k =>
        let s' := s'.modMgmt fun m => { m with digests := m.digests.put p (shake256 bytes) }
        let s' := { s' with resident := s'.resident.put p kid }
        let s' := match s'.trapvecOf pa with
          | some off => s'.setVectors (at_ 0 ((code + off) / 4 * 4) ||| 1) k.cores
          | none => s'
        match k.tags.find? TagRec.launch with
        | some r => s'.launch kid k r []
        | none => s'

/-- The partitions that exist, one after another. -/
def State.startPartitions (s : State) : List Nat → State
  | [] => s
  | p :: l => (if partV (s.part p) then s.startPartition p else s).startPartitions l

/-- A write of BH.GO: in phase 3 alone. -/
def State.writeGo (s : State) : State × Nat :=
  if s.mgmt.phase ≠ 3 then (s, mSTATE)
  else ((s.startPartitions (List.range 8)).modMgmt fun m => { m with phase := 4 }, mOK)

/-- FIRMWARE_VERIFY (R405), three times in a boot: ROM begins to read the image (phase 1); it has verified it, and the firmware runs, with
the islands switched on (phase 2), or the boot has failed; the firmware has trained HBM, and Brewhouse waits (phase 3). -/
def execFirmwareVerify (s : State) : Res :=
  let image := s.ev.data
  .next (if s.mgmt.phase = 0 then (s.modMgmt fun m => { m with phase := 1 }).later .firmwareVerify s.ev
    else if s.mgmt.phase = 2 then s.modMgmt fun m => { m with phase := 3 }
    else if s.mgmt.phase ≠ 1 then s
    else if !Config.firmwareSigned image then s.modMgmt fun m => { m with err := 1, phase := 0xFF }
    else if (Config.firmwareVersion image).toNat < Config.fusedCounter then s.modMgmt fun m => { m with err := 2, phase := 0xFF }
    else
      (((List.range 28).foldl (fun s n => s.setIsland n { s.island n with state := 1 }) s).modMgmt fun m =>
        { m with fwver := Config.firmwareVersion image, firmware := image, phase := 2 }).later .firmwareVerify s.ev)

/-- The one-time indices of the device key (R407). -/
def attIndices : Nat := 2 ^ 20

/-- The digests of ROM, of the firmware and of Brewhouse, its part (R407); zero where no image has been accepted. -/
def Mgmt.bootDigests (m : Mgmt) : List (List Byte) :=
  let zero : List Byte := List.replicate 32 0
  if m.firmware = [] then [shake256 Config.rom, zero, zero]
  else [shake256 Config.rom, shake256 m.firmware, shake256 (Config.brewhouse m.firmware)]

/-- The signed part of a report. -/
def Mgmt.report (m : Mgmt) : List Byte :=
  fit 32 (bytesOfWord (at_ 0 0x4B584154 ||| at_ 32 1) ++ bytesOfWord (BitVec.ofNat 64 m.attIndex))
    ++ (List.range 4).flatMap (fun i => bytesOfWord (m.nonce.get 0 i))
    ++ m.bootDigests.flatMap id
    ++ (List.range 8).flatMap (fun p => fit 32 (m.digests.get [] p)) ++ List.replicate 96 0

/-- A write of ATT.CTL. -/
def State.writeAttest (s : State) (v : Word) : State × Nat :=
  let m := s.mgmt
  if v ≠ 1 then (s, mOK)
  else if attIndices ≤ m.attIndex then (s, mEXHAUSTED)
  else
    let report := m.report
    ({ s with mgmt := { m with
        attIndex := m.attIndex + 1, attBuf := report ++ fit 2820 (Config.xmssSign m.attIndex report) } }, mOK)

/-- A write of OWN.CLAIM by a master outside. -/
def State.writeClaim (s : State) (id : Nat) (v : Word) : State × Nat :=
  let expect := field v 15 8
  let new := field v 7 0
  if s.mgmt.owner = expect ∧ ((expect = 0 ∧ new = id) ∨ (expect ≠ 0 ∧ expect = id)) then
    (s.modMgmt fun m => { m with owner := new }, mOK)
  else (s, mCONFLICT)

/-! ### Rings of the KV service and shuttle channels (R169, R175) -/

/-- The table that KV.RING names, checked as it is copied: none is FORM, as where it cannot be read (R18; DESIGN CHOICE, log entry 50). -/
def State.ringTable (s : State) (v : Word) : Option (List (Word × Nat)) :=
  let count := field v 63 48
  let base := field v 47 3 * 8
  if 32768 < count ∨ field v 2 0 ≠ 0 ∨ !s.rawOk base (8 * count) then none
  else
    let l := (List.range count).map fun i => s.readWord (base + 8 * i)
    let rising := (l.zip (l.drop 1)).all fun x => decide (field x.1 63 32 < field x.2 63 32)
    let coresOk := l.all fun w => isM (coreDie (field w 12 0)) && s.coreMapped (field w 12 0) && field w 31 13 == 0
    if rising && coresOk then some (l.map fun w => (BitVec.ofNat 64 (field w 63 32), field w 12 0)) else none

/-- A write of KV.RING: the load begins, and its status follows. -/
def State.writeRing (s : State) (who : Master) (d : Nat) (v : Word) : State × Option Nat :=
  if (s.die d).ringLoad.isSome then (s, some mBUSY)
  else ((s.modDie d fun x => { x with ringLoad := some v }).later .kvRingLoadDone { who, unit := d }, none)

/-- KV_RING_LOAD_DONE: the new table, or the old one and FORM. -/
def execKvRingLoadDone (s : State) : Res :=
  let d := s.ev.unit
  .next (match (s.die d).ringLoad with
    | none => s
    | some v =>
      match s.ringTable v with
      | none => (s.modDie d fun x => { x with ringLoad := none }).settle s.ev.who mFORM 0
      | some l => (s.modDie d fun x => { x with ringLoad := none, ring := l }).settle s.ev.who mOK 0)

/-- Whether a die's outgoing channel may be written (R175). -/
def State.shuttleFree (s : State) (d : Nat) : Bool :=
  let x := s.die d
  x.shtHeld.toNat == 2 ^ shtNslot x.shtOut - 1 && (s.die (pairDie d)).shtFull == 0

/-- A write of SHT.OUT. -/
def State.writeShtOut (s : State) (d : Nat) (v : Word) : State × Nat :=
  if !s.shuttleFree d then (s, mBUSY)
  else if 8 < shtNslot v then (s, mOK)
  else
    (s.modDie d fun x =>
      { x with shtOut := v &&& ~~~(at_ 52 7) &&& ~~~(at_ 0 0xFFF), shtHeld := BitVec.ofNat 8 (2 ^ shtNslot v - 1) }, mOK)

/-- A write of SHT.EVT. -/
def State.writeShtEvt (s : State) (d : Nat) (v : Word) : State × Nat :=
  if !s.shuttleFree d then (s, mBUSY)
  else (s.modDie d fun x => { x with shtEvt := at_ 32 (field v 43 32) ||| at_ 0 (field v 12 0) }, mOK)

/-! ### Commands and other registers (R109, R155, R159, R164, R225, R409) -/

/-- A 32-byte command of four words, of which the first three have been written. -/
def fourWords (m : FMap Word) (at0 : Nat) (w3 : Word) : Cmd4 :=
  { w0 := m.get 0 at0, w1 := m.get 0 (at0 + 1), w2 := m.get 0 (at0 + 2), w3 }

/-- The row of a kernel command. -/
def kcmdRow (op : Nat) : Option Instr :=
  if op = 1 then some .kernelLoad
  else if op = 2 then some .kernelLaunch
  else if op = 3 then some .kernelAbort
  else if op = 4 then some .kernelPreempt
  else if op = 5 then some .kernelResume
  else none

/-- A write of word `i` of KCMD.p; word 3 takes the command. -/
def State.writeKcmd (s : State) (who : Master) (p i : Nat) (v : Word) : State × Nat :=
  if i < 3 then (s.modMgmt fun m => { m with kcmd := m.kcmd.put (4 * p + i) v }, mOK)
  else if !partV (s.part p) then (s, mSTATE)
  else
    let c := fourWords s.mgmt.kcmd (4 * p) v
    match kcmdRow (kcmdOp c) with
    | some row => (s.now row { who, unit := p, cmd := c, flag := true }, mOK)
    | none => (s.kcmdReply p kFORMAT, mOK)

/-- A write of word `i` of the migration queue of a die. -/
def State.writeMigQueue (s : State) (d i : Nat) (v : Word) : State × Nat :=
  if i < 3 then (s.modDie d fun x => { x with part := x.part.put i v }, mOK)
  else
    match s.queueMigration d (fourWords (s.die d).part 0 v) with
    | some s' => (s', mOK)
    | none => (s, mBUSY)

/-- A write of word `i` of the Kiln command queue of a die. -/
def State.writeKilnQueue (s : State) (d i : Nat) (v : Word) : State × Nat :=
  if i < 3 then (s.modDie d fun x => { x with part := x.part.put (4 + i) v }, mOK)
  else
    let q := (s.die d).kilnQ
    if 16 ≤ q.length then (s, mBUSY)
    else
      let s' := s.modDie d fun x => { x with kilnQ := x.kilnQ ++ [fourWords x.part 4 v] }
      (if q = [] then s'.kilnNext d else s', mOK)

/-- A write of SYS.WDOG. -/
def State.writeWdog (s : State) (id : Nat) (v : Word) : State × Nat :=
  let n := field v 5 0
  if !coreExists id ∨ (1 ≤ n ∧ n ≤ 9) ∨ 41 ≤ n then (s, mFORM)
  else (s.modCore id fun k => { k with wdog := BitVec.ofNat 6 n }, mOK)

/-- A write of LNK.PORT.n: its fields, then its command (R158, R159). -/
def State.writePort (s : State) (n : Nat) (v : Word) : State × Nat :=
  let s := s.modPort n fun p =>
    { p with cerr := p.cerr && !v.getLsbD 60, ovr := p.ovr && !v.getLsbD 59, tmo := v.extractLsb' 32 16
             rthr := v.extractLsb' 16 16, replay := v.extractLsb' 0 16 }
  (s.portCommand n (field v 63 61), mOK)

/-- LNK.PORT.n as it reads (R159). -/
def Port.reg (p : Port) : Word :=
  bitAt 60 p.cerr ||| bitAt 59 p.ovr ||| at_ 56 p.state.num ||| at_ 53 p.width.toNat ||| at_ 32 (max 1 p.tmo.toNat)
    ||| at_ 16 p.rthr.toNat ||| at_ 0 p.replay.toNat

/-- The clock offsets that PTP has measured, held to a new width of the windows (R164). -/
def State.recheckWindows (s : State) : State :=
  (List.range 10).foldl (fun s n =>
    (s.port n).offsets.foldl (fun s x => if s.mgmt.vwin.toNat < 4 * x.2 then s.liftWindow n x.1 else s) s) s

/-! ### Reads and writes (R411) -/

/-- What a write of a register by a master that may write it does, and its management status; none where the status follows
later. A BAR is none of the package's registers: see `State.barAccess`. -/
def State.writeReg (s : State) (who : Master) (r : MReg) (v : Word) : State × Option Nat :=
  let st (x : State × Nat) : State × Option Nat := (x.1, some x.2)
  match r with
  | .claim => (s, some mCONFLICT)
  | .stat => (s, some mOK)
  | .boot => (s, some mOK)
  | .dump => (s.modMgmt fun m => { m with dumpBase := v }, some mOK)
  | .vwin => ((s.modMgmt fun m => { m with vwin := if v.toNat < 1000 then 1000 else v }).recheckWindows, some mOK)
  | .grpPkg => (s.modMgmt fun m => { m with pkg := field v 9 0, pkgWas := some (s.clock, s.pkgNow) }, some mOK)
  | .attCtl => st (s.writeAttest v)
  | .nonce i => (s.modMgmt fun m => { m with nonce := m.nonce.put i v }, some mOK)
  | .go => st s.writeGo
  | .part p =>
    if s.mgmt.phase = 3 then (s.modMgmt fun m => { m with parts := m.parts.put p (v &&& ~~~(at_ 48 3)) }, some mOK)
    else (s, some mSTATE)
  | .bhImg p => (s.modMgmt fun m => { m with bhImg := m.bhImg.put p v }, some mOK)
  | .kcmd p i => st (s.writeKcmd who p i v)
  | .isl n => st (s.writeIsland n v)
  | .gust d => st (s.writeGust d v)
  | .bhKey p i => (s.modMgmt fun m => { m with bhKey := m.bhKey.put (4 * p + i) v }, some mOK)
  | .attBuf _ => (s, some mOK)
  | .coreTable d m => st (s.writeTable d m v)
  | .errLog d => (s.modDie d fun x => { x with errLog := setField (setField x.errLog 63 48 (field v 63 48)) 47 40 (field v 47 40) }, some mOK)
  | .errThr d => (s.modDie d fun x => { x with errThr := v }, some mOK)
  | .saveBase d => (s.modDie d fun x => { x with saveBase := v }, some mOK)
  | .kvRing d => s.writeRing who d v
  | .shtOut d => st (s.writeShtOut d v)
  | .shtEvt d => st (s.writeShtEvt d v)
  | .space d => (s.modDie d fun x => { x with spaceNew := v &&& ~~~(at_ 1 0x7FF) }, some mOK)
  | .rtbase d => (s.modDie d fun x => { x with space := x.spaceNew, rtbase := v }, some mOK)
  | .migQueue d i => st (s.writeMigQueue d i v)
  | .kilnQueue d i => st (s.writeKilnQueue d i v)
  | .spmove d => st (s.writeSpmove d v)
  | .mxcap d cl => (s.modEngine (d * 128 + cl) fun e => { e with mxcap := v }, some mOK)
  | .cap id i => (s.modCore id fun k => { k with caps := k.caps.put i v }, some mOK)
  | .ccap id => (s.modCore id fun k => { k with ccap := v }, some mOK)
  | .trapVec id => (s.modCore id fun k => { k with trapVec := v &&& 0x000FFFFFFFFFFFFD }, some mOK)
  | .wdog id => st (s.writeWdog id v)
  | .command id c => st (s.dispose { core := id, ctx := c } v.toNat)
  | .noCore => (s, some mFORM)
  | .port n => st (s.writePort n v)
  | .inBase n => (s.modPort n fun p => { p with inBase := v }, some mOK)
  | .inLim n => (s.modPort n fun p => { p with inLim := v }, some mOK)
  | .peer p => ({ s with peers := s.peers.put p (bitAt 63 (v.getLsbD 63) ||| at_ 59 (field v 62 59) ||| at_ 38 (field v 47 38)) }, some mOK)
  | .bar _ => (s, some mSTATE)
  | .absent => (s, some mFORM)

/-- What a register reads as for a master; WO registers read zero. -/
def State.readReg (s : State) (who : Master) (r : MReg) : Word :=
  let m := s.mgmt
  match r with
  | .claim => at_ 0 m.owner
  | .stat => match who with
    | .outside id => at_ 0 (m.stat.get 0 id.toNat)
    | .part _ _ _ => 0
  | .boot => at_ 32 m.fwver.toNat ||| at_ 8 m.err ||| at_ 0 m.phase
  | .dump => m.dumpBase
  | .vwin => m.vwin
  | .grpPkg => at_ 0 s.pkgNow
  | .attCtl => if attIndices ≤ m.attIndex then at_ 0 mEXHAUSTED else 0
  | .nonce i => m.nonce.get 0 i
  | .go => 0
  | .part p => s.part p
  | .bhImg p => m.bhImg.get 0 p
  | .kcmd _ _ => 0
  | .isl n => s.readIsland n
  | .gust d => at_ 8 (s.die d).tokHeld ||| at_ 0 (s.tokensOf d)
  | .bhKey p i => m.bhKey.get 0 (4 * p + i)
  | .attBuf i => wordAt m.attBuf i
  | .coreTable d n =>
    at_ 0 (s.tableEntry (d * 1024 + 2 * n)).toNat ||| at_ 32 (s.tableEntry (d * 1024 + 2 * n + 1)).toNat
  | .errLog d => (s.die d).errLog
  | .errThr d => (s.die d).errThr
  | .saveBase d => (s.die d).saveBase
  | .kvRing _ => 0
  | .shtOut d => (s.die d).shtOut
  | .shtEvt d => (s.die d).shtEvt
  | .space d => (s.die d).space
  | .rtbase d => (s.die d).rtbase
  | .migQueue _ _ => 0
  | .kilnQueue _ _ => 0
  | .spmove d => (s.die d).spmove
  | .mxcap d cl => (s.engine (d * 128 + cl)).mxcap
  | .cap id i => (s.core id).caps.get 0 i
  | .ccap id => (s.core id).ccap
  | .trapVec id => (s.core id).trapVec
  | .wdog id => (s.core id).wdog.zeroExtend 64
  | .command _ _ => 0
  | .noCore => 0
  | .port n => (s.port n).reg
  | .inBase n => (s.port n).inBase
  | .inLim n => (s.port n).inLim
  | .peer p => s.peers.get 0 p
  | .bar _ => 0
  | .absent => 0

/-- Whether a die holds a core of a partition (DEDUCED, log entry 35). -/
def State.partDie (s : State) (p d : Nat) : Bool :=
  s.kernels.any fun x => x.2.part == p && x.2.cores.any fun r => coreDie r.core == d

/-- Whether a register is one of a partition's own (R409; DEDUCED, log entry 35). -/
def State.partOwns (s : State) (p : Nat) (r : MReg) : Bool :=
  match r with
  | .kcmd q _ => q == p
  | .kvRing d => s.partDie p d
  | .shtOut d => s.partDie p d
  | .shtEvt d => s.partDie p d
  | .space d => s.partDie p d
  | .rtbase d => s.partDie p d
  | .migQueue d _ => s.partDie p d
  | .kilnQueue d _ => s.partDie p d
  | .cap id _ => s.partHolds p id
  | .ccap id => s.partHolds p id
  | .trapVec id => s.partHolds p id
  | .wdog id => s.partHolds p id
  | .command id _ => s.partHolds p id
  | .claim => false
  | .stat => false
  | .boot => false
  | .dump => false
  | .vwin => false
  | .grpPkg => false
  | .attCtl => false
  | .nonce _ => false
  | .go => false
  | .part _ => false
  | .bhImg _ => false
  | .isl _ => false
  | .gust _ => false
  | .bhKey _ _ => false
  | .attBuf _ => false
  | .coreTable _ _ => false
  | .errLog _ => false
  | .errThr _ => false
  | .saveBase _ => false
  | .spmove _ => false
  | .mxcap _ _ => false
  | .noCore => false
  | .port _ => false
  | .inBase _ => false
  | .inLim _ => false
  | .peer _ => false
  | .bar _ => true
  | .absent => false

/-- A write by a master (R409 to R411): its authority, then the write. -/
def State.mgmtWrite (s : State) (who : Master) (r : MReg) (v : Word) : State × Option Nat :=
  match who with
  | .outside id =>
    if r = .claim then
      let x := s.writeClaim id.toNat v
      (x.1, some x.2)
    else if s.ownedBy (.outside id) then s.writeReg (.outside id) r v
    else (s, some mNOTOWNER)
  | .part p c x => if s.partOwns p r then s.writeReg (.part p c x) r v else (s, some mNOTOWNER)

/-- The same with its status recorded or sent. -/
def State.writeBy (s : State) (who : Master) (r : MReg) (v : Word) : State :=
  match s.mgmtWrite who r v with
  | (s', some st) => s'.settle who st 0
  | (s', none) => s'

/-- Whether a master may write a register (R409, R411). -/
def State.mayWrite (s : State) (who : Master) (r : MReg) : Bool :=
  match who with
  | .outside id => s.ownedBy (.outside id)
  | .part p _ _ => s.partOwns p r

/-- A read or a write of a BAR of the storage device: a request of port 9, with its timeout (R162, R165). One that ends in error, or that
the port does not carry, has the status STATE (DEDUCED, log entry 35). -/
def State.barAccess (s : State) (a : Nat) (v : Option Word) : State × Except Stop (Nat × Word) :=
  if !(s.port 9).carries ∧ (s.brought 9 a).isNone then (s, .ok (mSTATE, 0))
  else
    let op : ExtOp := match v with | some w => .write (bytesOfWord w) | none => .read 8
    match s.asking (if v.isSome then .engineWrite else .engineRead) 9 a op with
    | (s', .ok data) => (s', .ok (mOK, if v.isSome then 0 else wordOfBytes (fit 8 data)))
    | (s', .error e) => (s', if e.waits then .error e else .ok (mSTATE, 0))

/-- A read, or a write of `v`, by a master, and then `f` with the status, which is none where it follows later, and the value read; an
access of a BAR waits for its answer. -/
def State.mgmtDo (s : State) (row : Instr) (who : Master) (r : MReg) (v : Option Word) (f : State → Option Nat → Word → State) : State :=
  match r with
  | .bar a =>
    if v.isSome ∧ !s.mayWrite who r then f s (some mNOTOWNER) 0
    else
      match s.barAccess a v with
      | (s', .error e) => s'.awaitStop row 5 e
      | (s', .ok (st, w)) => f s' (some st) w
  | r =>
    match v with
    | some v =>
      let x := s.mgmtWrite who r v
      f x.1 x.2 0
    | none => f { s with fresh := s.fresh + 1 } (some mOK) (s.readReg who r)

/-! ### Events that are writes of one register -/

/-- A register of a die by its offset. -/
def dieRow (d o : Nat) : MReg :=
  if d < 8 then dieReg d o else .absent

def execCoreTableWrite (s : State) : Res :=
  .next (s.writeBy s.ev.who (if s.ev.unit < 8 ∧ s.ev.sub < dieClusters s.ev.unit * 4 then .coreTable s.ev.unit s.ev.sub else .absent) s.ev.w0)

def execSpmoveStart (s : State) : Res :=
  .next (s.writeBy s.ev.who (dieRow s.ev.unit 0x1080) s.ev.w0)

def execKvRingInstall (s : State) : Res :=
  .next (s.writeBy s.ev.who (dieRow s.ev.unit 0x1018) s.ev.w0)

def execShuttleConfigure (s : State) : Res :=
  .next (s.writeBy s.ev.who (dieRow s.ev.unit 0x1020) s.ev.w0)

/-- SPACE_LOAD: the write of HEAP.RTBASE, which applies the space with it (R142, R411). -/
def execSpaceLoad (s : State) : Res :=
  .next (s.writeBy s.ev.who (dieRow s.ev.unit 0x1038) s.ev.w0)

def execSysWdogWrite (s : State) : Res :=
  .next (s.writeBy s.ev.who (coreReg s.ev.unit 0x110) s.ev.w0)

def execIslandWrite (s : State) : Res :=
  .next (s.writeBy s.ev.who (if s.ev.unit < 32 then .isl s.ev.unit else .absent) s.ev.w0)

def execGustTokensWrite (s : State) : Res :=
  .next (s.writeBy s.ev.who (if s.ev.unit < 8 then .gust s.ev.unit else .absent) s.ev.w0)

/-- BREWHOUSE_GO: the write of BH.GO; the device's own event (`flag`) goes on with a partition whose LOAD was held up. -/
def execBrewhouseGo (s : State) : Res :=
  .next (if s.ev.flag then s.startPartition s.ev.sub else s.writeBy s.ev.who .go s.ev.w0)

def execAttestationSign (s : State) : Res :=
  .next (s.writeBy s.ev.who .attCtl s.ev.w0)

def execOwnershipClaim (s : State) : Res :=
  .next (s.writeBy s.ev.who .claim s.ev.w0)

/-- MGMT_REGISTER_WRITE: a write at an address. -/
def execMgmtRegisterWrite (s : State) : Res :=
  .next (s.mgmtDo .mgmtRegisterWrite s.ev.who (mregOf s.ev.w0.toNat) (some s.ev.w1) fun s st _ =>
    match st with
    | some code => s.settle s.ev.who code 0
    | none => s)

/-- A request of a master outside, with what it returns: the status and the data (R411). In phase `0xFF` only a read of
BOOT.STAT through I3C is answered (R405). -/
def State.mgmtAccess (s : State) (who : Master) (i3c : Bool) : State :=
  let r := mregOf (field s.ev.w0 47 0)
  let answer (s : State) (status : Nat) (data : Word) : State :=
    { s with out := s.out ++ [if i3c then .i3c status data else .vdm status data] }
  if s.mgmt.phase = 0xFF ∧ !(i3c ∧ r = .boot ∧ !s.ev.flag) then s
  else
    s.mgmtDo (if i3c then .i3cTransfer else .mgmtVdmRequest) who r (if s.ev.flag then some s.ev.w1 else none) fun s' st w =>
      if s.ev.flag then answer (s'.settle who (st.getD mOK) 0) (st.getD mOK) 0 else answer s' (st.getD mOK) w

/-- MGMT_VDM_REQUEST: over PCIe, as the host function; the endpoint's port must carry traffic (R158, R165). -/
def execMgmtVdmRequest (s : State) : Res :=
  .next (if (s.port 8).hears then s.mgmtAccess (.outside 1) false else s)

/-- I3C_TRANSFER: over I3C, as the controller with a dynamic address. -/
def execI3cTransfer (s : State) : Res :=
  .next (s.mgmtAccess (.outside (BitVec.ofNat 8 (0x80 + s.ev.num % 128))) true)

/-- MGMT_REQUEST (R409): performed for the partition of the context that sent it, as it was then, and answered under MTAG. -/
def execMgmtRequest (s : State) : Res :=
  let r := mregOf (field s.ev.w0 47 0)
  .next (match s.ev.who with
    | .outside _ => s
    | .part p core ctx =>
      let who : Master := .part p core ctx
      if !s.partOwns p r then s.settle who mNOTOWNER 0
      else
        s.mgmtDo .mgmtRequest who r (if s.ev.w0.getLsbD 63 then some s.ev.w1 else none) fun s st w =>
          match st with
          | some code => s.settle who code w
          | none => s)

/-! ### Errors and trips (R224 to R227, R412) -/

/-- The event of the owner that marks a core with persistent errors (DESIGN CHOICE, log entry 40). -/
def oPERSISTENT : Nat := 1

/-- ERR.LOG after an error (R224). -/
def errNoted (w : Word) (ce ue : Nat) (unit core : Nat) : Word :=
  at_ 48 (min (field w 63 48 + ce) 0xFFFF) ||| at_ 40 (min (field w 47 40 + ue) 0xFF) ||| at_ 36 (unit % 16) ||| at_ 23 (core % 8192)

/-- ECC_CORRECTED: counted; the error that brings a core above ERR.THR within 2^20 cycles is reported. -/
def execEccCorrected (s : State) : Res :=
  let d := s.ev.unit
  let id := s.ev.sub
  let times := List.filter (fun t => decide (s.clock < t + 2 ^ 20)) (s.core id).ceTimes ++ [s.clock]
  let s1 := (s.modDie d fun x => { x with errLog := errNoted x.errLog 1 0 s.ev.w0.toNat id }).modCore id fun k =>
    { k with ceTimes := times }
  .next (if (s.die d).errThr.toNat < times.length then { s1 with out := s1.out ++ [Out.owner oPERSISTENT id] } else s1)

/-- The states of a die's three islands, for a stopped die those from before its trip (R227). -/
def State.islandStates (s : State) (d : Nat) : List Nat :=
  if (s.die d).stopped then (s.die d).before else [d, 8 + d, 16 + d].map fun n => (s.island n).state

/-- What a die's record of the dump holds (R227): ERR.LOG, island states, its ports. -/
def State.dieRecord (s : State) (d : Nat) : List Byte :=
  let st := s.islandStates d
  fit 64 (wordsBytes ([(s.die d).errLog, at_ 0 (st.getD 0 0) ||| at_ 2 (st.getD 1 0) ||| at_ 4 (st.getD 2 0)]
    ++ ((List.range 10).filter fun n => portDie n == d).map fun n => (s.port n).reg))

/-- What a context's record of the dump holds. -/
def State.ctxRecord (s : State) (i : CtxId) : List Byte :=
  let c := s.ctxAt i
  bytesOfWord (at_ 0 c.st.code ||| at_ 32 (field c.causeReg 31 0)) ++ bytesOfWord c.pc

/-- The dump (R227; DESIGN CHOICE, log entry 40): header, dies, contexts in the order of the logical ids, and zero up to 64 MiB. -/
def State.dumpBytes (s : State) (cause : Nat) : List Byte :=
  let mask := (List.range 8).foldl (fun n d => if (s.die d).stopped then n + 2 ^ d else n) 0
  fit 64 (wordsBytes [at_ 0 0x4B584450 ||| at_ 32 1, at_ 0 cause, at_ 0 mask, BitVec.ofNat 64 (s.clock / 2)])
    ++ (List.range 8).flatMap s.dieRecord
    ++ ((List.range 8192).filter coreExists).flatMap fun id => (ctxsOf id).flatMap s.ctxRecord

/-- Memory zero in a range. -/
def State.zeroRange (s : State) (a n : Nat) : State :=
  { s with mem := List.filter (fun x => !(decide (a ≤ x.1) && decide (x.1 < a + n))) s.mem }.cleanse a n

/-- FATAL_DUMP. -/
def State.dump (s : State) (cause : Nat) : State :=
  let a := s.mgmt.dumpBase.toNat
  let s := s.modMgmt fun m => { m with fatal := some cause }
  -- the part of the area that is HBM: a byte beyond it is not populated (R18)
  let n := min (64 * 2 ^ 20) (0x10000000000 - a)
  (s.zeroRange a n).writeBytes a ((s.dumpBytes cause).take n)

/-- Poison in a message of a ranked store: entry `n`, the message of a rank, and one of its words. -/
def Core.poisonRank (k : Core) (n rank word : Nat) : Core :=
  let e := k.tag n
  k.setTag n { e with store := e.store.modify rank fun r => { r with ecc := word :: r.ecc } }

/-- Poison in bits of a core that have no address (R224), by the unit code of ERR.LOG: 1 a register (`at_` is piece × 2048 +
context × 256 + class × 64 + number; only v registers have pieces, g0 and p0 hold no bits, and the numbers from 56 on are the entries of the
distance history), 3 a word of an inbox slot (slot × 64 + word), or from 4,096 on of a ranked store (entry × 1,024 + rank × 64 + word), 4 a
leaf of its translation cache. -/
def Core.poisoned (k : Core) (unit at_ : Nat) : Core :=
  if unit = 1 then
    let c := k.ctx (at_ / 256 % 8)
    let cls := at_ / 64 % 4
    let r := (cls, at_ % 64, if cls = 1 then at_ / 2048 % 8 else 0)
    if 56 ≤ at_ % 64 then k.setCtx (at_ / 256 % 8) { c with histEcc := (at_ % 64 - 56, at_ / 2048 % 8) :: c.histEcc }
    else if r = (0, 0, 0) ∨ r = (3, 0, 0) then k else k.setCtx (at_ / 256 % 8) { c with ecc := r :: c.ecc }
  else if unit = 3 ∧ 4096 ≤ at_ then k.poisonRank ((at_ - 4096) / 1024 % 64) (at_ / 64 % 16) (at_ % 64)
  else if unit = 3 then
    match k.inbox.find? (at_ / 64 % 64) with
    | some m => { k with inbox := k.inbox.put (at_ / 64 % 64) { m with ecc := at_ % 64 :: m.ecc } }
    | none => k
  else if unit = 4 then { k with tlb := k.tlb.modify at_ fun e => { e with ecc := true } }
  else k

/-- Poison in a leaf of the translation cache of a cluster (R224). -/
def State.poisonLeaf (s : State) (cluster i : Nat) : State :=
  { s with clusters := s.clusters.put cluster ((s.clusters.get [] cluster).modify i fun e => { e with ecc := true }) }

/-- ECC_UNCORRECTABLE: the 64 bits are poisoned and the error is counted; one in a core table, a ring store or a control core
(unit codes from 6 on, DESIGN CHOICE, log entry 40) is fatal. A translation-cache leaf from 64 on is one of the core's cluster. -/
def execEccUncorrectable (s : State) : Res :=
  let d := s.ev.unit
  let u := s.ev.w0.toNat
  let s1 := s.modDie d fun x => { x with errLog := errNoted x.errLog 0 1 u s.ev.sub }
  .next (if 6 ≤ u then s1.dump 0x160
    else if u = 0 ∨ u = 2 ∨ u = 5 then { s1 with poison := s1.poison.put (s.ev.num / 8) true }
    else if u = 4 ∧ tlbSize ≤ s.ev.num then s1.poisonLeaf (coreEngine s.ev.sub) (s.ev.num - tlbSize)
    else s1.modCore s.ev.sub (·.poisoned u s.ev.num))

/-- Who has asked for a save or a restore of a context of a die that stops, from another die, traps (R226). -/
def State.failAskers (s : State) (d : Nat) : List CtxId → State
  | [] => s
  | i :: l =>
    let c := s.ctxAt i
    (match c.stall with
      | some (.save _ _) => if coreDie i.core ≠ d then s.takeTrap i c.pc { code := 0x163 } else s
      | _ => s).failAskers d l

/-- The contexts that have asked for a save or a restore of one of a die's, which has not been answered. -/
def State.saveAskers (s : State) (d : Nat) : List CtxId :=
  s.cores.flatMap fun x =>
    if coreDie x.1 = d then x.2.ctxs.flatMap fun y => (y.2.saveReq.toList ++ y.2.heldReqs).filterMap (·.asker) else []

/-- A die that stops (R226, R412): its islands read 3, the owner is told by an I3C in-band interrupt and by MSI-X vector 0, and the dump is
written. -/
def State.trip (s : State) (d : Nat) : State :=
  if (s.die d).stopped then s
  else
    let s := s.modDie d fun x => { x with stopped := true, before := s.islandStates d }
    let s := [d, 8 + d, 16 + d].foldl (fun s n => s.setIsland n { s.island n with state := 3 }) s
    { s with out := s.out ++ [Out.i3cInterrupt d, Out.msix 0 d] }.failAskers d (s.saveAskers d) |>.dump 0x163

/-- THERMAL_TRIP (R412): a sensor of a core-array or mesh island, `unit`, reads `num` °C; above TLIM the die stops. -/
def execThermalTrip (s : State) : Res :=
  let n := s.ev.unit
  .next (if n < 16 ∧ (s.island n).tlim < s.ev.num then s.trip (n % 8) else s)

/-- SUPPLY_TRIP. -/
def execSupplyTrip (s : State) : Res :=
  .next (s.trip s.ev.unit)

/-- PACKAGE_RESET (R405, R7): everything but the non-volatile index of the device key; the model's counter of free values
goes on. -/
def execPackageReset (s : State) : Res :=
  .next { State.reset with fresh := s.fresh, mgmt := { attIndex := s.mgmt.attIndex } }

end Sys2Proof.Machine
end

