-- ==== Sys2Proof/Machine/Cycle.lean ====
section
/-!
DEFINITION. Sys2Proof/Machine/Cycle.lean: what the next step of the machine is (R56, R61, R62): an event that is due, the next
instruction of a core, or the end of the cycle, after which the device's own conditions are looked at (DESIGN CHOICE, log entry 3).
Within a cycle the rules order a few effects of several agents: most events come first, then the cores, then what reaches a unit
only after the cycle's instructions have acted.
-/

namespace Sys2Proof.Machine

open Sys2Proof

/-! ### The agenda -/

/-- Whether an event comes from an I3C controller, which a PCIe event of the same cycle precedes (R410). -/
def Due.fromI3c (x : Due) : Bool :=
  x.row == .i3cTransfer || (match x.ev.who with
    | .outside id => decide (0x80 ≤ id.toNat)
    | .part _ _ _ => false)

/-- Whether an event comes after the instructions of its cycle: arrivals at an inbox, a halo counter or an engine queue (R77, R268,
R365, R373), a spark (R268), a management request (R93), and the end of a drain, which an ABORT of the cycle precedes (R82). -/
def lateRow (i : Instr) : Bool :=
  [Instr.messageAccept, .heldMessageDelivery, .haloArrival, .mcmdArrival, .sparkRun, .incomingRequest, .hostRequest, .mgmtRequest,
    .mgmtVdmRequest, .i3cTransfer, .mgmtRegisterWrite, .kernelDrainDone].contains i

/-- The first of several events, PCIe before I3C. -/
def firstDue (due : List Due) : Option Due :=
  match due.find? fun x => !x.fromI3c with
  | some x => some x
  | none => due.head?

/-- The event that is carried out before the next instruction: the first one that is due. Those of an I3C controller come after the
instructions, where those of PCIe have all been carried out (R410). -/
def State.nextDue (s : State) : Option Due :=
  (s.agenda.filter fun x => decide (x.at_ ≤ s.clock) && !lateRow x.row && !x.fromI3c).head?

/-- The event that is carried out once every core has issued; the end of a drain is the last. -/
def State.nextLate (s : State) : Option Due :=
  let due := s.agenda.filter fun x => decide (x.at_ ≤ s.clock)
  match firstDue (due.filter fun x => x.row != .kernelDrainDone) with
  | some x => some x
  | none => due.head?

/-! ### Issue (R61, R62, R237, R263) -/

/-- Whether a context may issue in this cycle. -/
def Context.issuable (c : Context) (clock : Nat) : Bool :=
  c.st == .ready && c.kernel.isSome && c.stall.isNone && !c.full && decide (c.notBefore ≤ clock) && c.yieldFor.isEmpty

/-- The context of a core that issues: round robin, from the one after the last that issued (R61). -/
def State.issuer (s : State) (id : Nat) : Option Nat :=
  let k := s.core id
  ((List.range 8).map fun n => (k.rr + 1 + n) % 8).find? fun n => (k.ctx n).issuable s.clock

/-- The instruction that a context issues next, as far as it can be fetched. -/
def State.pending (s : State) (i : CtxId) : Option Instr :=
  let fetched : Option Instr := match s.fetch i with
    | .instr x _ => some x
    | .illegal _ _ => none
    | .fault _ => none
    | .stall _ => none
  match (s.ctxAt i).frame with
  | some fr => if 0 < fr.replay then (fr.caps[fr.pos]?).map fun x => x.2 else fetched
  | none => fetched

/-- The place of a context among those that issue in one cycle on several cores: what the rules let act first (R77, R268, R176,
R363), what they let see the others' effects (R176, R363), and a pre-emption after the instruction of its target (R222). -/
def State.issueRank (s : State) (i : CtxId) : Nat :=
  match s.pending i with
  | some (.rkclr ..) | some (.csrw ..) | some (.csrs ..) | some (.csrc ..) | some (.pmtret ..) | some (.mrpush ..)
  | some (.halocnt ..) => 0
  | some (.pmtsnd ..) | some (.mrhead ..) => 2
  | some (.preempt ..) | some (.csave ..) => 3
  | _ => 1

/-- The first of the contexts with the least rank. -/
def State.leastRank (s : State) : List CtxId → Option CtxId
  | [] => none
  | [i] => some i
  | i :: l =>
    match s.leastRank l with
    | none => some i
    | some j => some (if s.issueRank i ≤ s.issueRank j then i else j)

/-- The next context of the cycle that issues: one of each core that runs and has not issued in it. -/
def State.nextIssue (s : State) : Option CtxId :=
  if s.late then none
  else
    s.leastRank (s.cores.filterMap fun x =>
      if s.issued.any (·.core == x.1) ∨ !s.coreRuns x.1 then none
      else (s.issuer x.1).map fun n => { core := x.1, ctx := n })

/-- What a step comes to: an instruction or an event whose meaning is carried out on a state, a state alone, or an agenda
that holds what is no event. -/
inductive Todo
  | run (i : Instr) (s : State)
  | pass (s : State)
  | bad

/-- A captured instruction of a repeat frame in its turn (R237): stepped, or out of range. -/
def State.replay (s : State) (fr : Frame) : Todo :=
  match fr.caps[fr.pos]? with
  | none => .pass (s.modCtx fun c => { c with frame := none })
  | some (_, i) =>
    match stepped (fr.replay * fr.stride) i with
    | none => .pass (s.trapCode 0x007)
    | some i' => if formOk i' then .run i' s else .run .illegalInstruction s

/-- Capture that an instruction ends early (R237): the replays come first, then that instruction. Without replays the last captured
instruction is examined by the loop rules (R256); where they send the context elsewhere, it issues there. -/
def State.endCapture (s : State) (fr : Frame) (i : Instr) : Todo :=
  match fr.caps with
  | [] => .run i (s.modCtx fun c => { c with frame := none })
  | (a, _) :: _ =>
    if fr.count ≤ 1 then
      let last := match fr.caps.getLast? with | some x => x.1 | none => a
      let s' := s.modCtx fun c => { c with frame := none }.fallTo last c.pc
      if s'.ctx.pc = s.ctx.pc then .run i s'
      else .pass { s'.modCtx fun c => { c with st := .ready } with issued := s'.issued.erase s'.cur }
    else
      let fr := { fr with replay := 1, pos := 0 }
      (s.modCtx fun c => { c with frame := some fr, pc := a }).replay fr

/-- An instruction that has been fetched. -/
def State.fetched (s : State) (i : Instr) : Todo :=
  match s.ctx.frame with
  | none => .run i (s.modCtx fun c => { c with ir := some i })
  | some fr =>
    if capturable i ∨ frameBranch i then .run i (s.modCtx fun c => { c with ir := some i }) else s.endCapture fr i

/-- The context that issues becomes Running. -/
def State.select (s : State) (i : CtxId) : State :=
  let k := s.core i.core
  let k := k.setCtx i.ctx { k.ctx i.ctx with st := .running }
  { (s.setCore i.core k) with cur := i, asker := .ctx i, issued := i :: s.issued }

/-- The instruction at the pc, or the event that its fetch ends in. A context that stalls at its fetch has not issued. -/
def State.fetchAndRun (s : State) : Todo :=
  match s.fetch s.cur with
  | .instr i _ => s.fetched i
  | .illegal w0 w1 => .run .illegalInstruction { s with ev := { w0 := w0.zeroExtend 64, w1 := w1.zeroExtend 64 } }
  | .fault k => .run .instructionFetchFault { s with ev := { unit := k.acc, num := k.code, sub := k.level, w0 := k.addr } }
  | .stall st => .pass { (s.modCtx fun c => { c with st := .ready }).stallOn st with issued := s.issued.erase s.cur }

/-- The next instruction of a context. -/
def State.issue (s : State) (i : CtxId) : Todo :=
  let s := s.select i
  match s.ctx.frame with
  | some fr => if 0 < fr.replay then s.replay fr else s.fetchAndRun
  | none => s.fetchAndRun

/-! ### The end of a cycle -/

/-- A context at the end of a cycle: Running → Ready (R56), a full FIFO is looked at again, the watchdog's count (R225), and YIELD's
waiting for contexts that have left Ready (R263). -/
def Context.ticked (c : Context) (k : Core) : Context :=
  let st : CtxState := if c.st = .running then .ready else c.st
  { c with
    st, full := false
    busy := if st = .ready then c.busy + 1 else c.busy
    yieldFor := c.yieldFor.filter fun n => (k.ctx n).st == .ready || (k.ctx n).st == .running }

/-- A context when another, or no one, of its core has issued: the contexts for which a YIELD waits lose it (R263). -/
def Context.seen (c : Context) (last : Option CtxId) : Context :=
  match last with
  | some i => { c with yieldFor := List.filter (· != i.ctx) c.yieldFor }
  | none => c

/-- A core at the end of a cycle, with the context that has issued in it (R61). -/
def Core.ticked (k : Core) (last : Option CtxId) : Core :=
  { k with
    rr := match last with | some i => i.ctx | none => k.rr
    ctxs := List.map (fun x => (x.1, (x.2.seen last).ticked k)) k.ctxs }

/-- Events put on the agenda for now, one after another. -/
def State.nowAll (s : State) : List (Instr × Ev) → State
  | [] => s
  | (row, ev) :: l => (s.now row ev).nowAll l

/-- What becomes of one context by itself: a probe is due (R79), its SLEEP is over (R264), the watchdog expires (R225). -/
def State.ctxEvents (s : State) (i : CtxId) : List (Instr × Ev) :=
  let c := s.ctxAt i
  let lim := (s.core i.core).wdog.toNat
  let waits : List (Instr × Ev) :=
    match c.st, c.wait with
    | .waiting, some w =>
      let probe : List (Instr × Ev) := if s.clock ≠ w.since ∧ (s.clock - w.since) % 4096 = 0 then [(.probeSend, evCtx i)] else []
      match w.kind with
      | .sleep t _ => if t ≤ s.clock then [(.sleepExpire, evCtx i)] else []
      | .force _ => probe
      | .barrier _ _ => probe
      | .kbarrier _ _ => probe
      | .job _ _ => []
      | .copy _ _ => []
    | _, _ => []
  waits ++ (if lim ≠ 0 ∧ c.st = .ready ∧ 2 ^ lim < c.busy ∧ !c.inFlight then [(.watchdogExpire, evCtx i)] else [])

/-- What a core does by itself: a held message, of which one leaves the ingress queue in a cycle (R21, R69, which give no rate: DESIGN
CHOICE, log entry 49), promotion (R61), the deque (R260), a binding (R57), a spark (R132). -/
def State.coreEvents (s : State) (id : Nat) : List (Instr × Ev) :=
  let k := s.core id
  let ev : Ev := { unit := id }
  let aged (since : Nat) (level : BitVec 2) : Bool := decide (since + 4096 ≤ s.clock) && level != 3
  (if k.hold ≠ [] ∧ !s.coreHeld id then [(.heldMessageDelivery, ev)] else [])
    ++ (if k.inbox.any (fun x => !x.2.bound && aged x.2.since x.2.level)
          || k.tags.any (fun x => x.2.kind == 1 && x.2.pend && aged x.2.since x.2.level) then [(.priorityPromotion, ev)] else [])
    ++ (if k.deque ≠ [] then [(.dequeBind, ev)] else [])
    ++ (if !s.coreHeld id && !(s.candidates id).isEmpty then [(.messageBind, ev)] else [])
    ++ (if (s.sparkCtx id).isSome then [(.sparkRun, ev)] else [])
    ++ (ctxsOf id).flatMap s.ctxEvents

/-- Held requests and notices of a core's contexts that can be taken now (R216, R222). -/
def State.takePending (s : State) : List CtxId → State
  | [] => s
  | i :: l => ((s.takeHeld i).takeNotice i).takePending l

/-- The cores that run. -/
def State.liveCores (s : State) : List Nat :=
  (s.cores.map fun x => x.1).filter s.coreRuns

/-- What a kernel does by itself: its drain ends (R82), an epoch that was held back ends (R82, R87), its saving begins or ends (R223). -/
def State.kernelEvents (s : State) (kid : Nat) (k : Kernel) : List (Instr × Ev) :=
  let ev : Ev := { unit := kid }
  (if s.drained kid k then [(.kernelDrainDone, ev)] else [])
    ++ (if !k.paused && (k.nodeOut 0).isSome then [(.treeCombine, ev)] else [])
    ++ (match k.save with
      | none => []
      | some v =>
        if !v.started ∧ !v.resume ∧ k.state = .running ∧ s.noticesAnswered v then [(.kernelSaveStart, ev)]
        else if s.saveEnding kid k then [(.kernelSaveDone, ev)]
        else [])

/-- Savings that go on. -/
def State.savesProgress (s : State) : List Nat → State
  | [] => s
  | kid :: l => (s.saveProgress kid).savesProgress l

/-- An engine whose next command can start (R366). -/
def State.engineEvents (s : State) (n : Nat) (e : Engine) : List (Instr × Ev) :=
  match e.queue with
  | c :: _ =>
    if !c.started ∧ s.dieRuns (n / 128) ∧ (!c.kind.macs ∨ (s.die (n / 128)).tokHeld < s.tokensOf (n / 128)) then
      [(.matrixJobStart, { unit := n })]
    else []
  | [] => []

/-- ROM reads the flash once, in phase 0 (R405). -/
def State.bootEvents (s : State) : List (Instr × Ev) :=
  if s.mgmt.phase = 0 ∧ !s.agenda.any (fun x => x.row == .firmwareVerify) then
    [(.firmwareVerify, { data := Config.bootFlash })]
  else []

/-- The end of a cycle: the clock, the contexts, what can be taken now, and the events whose condition holds. -/
def State.tick (s : State) : State :=
  let s := s.nextTurns s.frames
  let s : State := { s with
    clock := s.clock + 1, issued := [], late := false
    cores := List.map (fun x => (x.1, x.2.ticked (s.issued.find? fun i => i.core == x.1))) s.cores }
  let live := s.liveCores
  let s := s.takePending (live.flatMap ctxsOf)
  let s := s.savesProgress (List.map (fun x => x.1) s.kernels)
  s.nowAll (s.bootEvents ++ List.flatMap (fun x => s.kernelEvents x.1 x.2) s.kernels
    ++ List.flatMap (fun x => s.engineEvents x.1 x.2) s.engines ++ live.flatMap s.coreEvents)

/-! ### The next step -/

/-- The die whose islands an event's unit is in: a core, an engine, a fabric engine, Kiln, or the core that a message reaches. -/
def Due.die (x : Due) : Option Nat :=
  if [Instr.heldMessageDelivery, .messageBind, .priorityPromotion, .wake, .dequeBind, .probeSend, .victimNotice,
      .trapModeEntry, .saveComplete, .restoreComplete, .resultWriteback, .walkDone, .thunkEvalEnd, .matmulEvalDone, .sparkRun,
      .sleepExpire, .watchdogExpire, .copyStart, .copySourceFree, .copyVisible, .haloArrival].contains x.row then
    some (coreDie x.ev.unit)
  else if [Instr.matrixJobStart, .matrixJobDone, .ringTileTimeout, .mcmdArrival].contains x.row then some (x.ev.unit / 128)
  else if [Instr.fabricCompletion, .shuttleDelivery, .migrationCommand, .migrationStreamDone, .redirectNotice,
      .migrationInvalidationDone, .markDone, .kilnActivate, .kilnMark, .kilnEvac, .kilnRelease, .kilnFree,
      .kilnSweep].contains x.row then some x.ev.unit
  else if x.row = .messageAccept then some (coreDie x.ev.msg.dst)
  else if x.row = .probeForward then some (coreDie x.ev.probe.at_.core)
  else none

/-- The management requests, but for those that `State.mgmtAccess` answers itself. -/
def mgmtRows : List Instr :=
  [.coreTableWrite, .spmoveStart, .contextResume, .contextRestart, .contextAbort, .kernelLoad, .kernelLaunch, .kernelAbort,
    .kernelPreempt, .kernelResume, .linkTrain, .linkQuiesce, .linkResume, .linkIsolate, .linkDown, .kvRingInstall,
    .shuttleConfigure, .mgmtRequest, .sysWdogWrite, .brewhouseGo, .attestationSign, .ownershipClaim, .islandWrite,
    .gustTokensWrite, .spaceLoad, .mgmtRegisterWrite]

/-- Whether an event does not happen: the die of its unit has stopped (R226), or it is a management request after boot has
failed (R405). -/
def State.stopped (s : State) (x : Due) : Bool :=
  match x.die with
  | some d => (s.die d).stopped
  | none => s.mgmt.phase == 0xFF && mgmtRows.contains x.row

/-- An event taken from the agenda. -/
def State.carryOut (s : State) (x : Due) (late : Bool) : Todo :=
  if s.stopped x then .pass { s with agenda := s.agenda.erase x, late }
  else if isEvent x.row then
    .run x.row { s with agenda := s.agenda.erase x, ev := x.ev, asker := .event x.row x.ev, late }.beginErrand
  else .bad

/-- What the next step does. -/
def State.todo (s : State) : Todo :=
  match s.nextDue with
  | some x => s.carryOut x s.late
  | none =>
    match s.nextIssue with
    | some i => s.issue i
    | none =>
      match s.nextLate with
      | some x => s.carryOut x true
      | none => .pass s.tick

/-! ### Placing a program (DESIGN CHOICE, log entry 5) -/

/-- The kernel of a program that is placed: one core, one context, no code of its own. -/
def placedKernel : Kernel :=
  { part := 0, num := 0, state := .running, comb := 0, pers := false, skewb := 0, rptag := 0, rpcore := 0, eptag := 0
    regbase := 0, regsize := 0, cores := [{ core := 0, ovf := 0, nctx := 1 }], tags := [], codeBase := 0, codeSize := 0
    wins := [0, 0, 0, 0, 0, 0, 0, 0] }

/-- The code message that carries a program of at most 256 bytes (R67, R78). -/
def codeMsg (bytes : List Byte) : Msg :=
  { w0 := headerWord 0 0 false 2 bytes.length 0 0, w1 := headerWord1 0 0, payload := bytes, cap := 0, own := false, xfer := false }

/-- Core 0 context 0 bound to a code message with these bytes, about to issue its first word. -/
def State.withCode (s : State) (bytes : List Byte) : State :=
  let k := s.core 0
  let c : Context :=
    { startContext 0 (some placedKernel) 0 0 {} (codeMsg bytes).w0 (codeMsg bytes).w1 bytes.length 2 0 (some 0) 0 with
      notBefore := 0 }
  let slot : Slot := { msg := codeMsg bytes, arrival := s.clock, level := 0, since := s.clock, entry := 0, kernel := 0, bound := true }
  let s := { s with agenda := [], issued := [], late := false, kernels := s.kernels.put 0 placedKernel }
  let s := (s.setIsland 0 { s.island 0 with state := 1 }).modDie 0 fun d => { d with stopped := false }
  s.setCore 0 { (k.setCtx 0 c) with
    inbox := k.inbox.put 0 slot, rr := 7, views := k.views.put 0 { grp := grpWord placedKernel.cores ⟨0, 0, 1⟩ } }

end Sys2Proof.Machine
end

