-- ==== Sys2Proof/Machine/Dispatch.lean ====
section
/-!
DEFINITION. Sys2Proof/Machine/Dispatch.lean: one arm for every row of the opcode table.
-/

namespace Sys2Proof.Machine

open Sys2Proof

def exec (i : Instr) (s : State) : Host.Outcome State Fault Refusal :=
  match i with
  | .add h d a b => Sys2Proof.Machine.execAdd h d a b s
  | .sub h d a b => Sys2Proof.Machine.execSub h d a b s
  | .mul h d a b => Sys2Proof.Machine.execMul h d a b s
  | .mov h d a => Sys2Proof.Machine.execMov h d a s
  | .mulh h u d a b => Sys2Proof.Machine.execMulh h u d a b s
  | .div h u d a b => Sys2Proof.Machine.execDiv h u d a b s
  | .rem h u d a b => Sys2Proof.Machine.execRem h u d a b s
  | .min h u d a b => Sys2Proof.Machine.execMin h u d a b s
  | .max h u d a b => Sys2Proof.Machine.execMax h u d a b s
  | .and h d a b => Sys2Proof.Machine.execAnd h d a b s
  | .or h d a b => Sys2Proof.Machine.execOr h d a b s
  | .xor h d a b => Sys2Proof.Machine.execXor h d a b s
  | .andn h d a b => Sys2Proof.Machine.execAndn h d a b s
  | .shl h d a b => Sys2Proof.Machine.execShl h d a b s
  | .shr h d a b => Sys2Proof.Machine.execShr h d a b s
  | .sar h d a b => Sys2Proof.Machine.execSar h d a b s
  | .rol h d a b => Sys2Proof.Machine.execRol h d a b s
  | .shlImm h d a n => Sys2Proof.Machine.execShlImm h d a n s
  | .shrImm h d a n => Sys2Proof.Machine.execShrImm h d a n s
  | .sarImm h d a n => Sys2Proof.Machine.execSarImm h d a n s
  | .rolImm h d a n => Sys2Proof.Machine.execRolImm h d a n s
  | .popc h d a => Sys2Proof.Machine.execPopc h d a s
  | .clz h d a => Sys2Proof.Machine.execClz h d a s
  | .ctz h d a => Sys2Proof.Machine.execCtz h d a s
  | .sext h d a w1 => Sys2Proof.Machine.execSext h d a w1 s
  | .cmp h c d a b => Sys2Proof.Machine.execCmp h c d a b s
  | .cmpUnsigned h c d a b => Sys2Proof.Machine.execCmpUnsigned h c d a b s
  | .cmpi h c d a imm => Sys2Proof.Machine.execCmpi h c d a imm s
  | .cmpiUnsigned h c d a imm => Sys2Proof.Machine.execCmpiUnsigned h c d a imm s
  | .addi h d a imm => Sys2Proof.Machine.execAddi h d a imm s
  | .addiXw h d a imm => Sys2Proof.Machine.execAddiXw h d a imm s
  | .lea h sc d a b => Sys2Proof.Machine.execLea h sc d a b s
  | .leaw h sc d a b => Sys2Proof.Machine.execLeaw h sc d a b s
  | .fshl h d a b c => Sys2Proof.Machine.execFshl h d a b c s
  | .fshr h d a b c => Sys2Proof.Machine.execFshr h d a b c s
  | .sel h d a b c => Sys2Proof.Machine.execSel h d a b c s
  | .lop3 h d a b c tt => Sys2Proof.Machine.execLop3 h d a b c tt s
  | .extr h d a pos w1 => Sys2Proof.Machine.execExtr h d a pos w1 s
  | .ins h d a pos w1 => Sys2Proof.Machine.execIns h d a pos w1 s
  | .movi h d imm => Sys2Proof.Machine.execMovi h d imm s
  | .li64 h d a imm => Sys2Proof.Machine.execLi64 h d a imm s
  | .br h off => Sys2Proof.Machine.execBr h off s
  | .call h off => Sys2Proof.Machine.execCall h off s
  | .brz h a off => Sys2Proof.Machine.execBrz h a off s
  | .brnz h a off => Sys2Proof.Machine.execBrnz h a off s
  | .loop h a off => Sys2Proof.Machine.execLoop h a off s
  | .fork h a off => Sys2Proof.Machine.execFork h a off s
  | .brp h t a off => Sys2Proof.Machine.execBrp h t a off s
  | .jmpr h a => Sys2Proof.Machine.execJmpr h a s
  | .callr h d a => Sys2Proof.Machine.execCallr h d a s
  | .ret h a => Sys2Proof.Machine.execRet h a s
  | .join h a => Sys2Proof.Machine.execJoin h a s
  | .loopi h n1 off => Sys2Proof.Machine.execLoopi h n1 off s
  | .rpt h len1 stride count1 => Sys2Proof.Machine.execRpt h len1 stride count1 s
  | .endAct h => Sys2Proof.Machine.execEndAct h s
  | .yield h => Sys2Proof.Machine.execYield h s
  | .nop => Sys2Proof.Machine.execNop s
  | .tlbinv h c a b => Sys2Proof.Machine.execTlbinv h c a b s
  | .sleep h d a => Sys2Proof.Machine.execSleep h d a s
  | .preempt h d a => Sys2Proof.Machine.execPreempt h d a s
  | .csave h d a b => Sys2Proof.Machine.execCsave h d a b s
  | .crest h d a b => Sys2Proof.Machine.execCrest h d a b s
  | .tagen h n => Sys2Proof.Machine.execTagen h n s
  | .tagclr h n => Sys2Proof.Machine.execTagclr h n s
  | .eret h n => Sys2Proof.Machine.execEret h n s
  | .trap h n => Sys2Proof.Machine.execTrap h n s
  | .hint stall n imm => Sys2Proof.Machine.execHint stall n imm s
  | .csrr h d n => Sys2Proof.Machine.execCsrr h d n s
  | .csrw h d a n => Sys2Proof.Machine.execCsrw h d a n s
  | .csrs h d a n => Sys2Proof.Machine.execCsrs h d a n s
  | .csrc h d a n => Sys2Proof.Machine.execCsrc h d a n s
  | .ld h sz d a imm => Sys2Proof.Machine.execLd h sz d a imm s
  | .ldU h sz d a imm => Sys2Proof.Machine.execLdU h sz d a imm s
  | .st h sz d a imm => Sys2Proof.Machine.execSt h sz d a imm s
  | .ldIndexed h sz d a b => Sys2Proof.Machine.execLdIndexed h sz d a b s
  | .stIndexed h sz d a b => Sys2Proof.Machine.execStIndexed h sz d a b s
  | .ldXi h sz d a imm => Sys2Proof.Machine.execLdXi h sz d a imm s
  | .ldUXi h sz d a imm => Sys2Proof.Machine.execLdUXi h sz d a imm s
  | .stXi h sz d a imm => Sys2Proof.Machine.execStXi h sz d a imm s
  | .vld h d a imm => Sys2Proof.Machine.execVld h d a imm s
  | .vst h d a imm => Sys2Proof.Machine.execVst h d a imm s
  | .vldXi h d a imm => Sys2Proof.Machine.execVldXi h d a imm s
  | .vstXi h d a imm => Sys2Proof.Machine.execVstXi h d a imm s
  | .msgvld h d a imm => Sys2Proof.Machine.execMsgvld h d a imm s
  | .msgld h d a imm => Sys2Proof.Machine.execMsgld h d a imm s
  | .wdset h a n => Sys2Proof.Machine.execWdset h a n s
  | .wdget h d n => Sys2Proof.Machine.execWdget h d n s
  | .pref h w a imm => Sys2Proof.Machine.execPref h w a imm s
  | .lda h sz scope d a => Sys2Proof.Machine.execLda h sz scope d a s
  | .strel h sz scope d a => Sys2Proof.Machine.execStrel h sz scope d a s
  | .fence h scope ord => Sys2Proof.Machine.execFence h scope ord s
  | .amoAdd h dbl scope ord d a b => Sys2Proof.Machine.execAmoAdd h dbl scope ord d a b s
  | .amoAnd h dbl scope ord d a b => Sys2Proof.Machine.execAmoAnd h dbl scope ord d a b s
  | .amoOr h dbl scope ord d a b => Sys2Proof.Machine.execAmoOr h dbl scope ord d a b s
  | .amoXor h dbl scope ord d a b => Sys2Proof.Machine.execAmoXor h dbl scope ord d a b s
  | .amoMin h u dbl scope ord d a b => Sys2Proof.Machine.execAmoMin h u dbl scope ord d a b s
  | .amoMax h u dbl scope ord d a b => Sys2Proof.Machine.execAmoMax h u dbl scope ord d a b s
  | .amoSwp h dbl scope ord d a b => Sys2Proof.Machine.execAmoSwp h dbl scope ord d a b s
  | .amocas h dbl scope ord d a b c => Sys2Proof.Machine.execAmocas h dbl scope ord d a b c s
  | .amofadd h rnd scope ord d a b => Sys2Proof.Machine.execAmofadd h rnd scope ord d a b s
  | .vlds h bk d a b => Sys2Proof.Machine.execVlds h bk d a b s
  | .vsts h bk d a b => Sys2Proof.Machine.execVsts h bk d a b s
  | .vgath h d a b => Sys2Proof.Machine.execVgath h d a b s
  | .vscat h d a b => Sys2Proof.Machine.execVscat h d a b s
  | .hld h d a imm => Sys2Proof.Machine.execHld h d a imm s
  | .hst h d a imm => Sys2Proof.Machine.execHst h d a imm s
  | .hrd h d a imm => Sys2Proof.Machine.execHrd h d a imm s
  | .hwr h d a imm => Sys2Proof.Machine.execHwr h d a imm s
  | .hvld h d a imm => Sys2Proof.Machine.execHvld h d a imm s
  | .hvst h d a imm => Sys2Proof.Machine.execHvst h d a imm s
  | .hrdXi h d a imm => Sys2Proof.Machine.execHrdXi h d a imm s
  | .hwrXi h d a imm => Sys2Proof.Machine.execHwrXi h d a imm s
  | .hvldXi h d a imm => Sys2Proof.Machine.execHvldXi h d a imm s
  | .hvstXi h d a imm => Sys2Proof.Machine.execHvstXi h d a imm s
  | .alloc h d a b => Sys2Proof.Machine.execAlloc h d a b s
  | .hmov h d a => Sys2Proof.Machine.execHmov h d a s
  | .hkind h d a => Sys2Proof.Machine.execHkind h d a s
  | .heq h d a b => Sys2Proof.Machine.execHeq h d a b s
  | .pin h d a => Sys2Proof.Machine.execPin h d a s
  | .unpin h a => Sys2Proof.Machine.execUnpin h a s
  | .force h d a => Sys2Proof.Machine.execForce h d a s
  | .forcenb h d a b => Sys2Proof.Machine.execForcenb h d a b s
  | .done h final a => Sys2Proof.Machine.execDone h final a s
  | .spark h a => Sys2Proof.Machine.execSpark h a s
  | .upd h a b => Sys2Proof.Machine.execUpd h a b s
  | .evac h d a b => Sys2Proof.Machine.execEvac h d a b s
  | .susp h op d a b c fmt rnd sat lrows lcols => Sys2Proof.Machine.execSusp h op d a b c fmt rnd sat lrows lcols s
  | .suspc h d a b c fmt n lrows lcols => Sys2Proof.Machine.execSuspc h d a b c fmt n lrows lcols s
  | .send h a b => Sys2Proof.Machine.execSend h a b s
  | .sendnb h d a b => Sys2Proof.Machine.execSendnb h d a b s
  | .sendRk h a b => Sys2Proof.Machine.execSendRk h a b s
  | .sendnbRk h d a b => Sys2Proof.Machine.execSendnbRk h d a b s
  | .sendc h d a b cap => Sys2Proof.Machine.execSendc h d a b cap s
  | .rktop h d a b => Sys2Proof.Machine.execRktop h d a b s
  | .rkclr h a => Sys2Proof.Machine.execRkclr h a s
  | .pmtret h a => Sys2Proof.Machine.execPmtret h a s
  | .pmtcnt h d => Sys2Proof.Machine.execPmtcnt h d s
  | .pmtsnd h d a b => Sys2Proof.Machine.execPmtsnd h d a b s
  | .toksnd h d a b => Sys2Proof.Machine.execToksnd h d a b s
  | .admitTok h d b => Sys2Proof.Machine.execAdmitTok h d b s
  | .refuse h d a b => Sys2Proof.Machine.execRefuse h d a b s
  | .kvhRing h d a => Sys2Proof.Machine.execKvhRing h d a s
  | .kvhLoc h d a b => Sys2Proof.Machine.execKvhLoc h d a b s
  | .barinit h a n => Sys2Proof.Machine.execBarinit h a n s
  | .bararv h d n => Sys2Proof.Machine.execBararv h d n s
  | .barwait h a n => Sys2Proof.Machine.execBarwait h a n s
  | .bartry h d a n => Sys2Proof.Machine.execBartry h d a n s
  | .bararvw h n => Sys2Proof.Machine.execBararvw h n s
  | .gbwait h a n => Sys2Proof.Machine.execGbwait h a n s
  | .gbtry h d a n => Sys2Proof.Machine.execGbtry h d a n s
  | .gbarv h lvl d n => Sys2Proof.Machine.execGbarv h lvl d n s
  | .mrpush h d a => Sys2Proof.Machine.execMrpush h d a s
  | .mrhead h d a => Sys2Proof.Machine.execMrhead h d a s
  | .mpoll h d a b => Sys2Proof.Machine.execMpoll h d a b s
  | .mwait h d a => Sys2Proof.Machine.execMwait h d a s
  | .mjob h d a => Sys2Proof.Machine.execMjob h d a s
  | .mjobnb h d a b => Sys2Proof.Machine.execMjobnb h d a b s
  | .macld h d a b => Sys2Proof.Machine.execMacld h d a b s
  | .macst h d a b => Sys2Proof.Machine.execMacst h d a b s
  | .mcmd h d a b cap => Sys2Proof.Machine.execMcmd h d a b cap s
  | .mrset h r imm => Sys2Proof.Machine.execMrset h r imm s
  | .cpy h d a => Sys2Proof.Machine.execCpy h d a s
  | .cpynb h d a b => Sys2Proof.Machine.execCpynb h d a b s
  | .cppoll h d a b => Sys2Proof.Machine.execCppoll h d a b s
  | .cpwait h d a => Sys2Proof.Machine.execCpwait h d a s
  | .halo h d a => Sys2Proof.Machine.execHalo h d a s
  | .halocnt h d a => Sys2Proof.Machine.execHalocnt h d a s
  | .fxfer h d a b => Sys2Proof.Machine.execFxfer h d a b s
  | .fxa2a h d a b => Sys2Proof.Machine.execFxa2a h d a b s
  | .vadd h bk rnd d a b => Sys2Proof.Machine.execVadd h bk rnd d a b s
  | .vsub h bk rnd d a b => Sys2Proof.Machine.execVsub h bk rnd d a b s
  | .vmul h bk rnd d a b => Sys2Proof.Machine.execVmul h bk rnd d a b s
  | .vfma h bk rnd d a b => Sys2Proof.Machine.execVfma h bk rnd d a b s
  | .vcmp h c t d a b => Sys2Proof.Machine.execVcmp h c t d a b s
  | .vmin h bk t d a b => Sys2Proof.Machine.execVmin h bk t d a b s
  | .vmax h bk t d a b => Sys2Proof.Machine.execVmax h bk t d a b s
  | .vsel h bk d a b c => Sys2Proof.Machine.execVsel h bk d a b c s
  | .vred h op t rnd d a => Sys2Proof.Machine.execVred h op t rnd d a s
  | .vdot h t rnd d a b => Sys2Proof.Machine.execVdot h t rnd d a b s
  | .vabs h bk d a => Sys2Proof.Machine.execVabs h bk d a s
  | .vneg h bk d a => Sys2Proof.Machine.execVneg h bk d a s
  | .vrcp h bk rnd d a => Sys2Proof.Machine.execVrcp h bk rnd d a s
  | .vrsq h bk rnd d a => Sys2Proof.Machine.execVrsq h bk rnd d a s
  | .vsqrt h bk rnd d a => Sys2Proof.Machine.execVsqrt h bk rnd d a s
  | .vexp2 h bk rnd d a => Sys2Proof.Machine.execVexp2 h bk rnd d a s
  | .vlog2 h bk rnd d a => Sys2Proof.Machine.execVlog2 h bk rnd d a s
  | .vmov h bk d a => Sys2Proof.Machine.execVmov h bk d a s
  | .vbcast h bk d a => Sys2Proof.Machine.execVbcast h bk d a s
  | .vext h d a b => Sys2Proof.Machine.execVext h d a b s
  | .vperm h bk d a b => Sys2Proof.Machine.execVperm h bk d a b s
  | .vrot h bk d a b => Sys2Proof.Machine.execVrot h bk d a b s
  | .viadd h bk sat d a b => Sys2Proof.Machine.execViadd h bk sat d a b s
  | .visub h bk sat d a b => Sys2Proof.Machine.execVisub h bk sat d a b s
  | .vimul h bk sat d a b => Sys2Proof.Machine.execVimul h bk sat d a b s
  | .vimad h bk sat d a b => Sys2Proof.Machine.execVimad h bk sat d a b s
  | .vand h bk d a b => Sys2Proof.Machine.execVand h bk d a b s
  | .vor h bk d a b => Sys2Proof.Machine.execVor h bk d a b s
  | .vxor h bk d a b => Sys2Proof.Machine.execVxor h bk d a b s
  | .vshl h bk d a b => Sys2Proof.Machine.execVshl h bk d a b s
  | .vshr h bk d a b => Sys2Proof.Machine.execVshr h bk d a b s
  | .vfshl h bk d a b c => Sys2Proof.Machine.execVfshl h bk d a b c s
  | .vfshr h bk d a b c => Sys2Proof.Machine.execVfshr h bk d a b c s
  | .vpopc h bk d a => Sys2Proof.Machine.execVpopc h bk d a s
  | .vcvt h bk rnd sat fmt src d a => Sys2Proof.Machine.execVcvt h bk rnd sat fmt src d a s
  | .vpack h bk rnd sat fmt q d a => Sys2Proof.Machine.execVpack h bk rnd sat fmt q d a s
  | .vunpk h bk fmt q d a => Sys2Proof.Machine.execVunpk h bk fmt q d a s
  | .vsmax h rnd d a b c => Sys2Proof.Machine.execVsmax h rnd d a b c s
  | .vsmrg h rnd d a b c => Sys2Proof.Machine.execVsmrg h rnd d a b c s
  | .vscal h bk rnd d a b => Sys2Proof.Machine.execVscal h bk rnd d a b s
  | .vlop3 h d a b c tt => Sys2Proof.Machine.execVlop3 h d a b c tt s
  | .resultWriteback => Sys2Proof.Machine.execResultWriteback s
  | .coreTableWrite => Sys2Proof.Machine.execCoreTableWrite s
  | .heldMessageDelivery => Sys2Proof.Machine.execHeldMessageDelivery s
  | .spmoveStart => Sys2Proof.Machine.execSpmoveStart s
  | .spmoveDone => Sys2Proof.Machine.execSpmoveDone s
  | .messageAccept => Sys2Proof.Machine.execMessageAccept s
  | .messageBind => Sys2Proof.Machine.execMessageBind s
  | .priorityPromotion => Sys2Proof.Machine.execPriorityPromotion s
  | .wake => Sys2Proof.Machine.execWake s
  | .dequeBind => Sys2Proof.Machine.execDequeBind s
  | .probeSend => Sys2Proof.Machine.execProbeSend s
  | .probeForward => Sys2Proof.Machine.execProbeForward s
  | .victimNotice => Sys2Proof.Machine.execVictimNotice s
  | .trapModeEntry => Sys2Proof.Machine.execTrapModeEntry s
  | .saveComplete => Sys2Proof.Machine.execSaveComplete s
  | .restoreComplete => Sys2Proof.Machine.execRestoreComplete s
  | .contextResume => Sys2Proof.Machine.execContextResume s
  | .contextRestart => Sys2Proof.Machine.execContextRestart s
  | .contextAbort => Sys2Proof.Machine.execContextAbort s
  | .kernelLoad => Sys2Proof.Machine.execKernelLoad s
  | .kernelLaunch => Sys2Proof.Machine.execKernelLaunch s
  | .kernelAbort => Sys2Proof.Machine.execKernelAbort s
  | .kernelPreempt => Sys2Proof.Machine.execKernelPreempt s
  | .preemptGraceExpire => Sys2Proof.Machine.execPreemptGraceExpire s
  | .kernelSaveStart => Sys2Proof.Machine.execKernelSaveStart s
  | .kernelSaveDone => Sys2Proof.Machine.execKernelSaveDone s
  | .kernelResume => Sys2Proof.Machine.execKernelResume s
  | .kernelDrainDone => Sys2Proof.Machine.execKernelDrainDone s
  | .treeCombine => Sys2Proof.Machine.execTreeCombine s
  | .kernelBarrierCombine => Sys2Proof.Machine.execKernelBarrierCombine s
  | .kernelBarrierRelease => Sys2Proof.Machine.execKernelBarrierRelease s
  | .kilnActivate => Sys2Proof.Machine.execKilnActivate s
  | .kilnMark => Sys2Proof.Machine.execKilnMark s
  | .kilnEvac => Sys2Proof.Machine.execKilnEvac s
  | .kilnRelease => Sys2Proof.Machine.execKilnRelease s
  | .kilnFree => Sys2Proof.Machine.execKilnFree s
  | .markDone => Sys2Proof.Machine.execMarkDone s
  | .kilnSweep => Sys2Proof.Machine.execKilnSweep s
  | .objectCopyDone => Sys2Proof.Machine.execObjectCopyDone s
  | .sparkRun => Sys2Proof.Machine.execSparkRun s
  | .matmulEvalDone => Sys2Proof.Machine.execMatmulEvalDone s
  | .thunkEvalEnd => Sys2Proof.Machine.execThunkEvalEnd s
  | .walkDone => Sys2Proof.Machine.execWalkDone s
  | .priResponse => Sys2Proof.Machine.execPriResponse s
  | .atsInvalidate => Sys2Proof.Machine.execAtsInvalidate s
  | .migrationCommand => Sys2Proof.Machine.execMigrationCommand s
  | .migrationStreamDone => Sys2Proof.Machine.execMigrationStreamDone s
  | .redirectNotice => Sys2Proof.Machine.execRedirectNotice s
  | .staleRequestForward => Sys2Proof.Machine.execStaleRequestForward s
  | .migrationInvalidationDone => Sys2Proof.Machine.execMigrationInvalidationDone s
  | .linkTrain => Sys2Proof.Machine.execLinkTrain s
  | .linkQuiesce => Sys2Proof.Machine.execLinkQuiesce s
  | .linkResume => Sys2Proof.Machine.execLinkResume s
  | .linkIsolate => Sys2Proof.Machine.execLinkIsolate s
  | .linkDown => Sys2Proof.Machine.execLinkDown s
  | .trainingDone => Sys2Proof.Machine.execTrainingDone s
  | .trainingTimeout => Sys2Proof.Machine.execTrainingTimeout s
  | .linkFailure => Sys2Proof.Machine.execLinkFailure s
  | .replayThreshold => Sys2Proof.Machine.execReplayThreshold s
  | .linkRequestTimeout => Sys2Proof.Machine.execLinkRequestTimeout s
  | .linkResponse => Sys2Proof.Machine.execLinkResponse s
  | .incomingRequest => Sys2Proof.Machine.execIncomingRequest s
  | .windowOverrun => Sys2Proof.Machine.execWindowOverrun s
  | .hostRequest => Sys2Proof.Machine.execHostRequest s
  | .storageDma => Sys2Proof.Machine.execStorageDma s
  | .fabricCompletion => Sys2Proof.Machine.execFabricCompletion s
  | .kvRingInstall => Sys2Proof.Machine.execKvRingInstall s
  | .kvRingLoadDone => Sys2Proof.Machine.execKvRingLoadDone s
  | .shuttleConfigure => Sys2Proof.Machine.execShuttleConfigure s
  | .shuttleDelivery => Sys2Proof.Machine.execShuttleDelivery s
  | .matrixJobStart => Sys2Proof.Machine.execMatrixJobStart s
  | .ringTileTimeout => Sys2Proof.Machine.execRingTileTimeout s
  | .matrixJobDone => Sys2Proof.Machine.execMatrixJobDone s
  | .mcmdArrival => Sys2Proof.Machine.execMcmdArrival s
  | .copyStart => Sys2Proof.Machine.execCopyStart s
  | .copySourceFree => Sys2Proof.Machine.execCopySourceFree s
  | .copyVisible => Sys2Proof.Machine.execCopyVisible s
  | .haloArrival => Sys2Proof.Machine.execHaloArrival s
  | .mgmtRequest => Sys2Proof.Machine.execMgmtRequest s
  | .eccCorrected => Sys2Proof.Machine.execEccCorrected s
  | .eccUncorrectable => Sys2Proof.Machine.execEccUncorrectable s
  | .watchdogExpire => Sys2Proof.Machine.execWatchdogExpire s
  | .sysWdogWrite => Sys2Proof.Machine.execSysWdogWrite s
  | .sleepExpire => Sys2Proof.Machine.execSleepExpire s
  | .thermalTrip => Sys2Proof.Machine.execThermalTrip s
  | .supplyTrip => Sys2Proof.Machine.execSupplyTrip s
  | .packageReset => Sys2Proof.Machine.execPackageReset s
  | .firmwareVerify => Sys2Proof.Machine.execFirmwareVerify s
  | .brewhouseGo => Sys2Proof.Machine.execBrewhouseGo s
  | .attestationSign => Sys2Proof.Machine.execAttestationSign s
  | .ownershipClaim => Sys2Proof.Machine.execOwnershipClaim s
  | .islandWrite => Sys2Proof.Machine.execIslandWrite s
  | .gustTokensWrite => Sys2Proof.Machine.execGustTokensWrite s
  | .spaceLoad => Sys2Proof.Machine.execSpaceLoad s
  | .mgmtVdmRequest => Sys2Proof.Machine.execMgmtVdmRequest s
  | .i3cTransfer => Sys2Proof.Machine.execI3cTransfer s
  | .mgmtRegisterWrite => Sys2Proof.Machine.execMgmtRegisterWrite s
  | .tlbinvComplete => Sys2Proof.Machine.execTlbinvComplete s
  | .illegalInstruction => Sys2Proof.Machine.execIllegalInstruction s
  | .instructionFetchFault => Sys2Proof.Machine.execInstructionFetchFault s

end Sys2Proof.Machine
end

