-- ==== Sys2Proof/Machine/Step.lean ====
section
/-!
DEFINITION. Sys2Proof/Machine/Step.lean: the step, and where the next instruction is fetched (DESIGN CHOICE, log entries 3 and 5).
-/

namespace Sys2Proof.Machine

open Sys2Proof

/-- One step: the meaning of the row that is next, on the state in which it is next; or a step that runs none. -/
def step (s : State) : Host.Outcome State Fault Refusal :=
  match s.todo with
  | .run i s' => exec i s'
  | .pass s' => .next s'
  | .bad => .fault .agendaNotEvent

/-- The state with an instruction as the next that issues: the code message of core 0, context 0 (DESIGN CHOICE, log entry 5). -/
def State.withFetchWord (s : State) (nbits w : Nat) : State :=
  s.withCode (bytesOfNat 8 (w % 2 ^ nbits))

end Sys2Proof.Machine
end

