-- ==== Sys2Proof/Safety.lean ====
section
/-!
DEFINITION. Sys2Proof/Safety.lean: the invariant of a safe state, what a safe step is, and the terms in which the statements
say what an instruction writes and what it leaves as it was.
-/

namespace Sys2Proof.Safety

open Sys2Proof Sys2Proof.Machine

/-! ### Safe states and steps -/

/-- Memory in canonical form. -/
def MemOk (s : State) : Prop :=
  Memory.wf s.mem = true

/-- An agenda of events alone. -/
def AgendaOk (s : State) : Prop :=
  s.agenda.all (fun x => isEvent x.row) = true

/-- A step that neither faults nor refuses. -/
def Goes (s : State) : Prop :=
  ∃ t, step s = .next t

/-! ### What the issuing instruction needs -/

/-- The predicate can be read, some lane is active, and every source can be read (R233, R232, R235, R273). -/
structure Enabled (s : State) (h : Hdr) (srcs : List (Cls × Fld)) : Prop where
  pred  : s.ctx.predTrap h = none
  lanes : s.ctx.active h ≠ 0
  reads : s.ctx.readTrap srcs = none

/-- The same without an active lane being asked: a per-lane instruction reads its sources whatever is active (R291). -/
structure Readable (s : State) (h : Hdr) (srcs : List (Cls × Fld)) : Prop where
  pred  : s.ctx.predTrap h = none
  reads : s.ctx.readTrap srcs = none

/-! ### Frames -/

/-- The whole machine but the issuing context is as it was: every byte of memory, every other context, core, die, engine,
kernel and port, the agenda and the clock. -/
def OnlyContext (s t : State) : Prop :=
  t = s.setCtx t.ctx

/-- In the issuing context everything is as it was but the four register files with their poison, CTX.FFLAGS, the pc with its loops and repeat
frame, the distance history with its poison, the scoreboard and the replies and parts of the instruction. -/
def ContextRest (c c' : Context) : Prop :=
  c' = { c with
    g := c'.g, v := c'.v, h := c'.h, p := c'.p, fflags := c'.fflags, hist := c'.hist, histEcc := c'.histEcc, pend := c'.pend, dist := c'.dist,
    notBefore := c'.notBefore, replies := c'.replies, parts := c'.parts, retry := c'.retry, ecc := c'.ecc, pc := c'.pc, loops := c'.loops, frame := c'.frame }

/-- The registers of the four classes are as they were. -/
def RegsKept (c c' : Context) : Prop :=
  ∀ k n, c'.reg k n = c.reg k n

/-- Where nothing else moves the pc, it passes the instruction (R252); the next issue waits for the stall count (R235). -/
structure Passed (s t : State) (h : Hdr) (len : Nat) : Prop where
  pc    : s.ctx.frame = none → s.ctx.loops = [] → t.ctx.pc = s.ctx.pc + BitVec.ofNat 64 len
  stall : t.ctx.notBefore = s.clock + 1 + h.stall.toNat

/-- Whether a destination field keeps what is written: a register, neither g0 nor p0 (R231, R233). -/
def keeps (k : Cls) (d : Fld) : Bool :=
  decide (d.toNat < 56) && !drops k d.toNat

/-- An instruction of `len` bytes has written `x` to field `d` of class `k`, raised the flags `fl`, and nothing else: no
other register, no other flag, nothing outside the context; the entry it pushed on the distance history is `x`, or what p0
reads (R232). -/
structure Wrote (s t : State) (h : Hdr) (len : Nat) (k : Cls) (d : Fld) (x : Vec) (fl : Flags := 0) : Prop where
  only   : OnlyContext s t
  rest   : ContextRest s.ctx t.ctx
  fflags : t.ctx.fflags = s.ctx.fflags ||| fl
  regs   : ∀ k' n, t.ctx.reg k' n = if k' = k ∧ n = d.toNat ∧ keeps k d then x else s.ctx.reg k' n
  entry  : t.ctx.hist = ((if k = .p ∧ d = 0 then 0xFFFF else x) :: s.ctx.hist).take 8
  passed : Passed s t h len

/-- `i` completes and writes `x`, raising `fl`. -/
def Writes (i : Instr) (s : State) (h : Hdr) (len : Nat) (k : Cls) (d : Fld) (x : Vec) (fl : Flags := 0) : Prop :=
  ∃ t, exec i s = .next t ∧ Wrote s t h len k d x fl

/-- The flags of the active lanes of the first `n` registers of a block (R44). -/
def blockFlags (m : Mask) (f : Nat → LaneFn) : Nat → Flags
  | 0 => 0
  | n + 1 => blockFlags m f n ||| activeFlags m (f n)

/-- A per-lane instruction has written `f r l` to lane `l` of register `r` of its block where that lane is active, and
nothing else but the flags of those lanes (R234, R291). -/
structure WroteLanes (s t : State) (h : Hdr) (bk : Block) (d : Fld) (f : Nat → LaneFn) : Prop where
  only   : OnlyContext s t
  rest   : ContextRest s.ctx t.ctx
  fflags : t.ctx.fflags = s.ctx.fflags ||| blockFlags (s.ctx.active h) f (blockSize bk)
  lanes  : d.toNat < 56 → ∀ r l, r < blockSize bk → l < 16 →
    lane (t.ctx.reg .v (blockFld bk d r).toNat) l =
      if (s.ctx.active h).getLsbD l then (f r l).1 else lane (s.ctx.reg .v (blockFld bk d r).toNat) l
  others : ∀ k n, (k = .v → d.toNat < 56 → ∀ r, r < blockSize bk → n ≠ (blockFld bk d r).toNat) →
    t.ctx.reg k n = s.ctx.reg k n
  passed : Passed s t h twoWord

/-- `i` completes and writes those lanes. -/
def WritesLanes (i : Instr) (s : State) (h : Hdr) (bk : Block) (d : Fld) (f : Nat → LaneFn) : Prop :=
  ∃ t, exec i s = .next t ∧ WroteLanes s t h bk d f

/-! ### Instructions that write no register -/

/-- The instruction has completed and done nothing else: it has passed, with no entry on the distance history. -/
structure Idle (s t : State) (h : Hdr) (len : Nat) : Prop where
  only   : OnlyContext s t
  rest   : ContextRest s.ctx t.ctx
  fflags : t.ctx.fflags = s.ctx.fflags
  regs   : RegsKept s.ctx t.ctx
  hist   : t.ctx.hist = s.ctx.hist
  passed : Passed s t h len

/-- `i` completes and does nothing else. -/
def Idles (i : Instr) (s : State) (h : Hdr) (len : Nat) : Prop :=
  ∃ t, exec i s = .next t ∧ Idle s t h len

/-- An address that a transfer may go to (R249): a multiple of four, within the payload where a code message runs. -/
def Reaches (s : State) (a : Word) : Prop :=
  a.toNat % 4 = 0 ∧ ∀ len, s.codeLen s.cur = some len → a.toNat < len

/-- Control has gone to `a` (R252, R255): the loops whose body it left are discarded. -/
structure Jumped (s t : State) (h : Hdr) (a : Word) : Prop where
  only   : OnlyContext s t
  rest   : ContextRest s.ctx t.ctx
  fflags : t.ctx.fflags = s.ctx.fflags
  pc     : t.ctx.pc = a
  loops  : t.ctx.loops = s.ctx.loops.dropWhile fun l => decide (a.toNat < l.start.toNat ∨ l.exit.toNat ≤ a.toNat)
  frame  : t.ctx.frame = s.ctx.frame
  stall  : t.ctx.notBefore = s.clock + 1 + h.stall.toNat

/-- `i` completes and goes to `a`, all registers and the distance history as they were. -/
def Jumps (i : Instr) (s : State) (h : Hdr) (a : Word) : Prop :=
  ∃ t, exec i s = .next t ∧ Jumped s t h a ∧ RegsKept s.ctx t.ctx ∧ t.ctx.hist = s.ctx.hist

/-- The target of an offset in words (R229, R249). -/
def offsetTarget {n : Nat} (c : Context) (off : BitVec n) : Word :=
  (c.pc + 4 * off.signExtend 64) &&& 0x000FFFFFFFFFFFFF#64

/-- A register value as the target of an indirect transfer: its low 52 bits (R249). -/
def indirectTarget (w : Word) : Word :=
  w &&& 0x000FFFFFFFFFFFFF#64

/-- `i` ends in the trap with this cause at its own address (R216). -/
def TrapsWith (i : Instr) (s : State) (k : Cause) : Prop :=
  exec i s = .next (s.trap k)

/-- A context but for what an instruction outside the register files may write in it. -/
def OtherContexts (s t : State) : Prop :=
  ∀ i, i ≠ s.cur → t.ctxAt i = s.ctxAt i

/-- Only the issuing core is changed, and on it no other context. -/
def OnlyCore (s t : State) : Prop :=
  t = s.setCore s.cur.core t.me ∧ OtherContexts s t

/-! ### Memory -/

/-- Every byte of memory reads as it did. -/
def MemKept (s t : State) : Prop :=
  ∀ a, t.readByte a = s.readByte a

/-- The bytes `bs` stand from `pa` up, and every byte outside reads as it did. -/
def StoredAt (s t : State) (pa : Nat) (bs : List Byte) : Prop :=
  (∀ k, k < bs.length → t.readByte (pa + k) = bs.getD k 0) ∧ ∀ a, a < pa ∨ pa + bs.length ≤ a → t.readByte a = s.readByte a

/-- Nothing of the machine is changed but the issuing context and what an access puts on the agenda: the leaves that it walked
for (R147). -/
def OnlyContextAndWalks (s t : State) : Prop :=
  t = ({ s with agenda := t.agenda, fresh := t.fresh }).setCtx t.ctx

/-- The same with memory: the bytes of memory and the poison that writing them clears. -/
def OnlyContextAndMemory (s t : State) : Prop :=
  t = ({ s with agenda := t.agenda, fresh := t.fresh, mem := t.mem, poison := t.poison }).setCtx t.ctx

/-- An access is permitted, and its bytes are in the package at these physical addresses, each of its own. -/
structure Here (s : State) (e : Elem) (pas : List Nat) : Prop where
  access : ∃ walked, s.access s.cur.core e = .ok (.here pas walked)
  nodup  : pas.Nodup
  length : pas.length = e.offs.length

/-- The bytes `bs` stand at the physical addresses `pas`, and every other byte reads as it did. -/
def StoredTo (s t : State) (pas : List Nat) (bs : List Byte) : Prop :=
  (∀ k, k < pas.length → t.readByte (pas.getD k 0) = bs.getD k 0) ∧ ∀ a, a ∉ pas → t.readByte a = s.readByte a

/-- A memory instruction has written `x` to field `d` of class `k` and raised `fl`; memory is as it was. -/
structure Loaded (s t : State) (h : Hdr) (len : Nat) (k : Cls) (d : Fld) (x : Vec) (fl : Flags) : Prop where
  only   : OnlyContextAndWalks s t
  rest   : ContextRest s.ctx t.ctx
  fflags : t.ctx.fflags = s.ctx.fflags ||| fl
  regs   : ∀ k' n, t.ctx.reg k' n = if k' = k ∧ n = d.toNat ∧ keeps k d then x else s.ctx.reg k' n
  entry  : t.ctx.hist = (x :: s.ctx.hist).take 8
  passed : Passed s t h len

/-- A memory instruction has stored bytes and raised `fl`; every register is as it was. -/
structure Stored (s t : State) (h : Hdr) (len : Nat) (pas : List Nat) (bs : List Byte) (fl : Flags) : Prop where
  only   : OnlyContextAndMemory s t
  rest   : ContextRest s.ctx t.ctx
  fflags : t.ctx.fflags = s.ctx.fflags ||| fl
  regs   : RegsKept s.ctx t.ctx
  hist   : t.ctx.hist = s.ctx.hist
  bytes  : StoredTo s t pas bs
  passed : Passed s t h len

/-! ### Effects outside the register files -/

/-- `s` with what has been put on the agenda since. -/
def timeless (s t : State) : State :=
  { s with agenda := t.agenda, fresh := t.fresh }

/-- An event is on the agenda. -/
def Queued (t : State) (row : Instr) (ev : Ev) : Prop :=
  ∃ x ∈ t.agenda, x.row = row ∧ x.ev = ev

/-- A message is on its way (R413). -/
def Sent (t : State) (m : Msg) : Prop :=
  Queued t .messageAccept { msg := m }

/-- Register `n` of class `k` after these fields were written, the first of the list winning. -/
def given (l : List (Cls × Fld × Vec)) (old : Vec) (k : Cls) (n : Nat) : Vec :=
  match l.find? fun e => decide (e.1 = k) && (e.2.1.toNat == n) && keeps e.1 e.2.1 with
  | some e => e.2.2
  | none => old

/-- The distance history once the first of these results has pushed its entry, or what p0 reads (R232). -/
def historyAfter (old : List Vec) : List (Cls × Fld × Vec) → List Vec
  | [] => old
  | e :: _ => ((if e.1 = .p ∧ e.2.1 = 0 then 0xFFFF else e.2.2) :: old).take 8

/-- The context `c` is the issuing one after an instruction that gave these results, the first with a distance entry, and
passed: no other register, no flag and no other field is changed (R252, R232, R235). -/
structure Gave (s : State) (c : Context) (h : Hdr) (len : Nat) (l : List (Cls × Fld × Vec)) : Prop where
  rest   : ContextRest s.ctx c
  fflags : c.fflags = s.ctx.fflags
  regs   : ∀ k n, c.reg k n = given l (s.ctx.reg k n) k n
  entry  : c.hist = historyAfter s.ctx.hist l
  pc     : s.ctx.frame = none → s.ctx.loops = [] → c.pc = s.ctx.pc + BitVec.ofNat 64 len
  stall  : c.notBefore = s.clock + 1 + h.stall.toNat

/-- The context waits, its instruction still at the pc (R56). -/
def waitingOn (s : State) (h : Hdr) (k : WaitKind) : Context :=
  { s.ctx with st := .waiting, replies := [], pend := [], wait := some { kind := k, since := s.clock, h } }

/-- Only a die, an engine, a port or the management block is changed. -/
def OnlyDie (s t : State) (n : Nat) : Prop :=
  t = s.setDie n (t.die n)

def OnlyEngine (s t : State) (n : Nat) : Prop :=
  t = s.setEngine n (t.engine n)

def OnlyPort (s t : State) (n : Nat) : Prop :=
  t = s.setPort n (t.port n)

def OnlyMgmt (s t : State) : Prop :=
  t = { s with mgmt := t.mgmt }

/-- Only the core `n` is changed. -/
def OnlyCoreAt (s t : State) (n : Nat) : Prop :=
  t = s.setCore n (t.core n)

/-- Only the context `i` is changed. -/
def OnlyCtxAt (s t : State) (i : CtxId) : Prop :=
  t = s.setCtxAt i (t.ctxAt i)

end Sys2Proof.Safety
end

