-- ==== Sys2Proof/Certificates/Slice0/Obligations.lean ====
section
/-!
DEFINITION. Sys2Proof/Certificates/Slice0/Obligations.lean: the statements for the provers. Each docstring names the rules
of the spec that the statement formalises.
-/

open Sys2Proof Sys2Proof.Machine Sys2Proof.Safety

/-! ### Scalar instructions -/

/-- R275 to R281, R288: the two-source scalar instructions complete with an active lane and readable sources, write their
result to gd, and change nothing else. -/
def Obligations.ScalarTwoSourceResults : Prop :=
  ∀ (s : State) (h : Hdr) (d a b : Fld), dstOk .g d = true → Enabled s h [gs a, gs b] →
    let x := s.ctx.srcG a
    let y := s.ctx.srcG b
    let writes := fun (i : Instr) (r : Word) => Writes i s h 4 .g d (ofWord r)
    writes (.add h d a b) (x + y) ∧ writes (.sub h d a b) (x - y) ∧ writes (.mul h d a b) (x * y)
    ∧ writes (.mulh h true d a b) (BitVec.ofNat 64 (x.toNat * y.toNat / 2 ^ 64))
    ∧ writes (.mulh h false d a b) (BitVec.ofInt 64 (x.toInt * y.toInt / 2 ^ 64))
    ∧ writes (.div h true d a b) (if y = 0 then BitVec.allOnes 64 else x / y)
    ∧ writes (.div h false d a b) (if y = 0 then BitVec.allOnes 64 else BitVec.ofInt 64 (x.toInt.tdiv y.toInt))
    ∧ writes (.rem h true d a b) (if y = 0 then x else x % y)
    ∧ writes (.rem h false d a b) (if y = 0 then x else BitVec.ofInt 64 (x.toInt.tmod y.toInt))
    ∧ writes (.min h true d a b) (BitVec.ofNat 64 (min x.toNat y.toNat))
    ∧ writes (.min h false d a b) (BitVec.ofInt 64 (min x.toInt y.toInt))
    ∧ writes (.max h true d a b) (BitVec.ofNat 64 (max x.toNat y.toNat))
    ∧ writes (.max h false d a b) (BitVec.ofInt 64 (max x.toInt y.toInt))
    ∧ writes (.and h d a b) (x &&& y) ∧ writes (.or h d a b) (x ||| y) ∧ writes (.xor h d a b) (x ^^^ y)
    ∧ writes (.andn h d a b) (x &&& ~~~y)
    ∧ writes (.shl h d a b) (x <<< (y.toNat % 64)) ∧ writes (.shr h d a b) (x >>> (y.toNat % 64))
    ∧ writes (.sar h d a b) (x.sshiftRight (y.toNat % 64)) ∧ writes (.rol h d a b) (x.rotateLeft (y.toNat % 64))
    ∧ (∀ sc, writes (.lea h sc d a b) (x + y * BitVec.ofNat 64 (Size.bytes sc)))

/-- R276, R281, R283, R284, R287: the scalar instructions with one source or an immediate, the same way. R285: the
scalar comparisons write all 16 bits of pd. The model's own choice or reading, log entry 16, enters here. -/
def Obligations.ScalarOneSourceAndComparisons : Prop :=
  (∀ (s : State) (h : Hdr) (d a : Fld), dstOk .g d = true →
      let x := s.ctx.srcG a
      let writes := fun (i : Instr) (len : Nat) (r : Word) => Enabled s h [gs a] → Writes i s h len .g d (ofWord r)
      writes (.mov h d a) 4 x
      ∧ (∀ n : BitVec 6, writes (.shlImm h d a n) 4 (x <<< n.toNat) ∧ writes (.shrImm h d a n) 4 (x >>> n.toNat)
        ∧ writes (.sarImm h d a n) 4 (x.sshiftRight n.toNat) ∧ writes (.rolImm h d a n) 4 (x.rotateLeft n.toNat)
        ∧ writes (.sext h d a n) 4 ((x <<< (63 - n.toNat)).sshiftRight (63 - n.toNat))
        ∧ writes (.addi h d a n) 4 (x + n.signExtend 64))
      ∧ writes (.popc h d a) 4 (BitVec.ofNat 64 (List.countP (fun n => x.getLsbD n) (List.range 64)))
      ∧ (∀ n, n ≤ 64 → (∀ m, m < n → x.getLsbD (63 - m) = false) → (n < 64 → x.getLsbD (63 - n) = true) →
          writes (.clz h d a) 4 (BitVec.ofNat 64 n))
      ∧ (∀ n, n ≤ 64 → (∀ m, m < n → x.getLsbD m = false) → (n < 64 → x.getLsbD n = true) →
          writes (.ctz h d a) 4 (BitVec.ofNat 64 n))
      ∧ (∀ imm : BitVec 32, writes (.addiXw h d a imm) 8 (x + imm.signExtend 64)
        ∧ writes (.li64 h d a imm) 8 (imm ++ x.truncate 32)
        ∧ (Enabled s h [] → Writes (.movi h d imm) s h 8 .g d (ofWord (imm.signExtend 64))))
      ∧ (∀ pos w1 : BitVec 6, pos.toNat + w1.toNat + 1 ≤ 64 →
          writes (.extr h d a pos w1) 8 ((x >>> pos.toNat) &&& BitVec.ofNat 64 (2 ^ (w1.toNat + 1) - 1))))
  ∧ (∀ (s : State) (h : Hdr) (d a b : Fld) (imm : BitVec 6), dstOk .p d = true →
      let x := s.ctx.srcG a
      let y := s.ctx.srcG b
      let all := fun (r : Bool) => ofMask (if r then 0xFFFF else 0)
      let writes := fun (i : Instr) (r : Bool) => Enabled s h [gs a, gs b] → Writes i s h 4 .p d (all r)
      let writesImm := fun (i : Instr) (r : Bool) => Enabled s h [gs a] → Writes i s h 4 .p d (all r)
      writes (.cmp h .eq d a b) (decide (x = y)) ∧ writes (.cmp h .ne d a b) (decide (x ≠ y))
      ∧ writes (.cmp h .lt d a b) (decide (x.toInt < y.toInt)) ∧ writes (.cmp h .le d a b) (decide (x.toInt ≤ y.toInt))
      ∧ writes (.cmpUnsigned h .ltu d a b) (decide (x.toNat < y.toNat))
      ∧ writes (.cmpUnsigned h .leu d a b) (decide (x.toNat ≤ y.toNat))
      ∧ writesImm (.cmpi h .eq d a imm) (decide (x = imm.signExtend 64))
      ∧ writesImm (.cmpi h .ne d a imm) (decide (x ≠ imm.signExtend 64))
      ∧ writesImm (.cmpi h .lt d a imm) (decide (x.toInt < imm.toInt))
      ∧ writesImm (.cmpi h .le d a imm) (decide (x.toInt ≤ imm.toInt))
      ∧ writesImm (.cmpiUnsigned h .ltu d a imm) (decide (x.toNat < imm.toNat))
      ∧ writesImm (.cmpiUnsigned h .leu d a imm) (decide (x.toNat ≤ imm.toNat)))

/-- R280, R282, R284, R286, R289: the three-source scalar instructions, bit by bit; SEL looks at the predicate under LMASK; INS
keeps the bits of gd outside the field. LEAW writes base plus scaled index where both lie in one window; a base in no window
traps UNMAPPED_WINDOW, a result outside the base's window WINDOW_STRADDLE. -/
def Obligations.ScalarThreeSourceResults : Prop :=
  (∀ (s : State) (h : Hdr) (d a b c : Fld), dstOk .g d = true →
      (Enabled s h [gs a, gs b, gs c] →
        let x := s.ctx.srcG a
        let y := s.ctx.srcG b
        let n := (s.ctx.srcG c).toNat % 64
        Writes (.fshl h d a b c) s h 8 .g d (ofWord (BitVec.ofNat 64 ((x.toNat * 2 ^ 64 + y.toNat) * 2 ^ n / 2 ^ 64)))
        ∧ Writes (.fshr h d a b c) s h 8 .g d (ofWord (BitVec.ofNat 64 ((x.toNat * 2 ^ 64 + y.toNat) / 2 ^ n)))
        ∧ ∀ tt : BitVec 8, ∃ r : Word, Writes (.lop3 h d a b c tt) s h 8 .g d (ofWord r) ∧
          ∀ k, k < 64 → r.getLsbD k =
            tt.getLsbD (4 * (x.getLsbD k).toNat + 2 * (y.getLsbD k).toNat + ((s.ctx.srcG c).getLsbD k).toNat))
      ∧ (srcOk .p c = true → Enabled s h [gs a, gs b, (.p, c)] →
          Writes (.sel h d a b c) s h 8 .g d
            (ofWord (if s.ctx.srcP c &&& s.ctx.lmask ≠ 0 then s.ctx.srcG a else s.ctx.srcG b)))
      ∧ (∀ pos w1 : BitVec 6, d.toNat < 56 → pos.toNat + w1.toNat + 1 ≤ 64 → Enabled s h [gs a, gs d] →
          ∃ r : Word, Writes (.ins h d a pos w1) s h 8 .g d (ofWord r) ∧
            ∀ k, k < 64 → r.getLsbD k =
              if pos.toNat ≤ k ∧ k ≤ pos.toNat + w1.toNat then (s.ctx.srcG a).getLsbD (k - pos.toNat)
              else (s.ctx.srcG d).getLsbD k))
  ∧ (∀ (s : State) (h : Hdr) (sc : Size) (d a b : Fld), dstOk .g d = true → Enabled s h [gs a, gs b] →
      let x := s.ctx.srcG a
      let r : Int := x.toNat + (s.ctx.srcG b).toInt * (Size.bytes sc : Nat)
      (windowOf x.toNat ≠ .none → 0 ≤ r → windowOf r.toNat = windowOf x.toNat →
        Writes (.leaw h sc d a b) s h 4 .g d (ofWord (BitVec.ofInt 64 r)))
      ∧ (windowOf x.toNat = .none → exec (.leaw h sc d a b) s = .next (s.trap { code := 0x040, addr := x }))
      ∧ (windowOf x.toNat ≠ .none → r < 0 ∨ windowOf r.toNat ≠ windowOf x.toNat →
        exec (.leaw h sc d a b) s = .next (s.trap { code := 0x041, addr := BitVec.ofInt 64 r })))

/-! ### Vector instructions -/

/-- R295, R296, R298: the FP32 arithmetic of active lanes. The model's own choices and readings, log entries 8 and 15,
enter here. -/
def Obligations.VectorFloatResults : Prop :=
  ∀ (s : State) (h : Hdr) (bk : Block) (rnd : Rnd) (t : LaneT) (d a b : Fld), vBlk3 bk d a b = true →
    let m := s.ctx.mode rnd
    let x := fun r l => lane (s.ctx.srcV (blockFld bk a r)) l
    let y := fun r l => lane (s.ctx.srcV (blockFld bk b r)) l
    let z := fun r l => lane (s.ctx.srcV (blockFld bk d r)) l
    let writes := fun (l : List Fld) (i : Instr) (f : Nat → Nat → Word32 × Flags) =>
      Readable s h (l.flatMap (blockSrcs bk)) → WritesLanes i s h bk d f
    writes [a, b] (.vadd h bk rnd d a b) (fun r l => toF32 m ((f32 (x r l)).add m (f32 (y r l))))
    ∧ writes [a, b] (.vsub h bk rnd d a b) (fun r l => toF32 m ((f32 (x r l)).add m (f32 (y r l)).neg))
    ∧ writes [a, b] (.vmul h bk rnd d a b) (fun r l => toF32 m ((f32 (x r l)).mul (f32 (y r l))))
    ∧ writes [a, b, d] (.vfma h bk rnd d a b) (fun r l => toF32 m (Num.fma m (f32 (x r l)) (f32 (y r l)) (f32 (z r l))))
    ∧ writes [a, b] (.vscal h bk rnd d a b) (fun r l => f32Scale m (x r l) (y r l))
    ∧ writes [a, b] (.vmin h bk t d a b) (fun r l => laneMin t (x r l) (y r l))
    ∧ writes [a, b] (.vmax h bk t d a b) (fun r l => laneMax t (x r l) (y r l))
    ∧ writes [a] (.vabs h bk d a) (fun r l => f32Sign (x r l) (x r l &&& 0x7FFFFFFF))
    ∧ writes [a] (.vneg h bk d a) (fun r l => f32Sign (x r l) (x r l ^^^ 0x80000000))
    ∧ writes [a] (.vrcp h bk rnd d a) (fun r l => toF32 m (f32 (x r l)).rcp)
    ∧ writes [a] (.vrsq h bk rnd d a) (fun r l => toF32 m (f32 (x r l)).rsq)
    ∧ writes [a] (.vsqrt h bk rnd d a) (fun r l => toF32 m (f32 (x r l)).sqrt)
    ∧ writes [a] (.vexp2 h bk rnd d a) (fun r l => toF32 m (f32 (x r l)).exp2)
    ∧ writes [a] (.vlog2 h bk rnd d a) (fun r l => toF32 m (f32 (x r l)).log2)

/-- R298, R300 to R302: the integer, logic and permute instructions of active lanes; none raises a flag. -/
def Obligations.VectorIntegerResults : Prop :=
  ∀ (s : State) (h : Hdr) (bk : Block) (d a b c : Fld),
    vBlk3 bk d a b = true → blockAt bk c = true →
    let x := fun r l => lane (s.ctx.srcV (blockFld bk a r)) l
    let y := fun r l => lane (s.ctx.srcV (blockFld bk b r)) l
    let z := fun r l => lane (s.ctx.srcV (blockFld bk c r)) l
    let w := fun r l => lane (s.ctx.srcV (blockFld bk d r)) l
    let sat := fun (t : Bool) (v : Int) => BitVec.ofInt 32 (if t then max (-2147483648) (min 2147483647 v) else v)
    let writes := fun (l : List Fld) (i : Instr) (f : Nat → Nat → Word32) =>
      Readable s h (l.flatMap (blockSrcs bk)) → WritesLanes i s h bk d (fun r l => (f r l, 0))
    (∀ t, writes [a, b] (.viadd h bk t d a b) (fun r l => sat t ((x r l).toInt + (y r l).toInt))
      ∧ writes [a, b] (.visub h bk t d a b) (fun r l => sat t ((x r l).toInt - (y r l).toInt))
      ∧ writes [a, b] (.vimul h bk t d a b) (fun r l => sat t ((x r l).toInt * (y r l).toInt))
      ∧ writes [a, b, d] (.vimad h bk t d a b) (fun r l => sat t ((x r l).toInt * (y r l).toInt + (w r l).toInt)))
    ∧ writes [a, b] (.vand h bk d a b) (fun r l => x r l &&& y r l) ∧ writes [a, b] (.vor h bk d a b) (fun r l => x r l ||| y r l)
    ∧ writes [a, b] (.vxor h bk d a b) (fun r l => x r l ^^^ y r l)
    ∧ writes [a, b] (.vshl h bk d a b) (fun r l => x r l <<< ((y r l).toNat % 32))
    ∧ writes [a, b] (.vshr h bk d a b) (fun r l => x r l >>> ((y r l).toNat % 32))
    ∧ writes [a, b, c] (.vfshl h bk d a b c) (fun r l =>
        BitVec.ofNat 32 (((x r l).toNat * 2 ^ 32 + (y r l).toNat) * 2 ^ ((z r l).toNat % 32) / 2 ^ 32))
    ∧ writes [a, b, c] (.vfshr h bk d a b c) (fun r l =>
        BitVec.ofNat 32 (((x r l).toNat * 2 ^ 32 + (y r l).toNat) / 2 ^ ((z r l).toNat % 32)))
    ∧ writes [a] (.vpopc h bk d a) (fun r l =>
        BitVec.ofNat 32 (List.countP (fun n => (x r l).getLsbD n) (List.range 32)))
    ∧ writes [a] (.vmov h bk d a) x
    ∧ writes [a, b] (.vperm h bk d a b) (fun r l => x r ((y r l).toNat % 16))
    ∧ (bk = block1 → ∀ tt, writes [a, b, c] (.vlop3 h d a b c tt) (fun r l => lop3 tt (x r l) (y r l) (z r l)))

/-- R297 to R299, R302: VSEL, VBCAST and VROT, whose lanes also depend on a p or a g register; VCMP writes the active
bits of pd and keeps the others; VRED and VDOT reduce the lanes by the tree of R47, an inactive one entering as the
identity; VEXT takes one lane. The model's own choice or reading, log entry 16, enters here. -/
def Obligations.VectorSelectAndReduce : Prop :=
  (∀ (s : State) (h : Hdr) (bk : Block) (d a b : Fld), vBlk2 bk d a = true →
      let x := fun r l => lane (s.ctx.srcV (blockFld bk a r)) l
      let y := fun r l => lane (s.ctx.srcV (blockFld bk b r)) l
      (∀ p, blockAt bk b = true → srcOk .p p = true → Readable s h (blockSrcs bk a ++ blockSrcs bk b ++ [(.p, p)]) →
        WritesLanes (.vsel h bk d a b p) s h bk d (fun r l => (if (s.ctx.srcP p).getLsbD l then x r l else y r l, 0)))
      ∧ (Readable s h [gs b] → WritesLanes (.vbcast h bk d b) s h bk d (fun _ _ => ((s.ctx.srcG b).truncate 32, 0)))
      ∧ (Readable s h (blockSrcs bk a ++ [gs b]) →
        WritesLanes (.vrot h bk d a b) s h bk d (fun r l => (x r ((l + 16 - (s.ctx.srcG b).toNat % 16) % 16), 0))))
  ∧ (∀ (s : State) (h : Hdr) (t : LaneT) (rnd : Rnd) (d a b : Fld),
      let live := fun l => (s.ctx.active h).getLsbD l
      let x := fun l => lane (s.ctx.srcV a) l
      let y := fun l => lane (s.ctx.srcV b) l
      let m := s.ctx.mode rnd
      (∀ cc, dstOk .p d = true → Readable s h [(.v, a), (.v, b)] →
        ∃ r : Mask,
          Writes (.vcmp h cc t d a b) s h 8 .p d (ofMask r)
            (orLanes (fun l => if live l then (cmpLane cc t (x l) (y l)).2 else 0) 16)
          ∧ ∀ l, l < 16 → r.getLsbD l =
            if live l then (cmpLane cc t (x l) (y l)).1 else decide (d.toNat < 56) && (s.ctx.reg .p d.toNat).getLsbD l)
      ∧ (∀ op, dstOk .g d = true → laneRndOk t rnd = true → Readable s h [(.v, a)] →
        let r := redTree (redStep op t m) (fun l => if live l then (x l, 0) else (redId op t, 0)) 4 0
        Writes (.vred h op t rnd d a) s h 8 .g d (ofWord (r.1.zeroExtend 64)) r.2)
      ∧ (dstOk .g d = true → laneRndOk t rnd = true → Readable s h [(.v, a), (.v, b)] →
        let product := fun l => match t with
          | .f32 => toF32 m ((f32 (x l)).mul (f32 (y l)))
          | .i32 => (x l * y l, 0)
        let r := redTree (redStep .add t m) (fun l => if live l then product l else (redId .add t, 0)) 4 0
        Writes (.vdot h t rnd d a b) s h 8 .g d (ofWord (r.1.zeroExtend 64)) r.2)
      ∧ (dstOk .g d = true → Enabled s h [(.v, a), gs b] →
        Writes (.vext h d a b) s h 8 .g d (ofWord ((x ((s.ctx.srcG b).toNat % 16)).zeroExtend 64))))

/-- R303, R304: conversion, unpacking, and packing, which writes the elements of active lanes in their part of vd and keeps
every other byte. -/
def Obligations.VectorConversionResults : Prop :=
  ∀ (s : State) (h : Hdr) (bk : Block) (rnd : Rnd) (sat : Bool) (fmt src : BitVec 5) (q : BitVec 2) (d a : Fld),
    vBlk2 bk d a = true → Readable s h (blockSrcs bk a) →
    let x := fun r l => lane (s.ctx.srcV (blockFld bk a r)) l
    let m := s.ctx.mode rnd
    (cvtFmtOk fmt = true → cvtFmtOk src = true → fmt ≠ src →
      WritesLanes (.vcvt h bk rnd sat fmt src d a) s h bk d (fun r l => cvtLane fmt src s.ctx.inf m sat (x r l)))
    ∧ (packFmtOk fmt = true → (fmt16 fmt = true → q.toNat < 2) →
      WritesLanes (.vunpk h bk fmt q d a) s h bk d (fun r l =>
          elemToLane fmt s.ctx.inf (packedElem fmt q.toNat l (s.ctx.srcV (blockFld bk a r))))
      ∧ (Readable s h (blockSrcs bk a ++ blockSrcs bk d) → ∃ t, exec (.vpack h bk rnd sat fmt q d a) s = .next t ∧ OnlyContext s t ∧ ContextRest s.ctx t.ctx
        ∧ Passed s t h 8
        ∧ t.ctx.fflags = s.ctx.fflags |||
            blockFlags (s.ctx.active h) (fun r l => (0, (laneToElem fmt s.ctx.inf m sat (x r l)).2)) (blockSize bk)
        ∧ (∀ k n, (k = .v → d.toNat < 56 → ∀ r, r < blockSize bk → n ≠ (blockFld bk d r).toNat) →
            t.ctx.reg k n = s.ctx.reg k n)
        ∧ (d.toNat < 56 → ∀ r k, r < blockSize bk → k < 64 →
            vbyte (t.ctx.reg .v (blockFld bk d r).toNat) k =
              let w := if fmt16 fmt then 2 else 1
              if 16 * w * q.toNat ≤ k ∧ k < 16 * w * (q.toNat + 1) ∧ (s.ctx.active h).getLsbD ((k - 16 * w * q.toNat) / w)
              then BitVec.ofNat 8 ((laneToElem fmt s.ctx.inf m sat (x r ((k - 16 * w * q.toNat) / w))).1
                / 256 ^ ((k - 16 * w * q.toNat) % w))
              else vbyte (s.ctx.reg .v (blockFld bk d r).toNat) k)))

/-- R305 to R307: VSMAX folds one score and value row into M, L and O, and VSMRG merges two partial rows; O is vd, and M
and L the two low lanes of vc. The model's own choices and readings, log entries 8 and 15, enter here. -/
def Obligations.SoftmaxRows : Prop :=
  ∀ (s : State) (h : Hdr) (rnd : Rnd) (d a b c : Fld), dstOk .v d = true → c.toNat < 56 → c ≠ d →
    let m := s.ctx.mode rnd
    let x := fun (f : Fld) l => lane (s.ctx.srcV f) l
    let row := fun (i : Instr) (r : SoftRow) =>
      ∃ t, exec i s = .next t ∧ OnlyContext s t ∧ ContextRest s.ctx t.ctx ∧ Passed s t h 8
        ∧ t.ctx.fflags = s.ctx.fflags ||| r.flags
        ∧ lane (t.ctx.reg .v c.toNat) 0 = r.m ∧ lane (t.ctx.reg .v c.toNat) 1 = r.l
        ∧ (∀ l, 1 < l → l < 16 → lane (t.ctx.reg .v c.toNat) l = lane (s.ctx.reg .v c.toNat) l)
        ∧ (d.toNat < 56 → ∀ l, l < 16 → lane (t.ctx.reg .v d.toNat) l = r.o l)
        ∧ ∀ k n, k ≠ .v ∨ (n ≠ c.toNat ∧ n ≠ d.toNat) → t.ctx.reg k n = s.ctx.reg k n
    let ready := fun srcs mls => s.ctx.predTrap h = none ∧ s.ctx.active h ≠ 0 ∧ s.ctx.softTrap ((.v, d) :: srcs) mls = none
    (ready [(.v, a), gs b] [c] →
      row (.vsmax h rnd d a b c) (softFold m (x c 0) (x c 1) ((s.ctx.srcG b).truncate 32) (x d) (x a)))
    ∧ (ready [(.v, a)] [b, c] →
      match softMerge m (x c 0) (x c 1) (x b 0) (x b 1) (x d) (x a) with
      | some r => row (.vsmrg h rnd d a b c) r
      | none => ∃ t, exec (.vsmrg h rnd d a b c) s = .next t ∧ OnlyContext s t ∧ ContextRest s.ctx t.ctx
          ∧ Passed s t h 8 ∧ t.ctx.fflags = s.ctx.fflags ∧ RegsKept s.ctx t.ctx)

/-! ### Control flow -/

/-- R249, R252: the branches go to their target when their condition holds, and pass when it does not; BRZ and BRNZ test
all 64 bits, BRP looks at the lanes of LMASK; JMPR and RET go where their register says, and CALL and CALLR leave their
return address in g55 or gd. R249: a transfer to an address that is no multiple of four traps FETCH_ALIGN, and one
beyond the payload of a code message CODE_BOUNDS, whether the address comes from an offset or from a register. The
model's own choice or reading, log entry 12, enters here. -/
def Obligations.TransfersOfControl : Prop :=
  ((∀ (s : State) (h : Hdr) (a : Fld) (off : BitVec 12) (far : BitVec 18), s.ctx.capturing = false →
        let taken := fun (i : Instr) (cond : Bool) =>
          (cond = true → Reaches s (offsetTarget s.ctx off) → Jumps i s h (offsetTarget s.ctx off))
          ∧ (cond = false → Idles i s h 4)
        let lanes := s.ctx.srcP a &&& s.ctx.lmask
        (Enabled s h [] → Reaches s (offsetTarget s.ctx far) → Jumps (.br h far) s h (offsetTarget s.ctx far))
        ∧ (Enabled s h [gs a] → taken (.brz h a off) (decide (s.ctx.srcG a = 0))
          ∧ taken (.brnz h a off) (decide (s.ctx.srcG a ≠ 0)))
        ∧ (srcOk .p a = true → Enabled s h [(.p, a)] → taken (.brp h .any a off) (decide (lanes ≠ 0))
          ∧ taken (.brp h .all a off) (decide (lanes = s.ctx.lmask)) ∧ taken (.brp h .none a off) (decide (lanes = 0)))
        ∧ (Enabled s h [gs a] → Reaches s (indirectTarget (s.ctx.srcG a)) →
          Jumps (.jmpr h a) s h (indirectTarget (s.ctx.srcG a))
          ∧ (s.ctx.endsClosure (indirectTarget (s.ctx.srcG a)) = false →
              Jumps (.ret h a) s h (indirectTarget (s.ctx.srcG a)))))
    ∧ (∀ (s : State) (h : Hdr) (d a : Fld) (far : BitVec 18), s.ctx.capturing = false →
        (Enabled s h [] → Reaches s (offsetTarget s.ctx far) →
          ∃ t, exec (.call h far) s = .next t ∧ Jumped s t h (offsetTarget s.ctx far) ∧ t.ctx.hist = s.ctx.hist
            ∧ ∀ k n, t.ctx.reg k n = if k = .g ∧ n = 55 then ofWord (s.ctx.pc + 4) else s.ctx.reg k n)
        ∧ (dstOk .g d = true → Enabled s h [gs a] → Reaches s (indirectTarget (s.ctx.srcG a)) →
          ∃ t, exec (.callr h d a) s = .next t ∧ Jumped s t h (indirectTarget (s.ctx.srcG a))
            ∧ t.ctx.hist = (ofWord (s.ctx.pc + 4) :: s.ctx.hist).take 8
            ∧ ∀ k n, t.ctx.reg k n = if k = .g ∧ n = d.toNat ∧ keeps .g d then ofWord (s.ctx.pc + 4) else s.ctx.reg k n)))
  ∧ (∀ (s : State) (h : Hdr) (d a : Fld) (off : BitVec 12) (far : BitVec 18), s.ctx.capturing = false → Enabled s h [gs a] →
      let traps := fun (t : Word) (i : Instr) =>
        (t.toNat % 4 ≠ 0 → TrapsWith i s { code := 0x006 })
        ∧ ∀ len, t.toNat % 4 = 0 → s.codeLen s.cur = some len → len ≤ t.toNat → TrapsWith i s { code := 0x0C4 }
      let near := offsetTarget s.ctx off
      traps (offsetTarget s.ctx far) (.br h far) ∧ traps (offsetTarget s.ctx far) (.call h far)
      ∧ (s.ctx.srcG a = 0 → traps near (.brz h a off)) ∧ (s.ctx.srcG a ≠ 0 → traps near (.brnz h a off))
      ∧ (∀ p pt, srcOk .p p = true → Enabled s h [(.p, p)] →
        let lanes := s.ctx.srcP p &&& s.ctx.lmask
        (pt = .any ∧ lanes ≠ 0) ∨ (pt = .all ∧ lanes = s.ctx.lmask) ∨ (pt = .none ∧ lanes = 0) → traps near (.brp h pt p off))
      ∧ traps (indirectTarget (s.ctx.srcG a)) (.jmpr h a) ∧ traps (indirectTarget (s.ctx.srcG a)) (.callr h d a)
      ∧ traps (indirectTarget (s.ctx.srcG a)) (.ret h a))

/-- R254, R255: LOOP and LOOPI push a loop over the instructions that follow, up to their target; LOOP with a count of
zero passes the loop by, its exit the next pc. Where four loops are active already LOOP_DEPTH is trapped; an exit below
the first instruction of the body, or beyond the exit of the innermost loop, traps LOOP_RANGE. R237, R258: RPT opens a
frame with nothing captured; while a frame captures, an instruction that transfers control or opens another traps
FRAME_BRANCH. R237: while a repeat frame replays, a step runs the captured instruction with its fields stepped, or traps
FRAME_RANGE or, where a stepped field makes the form illegal, ILLEGAL_INSTRUCTION; an instruction that is not captured
ends capture, and the replays come first; without replays it issues where the loop rules leave the pc (R256). The
model's own choice or reading, log entry 12, enters here. -/
def Obligations.LoopsAndRepeatFrames : Prop :=
  (∀ (s : State) (h : Hdr) (a : Fld) (n1 : BitVec 14) (off : BitVec 12), s.ctx.capturing = false →
      let exit := offsetTarget s.ctx off
      let passes := fun (i : Instr) (t : State) => exec i s = .next t ∧ OnlyContext s t ∧ ContextRest s.ctx t.ctx
        ∧ RegsKept s.ctx t.ctx ∧ t.ctx.fflags = s.ctx.fflags ∧ t.ctx.hist = s.ctx.hist ∧ t.ctx.frame = s.ctx.frame
        ∧ t.ctx.notBefore = s.clock + 1 + h.stall.toNat
      let inside := ∀ l, s.ctx.loops.head? = some l → exit.toNat ≤ l.exit.toNat
      let loops := fun (i : Instr) (len : Nat) (count : Nat) =>
        let start := s.ctx.pc + BitVec.ofNat 64 len
        (start.toNat < exit.toNat → s.ctx.loops.length < 4 → inside → 0 < count →
          ∃ t, passes i t ∧ t.ctx.loops = { start, exit, rem := count } :: s.ctx.loops ∧ t.ctx.pc = start)
        ∧ (start.toNat < exit.toNat → s.ctx.loops.length < 4 → inside → count = 0 →
          ∃ t, passes i t ∧ (t.ctx.loops, t.ctx.pc) = loopCount s.ctx.loops s.ctx.pc exit
            ∧ ((∀ l, s.ctx.loops.head? = some l → exit ≠ l.exit) → t.ctx.loops = s.ctx.loops ∧ t.ctx.pc = exit))
        ∧ (exit.toNat ≤ start.toNat → TrapsWith i s { code := 0x008 })
        ∧ (start.toNat < exit.toNat → 4 ≤ s.ctx.loops.length → TrapsWith i s { code := 0x005 })
        ∧ (start.toNat < exit.toNat → s.ctx.loops.length < 4 → ¬ inside → TrapsWith i s { code := 0x008 })
      (Enabled s h [gs a] →
        (2 ≤ off.toInt → loops (.loop h a off) 4 ((s.ctx.srcG a).toNat % 2 ^ 32))
        ∧ (off.toInt < 2 → TrapsWith (.loop h a off) s { code := 0x008 }))
      ∧ (Enabled s h [] →
        (3 ≤ off.toInt → loops (.loopi h n1 off) 8 (n1.toNat + 1))
        ∧ (off.toInt < 3 → TrapsWith (.loopi h n1 off) s { code := 0x008 })))
  ∧ (∀ (s : State) (h : Hdr) (len1 : BitVec 4) (stride : BitVec 6) (count1 : BitVec 8),
      (s.ctx.capturing = false → Enabled s h [] →
        ∃ t, exec (.rpt h len1 stride count1) s = .next t ∧ OnlyContext s t ∧ ContextRest s.ctx t.ctx
          ∧ RegsKept s.ctx t.ctx ∧ t.ctx.fflags = s.ctx.fflags ∧ t.ctx.hist = s.ctx.hist
          ∧ t.ctx.notBefore = s.clock + 1 + h.stall.toNat
          ∧ (t.ctx.loops, t.ctx.pc) = loopCount s.ctx.loops s.ctx.pc (s.ctx.pc + 8)
          ∧ (s.ctx.loops = [] → t.ctx.loops = [] ∧ t.ctx.pc = s.ctx.pc + 8)
          ∧ t.ctx.frame = some { count := count1.toNat + 1, stride := stride.toInt, len := len1.toNat + 1, caps := [],
                                 replay := 0, pos := 0 })
      ∧ (s.ctx.capturing = true → ∀ (a d : Fld) (off : BitVec 12) (far : BitVec 18) (n1 : BitVec 14) (pt : PTest) (di : Disp),
        ∀ i ∈ [Instr.br h far, .call h far, .brz h a off, .brnz h a off, .brp h pt a off, .jmpr h a, .callr h d a, .ret h a,
               .loop h a off, .loopi h n1 off, .rpt h len1 stride count1, .fork h a off, .join h a, .endAct h, .eret h di],
          TrapsWith i s { code := 0x004 }))
  ∧ (∀ (s : State) (i : CtxId) (fr : Frame), s.nextDue = none → s.nextIssue = some i → (s.select i).ctx.frame = some fr →
      let u := s.select i
      (0 < fr.replay → ∀ a x, fr.caps[fr.pos]? = some (a, x) →
        (stepped (fr.replay * fr.stride) x = none → step s = .next (u.trap { code := 0x007 }))
        ∧ ∀ y, stepped (fr.replay * fr.stride) x = some y →
            (formOk y = true → step s = exec y u) ∧ (formOk y = false → step s = .next (u.trap { code := 0x000 })))
      ∧ (fr.replay = 0 → ∀ y len, u.fetch i = .instr y len → capturable y = false → frameBranch y = false →
        (fr.caps = [] → step s = exec y (u.modCtx fun c => { c with frame := none }))
        ∧ ∀ a x l, fr.caps = (a, x) :: l →
          (fr.count ≤ 1 →
            let last := ((a, x) :: l).getLast?.getD (a, x)
            let next := loopCount u.ctx.loops last.1 u.ctx.pc
            let v := u.modCtx fun c => { c with frame := none, loops := next.1, pc := next.2 }
            (next.2 = u.ctx.pc → step s = exec y v)
            ∧ (next.2 ≠ u.ctx.pc →
                step s = .next { v.modCtx fun c => { c with st := .ready } with issued := v.issued.erase i }))
          ∧ (1 < fr.count →
            let v := u.modCtx fun c => { c with frame := some { fr with replay := 1, pos := 0 }, pc := a }
            (stepped fr.stride x = none → step s = .next (v.trap { code := 0x007 }))
            ∧ ∀ z, stepped fr.stride x = some z →
                (formOk z = true → step s = exec z v) ∧ (formOk z = false → step s = .next (v.trap { code := 0x000 }))))
      ∧ (∀ (k : Int) (h : Hdr) (d a b : Fld), let f : Fld → Int := fun x => if x.toNat < 56 then (x.toNat : Int) + k else 0
        (∀ x ∈ [d, a, b], 0 ≤ f x ∧ f x < 56) →
          let g : Fld → Fld := fun x => if x.toNat < 56 then BitVec.ofNat 6 (f x).toNat else x
          stepped k (.add h d a b) = some (.add h (g d) (g a) (g b))))

/-- R248, R263 to R265: NOP and HINT only pass; YIELD passes and waits for the other contexts that are ready; SLEEP of zero
cycles answers zero at once, any other sleeps until the cycle that its count names. R233, R273, R309, R326: with no active
lane the instructions listed here, some of every family, read no source other than their predicate, write no register and no
memory, and pass; one that gives a result pushes the unchanged value of its destination, or zero for a discard. A predicate that
cannot be read traps, the address of poisoned bits being free (log entry 48). -/
def Obligations.PassingAndSleeping : Prop :=
  (∀ (s : State) (h : Hdr) (d a : Fld) (n : BitVec 4) (imm : BitVec 26),
      Idles .nop s ⟨0, 0⟩ 4 ∧ Idles (.hint h.stall n imm) s h 8
      ∧ (Enabled s h [] → ∃ t u, exec (.yield h) s = .next t ∧ Idle s u h 4
          ∧ t = u.setCtx { u.ctx with yieldFor := t.ctx.yieldFor }
          ∧ ∀ m, m ∈ t.ctx.yieldFor ↔ m < 8 ∧ m ≠ s.cur.ctx ∧ (s.me.ctx m).st = .ready ∧ (s.me.ctx m).stall = none
              ∧ (s.me.ctx m).full = false ∧ (s.me.ctx m).notBefore ≤ s.clock)
      ∧ (dstOk .g d = true → Enabled s h [gs a] →
        (s.ctx.srcG a = 0 → Writes (.sleep h d a) s h 4 .g d 0)
        ∧ (s.ctx.srcG a ≠ 0 → ∃ t, exec (.sleep h d a) s = .next t ∧ OnlyContext s t
            ∧ t.ctx = { s.ctx with
                st := .waiting, replies := [], pend := []
                wait := some { kind := .sleep (s.clock + min (s.ctx.srcG a).toNat 0xFFFFFFFF) d, since := s.clock, h } })))
  ∧ (∀ (s : State) (h : Hdr) (d a b c : Fld) (u : Bool) (n : BitVec 6) (far : BitVec 26) (imm : BitVec 32) (tt : BitVec 8)
      (cc : Cond) (cu : UCond) (sc : Size) (su : USize3) (so : Scope) (od : Ord4),
      let results : List (Instr × Cls × Nat) :=
        [(.add h d a b, .g, 4), (.sub h d a b, .g, 4), (.mul h d a b, .g, 4), (.mov h d a, .g, 4), (.mulh h u d a b, .g, 4),
         (.div h u d a b, .g, 4), (.rem h u d a b, .g, 4), (.min h u d a b, .g, 4), (.max h u d a b, .g, 4),
         (.and h d a b, .g, 4), (.or h d a b, .g, 4), (.xor h d a b, .g, 4), (.andn h d a b, .g, 4), (.shl h d a b, .g, 4),
         (.shr h d a b, .g, 4), (.sar h d a b, .g, 4), (.rol h d a b, .g, 4), (.shlImm h d a n, .g, 4), (.shrImm h d a n, .g, 4),
         (.sarImm h d a n, .g, 4), (.rolImm h d a n, .g, 4), (.popc h d a, .g, 4), (.clz h d a, .g, 4), (.ctz h d a, .g, 4),
         (.sext h d a n, .g, 4), (.cmp h cc d a b, .p, 4), (.cmpUnsigned h cu d a b, .p, 4), (.cmpi h cc d a n, .p, 4),
         (.cmpiUnsigned h cu d a n, .p, 4), (.addi h d a n, .g, 4), (.addiXw h d a imm, .g, 8), (.lea h sc d a b, .g, 4),
         (.leaw h sc d a b, .g, 4), (.fshl h d a b c, .g, 8), (.fshr h d a b c, .g, 8), (.sel h d a b c, .g, 8),
         (.lop3 h d a b c tt, .g, 8), (.movi h d imm, .g, 8), (.li64 h d a imm, .g, 8), (.ld h sc d a n, .g, 4),
         (.ldU h su d a n, .g, 4), (.ldXi h sc d a far, .g, 8), (.vld h d a n, .v, 4), (.lda h sc so d a, .g, 8),
         (.amoAdd h u so od d a b, .g, 8), (.amocas h u so od d a b c, .g, 8), (.hld h d a n, .h, 4), (.hmov h d a, .h, 4),
         (.hkind h d a, .g, 4), (.heq h d a b, .p, 4), (.alloc h d a b, .h, 4), (.hrd h d a n, .g, 4), (.pmtcnt h d, .g, 4),
         (.bararv h d n, .g, 4), (.mrpush h d a, .p, 4), (.cpy h d a, .g, 4)]
      let others : List (Instr × Nat) :=
        [(.st h sc d a n, 4), (.stIndexed h sc d a b, 4), (.stXi h sc d a far, 8), (.vst h d a n, 4), (.strel h sc so d a, 8),
         (.hst h d a n, 4), (.hwr h d a n, 4), (.unpin h a, 4), (.send h a b, 4), (.barinit h a n, 4), (.barwait h a n, 4)]
      (s.ctx.predTrap h = none → s.ctx.active h = 0 →
        (∀ e ∈ results, ∃ t, exec e.1 s = .next t ∧ OnlyContext s t ∧ ContextRest s.ctx t.ctx ∧ t.ctx.fflags = s.ctx.fflags
          ∧ RegsKept s.ctx t.ctx ∧ Passed s t h e.2.2
          ∧ t.ctx.hist = ((if 56 ≤ d.toNat then 0 else s.ctx.reg e.2.1 d.toNat) :: s.ctx.hist).take 8)
        ∧ ∀ e ∈ others, Idles e.1 s h e.2)
      ∧ ∀ code, s.ctx.predTrap h = some code →
          let traps := fun (i : Instr) => (code ≠ 0x160 → TrapsWith i s { code })
            ∧ (code = 0x160 → exec i s =
                .next (({ s with fresh := s.fresh + 1 } : State).trap { code, addr := Config.freeWord s.fresh }))
          (∀ e ∈ results, traps e.1) ∧ ∀ e ∈ others, traps e.1)

/-! ### Traps -/

/-- R216, R217: a trap of the issuing instruction makes its context Trapped, saves the pc, the cause with its fields, the
address and the object, and changes no register of the four files; the entry to trap mode is due in the next cycle. R218: in
the cycle after a trap the context is Ready at the address of TRAP.VEC with TM set, its distance history, loops and repeat
frame set aside, where the vector is enabled, the context was not in trap mode and the cause is not of the machine group;
else it stays Trapped. -/
def Obligations.TrapsAndTrapMode : Prop :=
  (∀ (s : State) (k : Cause), k.code < 512 → k.acc < 16 → k.level < 8 → k.objk < 4 →
      let t := s.trap k
      let c := t.ctx
      c.st = .trapped ∧ c.trapPc = s.ctx.pc &&& 0x000FFFFFFFFFFFFC#64 ∧ c.pc = s.ctx.pc ∧ RegsKept s.ctx c
      ∧ c.trapAddr = k.addr &&& 0x000FFFFFFFFFFFFF#64 ∧ c.trapObj = k.obj ∧ c.trapMode = s.ctx.trapMode
      ∧ field c.causeReg 8 0 = k.code ∧ field c.causeReg 48 9 = 0 ∧ field c.causeReg 50 49 = k.objk
      ∧ field c.causeReg 53 51 = k.level ∧ field c.causeReg 57 54 = k.acc
      ∧ c.causeReg.getLsbD 58 = (k.async || decide (0x160 ≤ k.code ∧ k.code ≤ 0x17F)) ∧ c.causeReg.getLsbD 59 = s.ctx.trapMode ∧ c.causeReg.getLsbD 60 = s.ctx.trapMode
      ∧ c.causeReg.getLsbD 61 = k.indet ∧ c.causeReg.getLsbD 62 = k.reraise ∧ c.causeReg.getLsbD 63 = s.ctx.effects
      ∧ OtherContexts s t ∧ t.mem = s.mem
      ∧ t.agenda = s.agenda ++ [{ at_ := s.clock + 1, row := .trapModeEntry, ev := evCtx s.cur }])
  ∧ (∀ (s : State), (s.ctxAt s.evId).st = .trapped →
      let c := s.ctxAt s.evId
      let vec := (s.core s.evId.core).trapVec
      let code := field c.trapCause 8 0
      let handled := vec.getLsbD 0 = true ∧ c.trapMode = false ∧ ¬ (0x160 ≤ code ∧ code ≤ 0x17F)
      ∃ t, exec .trapModeEntry s = .next t ∧ (∀ i, i ≠ s.evId → t.ctxAt i = s.ctxAt i) ∧ t.mem = s.mem
        ∧ let c' := t.ctxAt s.evId
          (handled → c'.st = .ready ∧ c'.trapMode = true ∧ c'.pc = vec &&& 0x000FFFFFFFFFFFFC#64
            ∧ c'.hist = [] ∧ c'.loops = [] ∧ c'.frame = none ∧ RegsKept c c'
            ∧ c'.aside = some { hist := c.hist, histEcc := c.histEcc, loops := c.loops, frame := c.frame }
            ∧ c'.notBefore = max c.notBefore s.clock ∧ c'.trapPc = c.trapPc ∧ c'.trapCause = c.trapCause)
          ∧ (¬ handled → c' = c))

/-- R216 to R219, R267: ERET with Resume restores the pc of the trap and what entering the handler set aside: the
distance history, the loops and the repeat frame; the registers stay as the handler left them. So a trap, the entry to
its handler and a Resume bring a context back to the instruction that trapped. R249, R266: TRAP completes and traps with
its own code, TRAP.PC after it, its stall count counting; what only a handler may issue traps CONTROL_STATE outside trap
mode, and FORK, JOIN and END trap it inside. The model's own choice or reading, log entry 11, enters here. -/
def Obligations.TrapModeIsLeft : Prop :=
  ((∀ (s : State) (h : Hdr) (a : Aside), s.ctx.trapMode = true → s.ctx.aside = some a → s.ctx.heldReqs = [] →
        s.ctx.capturing = false → Enabled s h [] →
        ∃ t, exec (.eret h .resume) s = .next t ∧ OnlyContext s t ∧ t.ctx.st = .ready ∧ t.ctx.trapMode = false
          ∧ t.ctx.pc = s.ctx.trapPc ∧ t.ctx.hist = a.hist ∧ t.ctx.histEcc = a.histEcc ∧ t.ctx.loops = a.loops ∧ t.ctx.frame = a.frame
          ∧ t.ctx.aside = none ∧ RegsKept s.ctx t.ctx)
    ∧ (∀ (c : Context) (pc vec : Word) (k : Cause), c.trapMode = false → c.aside = none →
        let c' := ((c.trapped pc k).enterTrapMode vec).resumed
        c'.pc = pc &&& 0x000FFFFFFFFFFFFC#64 ∧ c'.st = .ready ∧ c'.trapMode = false ∧ c'.hist = c.hist ∧ c'.loops = c.loops
        ∧ c'.frame = c.frame ∧ RegsKept c c' ∧ c'.aside = none ∧ c'.chain = c.chain ∧ c'.lmask = c.lmask))
  ∧ (∀ (s : State) (h : Hdr) (n : BitVec 5) (di : Disp) (d a b c : Fld) (off : BitVec 12),
      Enabled s h [] → s.ctx.capturing = false →
      exec (.trap h n) s =
        .next ((s.modCtx (·.passed s.clock h.stall)).takeTrap s.cur (s.ctx.pc + 4) { code := 0x020 + n.toNat })
      ∧ (s.ctx.trapMode = false →
        ∀ i ∈ [Instr.eret h di, .tlbinv h c a b, .preempt h d a, .csave h d a b, .crest h d a b],
          TrapsWith i s { code := 0x00A })
      ∧ (s.ctx.trapMode = true → ∀ i ∈ [Instr.fork h a off, .join h a, .endAct h], TrapsWith i s { code := 0x00A }))

/-- R219, R262, R267: END, and ERET with Abort from a handler that holds no force chain, end the activation: the context
is Dormant, no activation's state left in it but its registers, which keep their values, its kernel kept and its inbox
slot freed. ERET with Restart starts it anew: Ready, history, loops and repeat frame empty, trap mode left, the trap
registers kept; a child of FORK and the continuation of a JOIN cannot be restarted. The model's own choice or reading,
log entry 14, enters here. -/
def Obligations.ActivationsEndOrRestart : Prop :=
  (∀ (s : State) (h : Hdr), s.ctx.capturing = false → Enabled s h [] → s.ctx.heldReqs = [] → s.ctx.chain = [] →
      ∀ i, (i = Instr.endAct h ∧ s.ctx.trapMode = false) ∨ (i = .eret h .abort ∧ s.ctx.trapMode = true) →
        ∃ t, exec i s = .next t ∧ OtherContexts s t ∧ t.mem = s.mem
          ∧ t.ctx = s.ctx.ended s.ctx.kernel .dormant ∧ RegsKept s.ctx t.ctx
          ∧ ∀ n, t.me.inbox.find? n = if s.ctx.slot = some n then none else s.me.inbox.find? n)
  ∧ (∀ (s : State) (h : Hdr), s.ctx.capturing = false → Enabled s h [] → s.ctx.heldReqs = [] → s.ctx.chain = [] →
      s.ctx.trapMode = true →
      (s.ctx.forkChild = false → s.ctx.continued = false →
        ∃ t, exec (.eret h .restart) s = .next t ∧ OtherContexts s t ∧ t.mem = s.mem ∧ t.ctx.st = .ready
          ∧ t.ctx.trapMode = false ∧ t.ctx.hist = [] ∧ t.ctx.loops = [] ∧ t.ctx.frame = none
          ∧ t.ctx.trapCause = s.ctx.trapCause ∧ t.ctx.trapPc = s.ctx.trapPc ∧ t.ctx.kernel = some (s.ctx.kernel.getD 0))
      ∧ (s.ctx.forkChild = true ∨ s.ctx.continued = true → TrapsWith (.eret h .restart) s { code := 0x00A }))

/-- R259: FORK gives the lanes that its predicate selects to a child context, Dormant until the deque binds it, at the
target with the parent's registers; with no lane it only passes, with every lane it is a branch. R261: JOIN counts its
arrival in the word that ga names: the last one zeroes the word and continues with the lanes of all parts, through the
deque; any other one leaves the word with its lanes and one count less, and ends its activation. The model's own choice
or reading, log entry 13, enters here. -/
def Obligations.ForkAndJoin : Prop :=
  (∀ (s : State) (h : Hdr) (a : Fld) (off : BitVec 12), s.ctx.capturing = false → s.ctx.trapMode = false →
      srcOk .p a = true → Enabled s h [(.p, a)] → s.ctx.st = .running →
      let m := s.ctx.srcP a &&& s.ctx.active h
      let target := offsetTarget s.ctx off
      (m = 0 → Idles (.fork h a off) s h 4)
      ∧ (m ≠ 0 → m = s.ctx.lmask → Reaches s target → Jumps (.fork h a off) s h target)
      ∧ (∀ n, m ≠ 0 → m ≠ s.ctx.lmask → Reaches s target → s.ctx.kernel.bind s.me.dormantOf = some n →
        ∃ t, exec (.fork h a off) s = .next t ∧ RegsKept s.ctx t.ctx ∧ Passed s t h 4
          ∧ t.ctx.lmask = s.ctx.lmask &&& ~~~m ∧ n ≠ s.cur.ctx
          ∧ (t.me.ctx n).st = .dormant ∧ (t.me.ctx n).reserved = true ∧ (t.me.ctx n).pc = target
          ∧ (t.me.ctx n).lmask = m ∧ RegsKept s.ctx (t.me.ctx n)
          ∧ t.me.deque = { ctx := n, join := false } :: s.me.deque
          ∧ (∀ i, i ≠ s.cur → i ≠ { core := s.cur.core, ctx := n } → t.ctxAt i = s.ctxAt i) ∧ t.mem = s.mem))
  ∧ (∀ (s : State) (h : Hdr) (a : Fld) (off : Nat), s.ctx.capturing = false → s.ctx.trapMode = false → s.ctx.chain = [] →
      Enabled s h [gs a] → s.ctx.heldReqs = [] → s.joinOffset (s.ctx.srcG a).toNat = some off →
      (s.ctx.srcG a).toNat % 8 = 0 →
      let pa := spadBase s.cur.core + off
      let w := s.readWord pa
      let lanes : Mask := w.extractLsb' 32 16 ||| s.ctx.lmask
      s.poisoned pa = false → field w 15 0 ≠ 0 → field w 63 48 = 0 → field w 31 16 = 0 →
      ∃ t, exec (.join h a) s = .next t ∧ OtherContexts s t
        ∧ (field w 15 0 = 1 → StoredAt s t pa (bytesOfWord 0) ∧ t.ctx.st = .dormant ∧ t.ctx.reserved = true
            ∧ t.ctx.lmask = lanes ∧ RegsKept s.ctx t.ctx ∧ Passed s t h 4
            ∧ t.me.deque = { ctx := s.cur.ctx, join := true } :: s.me.deque)
        ∧ (field w 15 0 ≠ 1 →
            StoredAt s t pa (bytesOfWord (BitVec.ofNat 64 (lanes.toNat * 2 ^ 32 + (field w 15 0 - 1))))
            ∧ t.ctx = s.ctx.ended s.ctx.kernel .dormant))

/-! ### Control registers and requests of a handler -/

/-- R268 to R270: CSRR reads a control register into gd; CSRW, CSRS and CSRC also write its RW bits, set them or clear them, and
clear W1C bits that they write as 1; every other register reads as before; a number with no register traps CONTROL_REGISTER.
TAGEN and TAGCLR set and clear EN of a handler-table entry of the issuing context's kernel, and trap TAG_ENTRY on any other. -/
def Obligations.ControlRegistersAndTagEnables : Prop :=
  (∀ (s : State) (h : Hdr) (d a : Fld) (n : BitVec 12), dstOk .g d = true →
      let v := s.ctx.srcG a
      let rw := csrRw n.toNat
      let w1c := csrW1c n.toNat
      (∀ old, s.csr n.toNat = some old →
        (Enabled s h [] → Writes (.csrr h d n) s h 8 .g d (ofWord old))
        ∧ (Enabled s h [gs a] → ∀ e ∈ [(Instr.csrw h d a n, ((old &&& ~~~rw) ||| (v &&& rw)) &&& ~~~(v &&& w1c)),
              (.csrs h d a n, old ||| (v &&& rw)), (.csrc h d a n, old &&& ~~~(v &&& rw) &&& ~~~(v &&& w1c))],
            ∃ t, exec e.1 s = .next t ∧ OnlyCore s t ∧ Passed s t h 8
              ∧ (∀ k m, t.ctx.reg k m = if k = .g ∧ m = d.toNat ∧ keeps .g d then ofWord old else s.ctx.reg k m)
              ∧ (n.toNat ≠ 8 → t.csr n.toNat = some e.2)
              ∧ ∀ m, m ≠ n.toNat → m ≠ 8 → t.csr m = s.csr m))
      ∧ (s.csr n.toNat = none → Enabled s h [] →
          ∀ i ∈ [Instr.csrr h d n, .csrw h d a n, .csrs h d a n, .csrc h d a n], TrapsWith i s { code := 0x001 }))
  ∧ (∀ (s : State) (h : Hdr) (n : BitVec 6), Enabled s h [] →
      let e := s.me.tag n.toNat
      (e.v = true → some e.kernel = s.ctx.kernel → ∀ x ∈ [(Instr.tagen h n, true), (.tagclr h n, false)],
        ∃ t, exec x.1 s = .next t ∧ OnlyCore s t ∧ RegsKept s.ctx t.ctx ∧ Passed s t h 4
          ∧ t.me.tag n.toNat = { e with en := x.2 } ∧ ∀ m, m ≠ n.toNat → t.me.tag m = s.me.tag m)
      ∧ (e.v = false ∨ some e.kernel ≠ s.ctx.kernel →
        TrapsWith (.tagen h n) s { code := 0x0CF } ∧ TrapsWith (.tagclr h n) s { code := 0x0CF }))

/-- R222, R271: PREEMPT and CSAVE begin to save another context between two instructions, be it Ready, Trapped or
Waiting: it is Saving, and the handler waits for SAVE_COMPLETE; of a Waiting one a barrier is still waited for, a SLEEP
has been woken, and a FORCE, a job or a copy is waited for anew. A context that is in trap mode or inside an instruction
holds the request. The issuing context itself traps CONTROL_STATE and a misaligned image MISALIGNED; a Free or Dormant
target, one already being saved or restored, and a core that is not there are answered at once; a core of another die
that has stopped traps THERMAL_TRIP. CREST begins to restore a Saved or Dormant context from an image that passes R64
and is of its own kernel and place: it is Restoring, and the handler waits for RESTORE_COMPLETE; an image that cannot be
read is answered 3, and one that fails a check traps SAVE_IMAGE; a target that is being saved or restored is answered 2,
and one in any other state with a status of its set that the spec leaves open. The model's own choices and readings, log
entries 33 and 34, enter here. -/
def Obligations.SaveAndRestoreRequests : Prop :=
  (∀ (s : State) (h : Hdr) (d a b : Fld), dstOk .g d = true → s.ctx.trapMode = true →
      let x := s.ctx.srcG b
      let t := CtxId.mk (field (s.ctx.srcG a) 12 0) (field (s.ctx.srcG a) 15 13)
      let c := s.ctxAt t
      let stalls := fun (i : Instr) (u : State) =>
        exec i s = .next u ∧ u.ctx.stall = some (.save h d) ∧ RegsKept s.ctx u.ctx
      let alone := fun (u : State) => u.mem = s.mem ∧ ∀ j, j ≠ s.cur → j ≠ t → u.ctxAt j = s.ctxAt j
      let begins := fun (i : Instr) (prior : CtxState) (u : State) =>
        stalls i u ∧ (u.ctxAt t).st = .saving ∧ (∃ r, (u.ctxAt t).saveReq = some r ∧ r.asker = some s.cur ∧ r.prior = prior)
        ∧ ∃ e ∈ u.agenda, e.row = .saveComplete ∧ e.ev = evCtx t
      let whole := fun (u : State) => RegsKept c (u.ctxAt t) ∧ (u.ctxAt t).pc = c.pc
      (Enabled s h [gs a, gs b] → t ≠ s.cur → x.toNat % 64 ≠ 0 →
        TrapsWith (.csave h d a b) s { code := 0x04C, acc := 2, addr := x })
      ∧ ∀ i, (i = .preempt h d a ∧ Enabled s h [gs a]) ∨ (i = .csave h d a b ∧ Enabled s h [gs a, gs b] ∧ x.toNat % 64 = 0) →
        (t = s.cur → TrapsWith i s { code := 0x00A })
        ∧ (t ≠ s.cur → s.coreMapped t.core = false → Writes i s h 4 .g d (ofWord 4))
        ∧ (t ≠ s.cur → s.coreMapped t.core = true → (s.die (coreDie t.core)).stopped = true → coreDie t.core ≠ coreDie s.cur.core →
          TrapsWith i s { code := 0x163 })
        ∧ (t ≠ s.cur → s.coreMapped t.core = true → (s.die (coreDie t.core)).stopped = false ∨ coreDie t.core = coreDie s.cur.core →
          (c.st = .free ∨ c.st = .dormant → Writes i s h 4 .g d (ofWord 1))
          ∧ (c.st = .saving ∨ c.st = .saved ∨ c.st = .restoring → Writes i s h 4 .g d (ofWord 2))
          ∧ (s.holdsSave t = false →
            (c.st = .ready ∨ c.st = .running → ∃ u, begins i .ready u ∧ alone u ∧ whole u)
            ∧ (c.st = .trapped → ∃ u, begins i .trapped u ∧ alone u ∧ whole u)
            ∧ (∀ w, c.st = .waiting → c.wait = some w →
              (∀ n k, w.kind = .barrier n k ∨ w.kind = .kbarrier n k →
                ∃ u, begins i .waiting u ∧ alone u ∧ whole u ∧ (u.ctxAt t).wait = some w)
              ∧ (∀ n k, w.kind = .job n k ∨ w.kind = .copy n k → ∃ u, begins i .ready u ∧ alone u ∧ whole u)
              ∧ (∀ n k, w.kind = .sleep n k → ∃ u, begins i .ready u ∧ alone u ∧ ∀ j m, (u.ctxAt t).reg j m =
                  if j = .g ∧ m = k.toNat ∧ keeps .g k then ofWord 1 else c.reg j m)
              ∧ (∀ y, w.kind = .force y → ∃ u, begins i .ready u ∧ whole u)))
          ∧ (s.holdsSave t = true → c.st = .ready ∨ c.st = .running ∨ c.st = .waiting ∨ c.st = .trapped →
            ∃ u r, stalls i u ∧ alone u ∧ r.asker = some s.cur ∧ u.ctxAt t = { c with heldReqs := c.heldReqs ++ [r] })))
  ∧ (∀ (s : State) (h : Hdr) (d a b : Fld), dstOk .g d = true → s.ctx.trapMode = true → Enabled s h [gs a, gs b] →
      let x := s.ctx.srcG b
      let t := CtxId.mk (field (s.ctx.srcG a) 12 0) (field (s.ctx.srcG a) 15 13)
      let c := s.ctxAt t
      let i := Instr.crest h d a b
      let image := s.readImage (coreDie t.core) true x.toNat 6144
      (x.toNat % 64 ≠ 0 → TrapsWith i s { code := 0x04C, acc := 1, addr := x })
      ∧ (x.toNat % 64 = 0 → s.coreMapped t.core = false → Writes i s h 4 .g d (ofWord 4))
      ∧ (x.toNat % 64 = 0 → s.coreMapped t.core = true → (s.die (coreDie t.core)).stopped = true → coreDie t.core ≠ coreDie s.cur.core →
          TrapsWith i s { code := 0x163 })
      ∧ (x.toNat % 64 = 0 → s.coreMapped t.core = true → (s.die (coreDie t.core)).stopped = false ∨ coreDie t.core = coreDie s.cur.core →
        (c.st = .saving ∨ c.st = .restoring → Writes i s h 4 .g d (ofWord 2))
        ∧ (c.st = .free ∨ c.st = .ready ∨ c.st = .running ∨ c.st = .waiting ∨ c.st = .trapped →
          ∃ u code, code < 5 ∧ exec i s = .next u ∧ Wrote s { u with fresh := s.fresh } h 4 .g d (ofWord (BitVec.ofNat 64 code)))
        ∧ (c.st = .saved ∨ c.st = .dormant →
          (∀ st, s.imageHold (coreDie t.core) x.toNat 6144 true = some st → exec i s = .next (s.stallOn st))
          ∧ (s.imageHold (coreDie t.core) x.toNat 6144 true = none →
            (image = none → Writes i s h 4 .g d (ofWord 3))
            ∧ (∀ bytes, image = some bytes → imageOk bytes = false ∨ s.imageFits t x.toNat bytes = .ok false →
                TrapsWith i s { code := 0x166 })
            ∧ (∀ bytes st, image = some bytes → imageOk bytes = true → s.imageFits t x.toNat bytes = .error st →
                exec i s = .next (s.stallOn st))
            ∧ (∀ bytes, image = some bytes → imageOk bytes = true → s.imageFits t x.toNat bytes = .ok true → t ≠ s.cur →
              ∃ u, exec i s = .next u ∧ (u.ctxAt t).st = .restoring ∧ u.ctx.stall = some (.save h d) ∧ RegsKept s.ctx u.ctx
                ∧ RegsKept c (u.ctxAt t) ∧ u.mem = s.mem ∧ (∃ e ∈ u.agenda, e.row = .restoreComplete ∧ e.ev = evCtx t)
                ∧ ∀ j, j ≠ s.cur → j ≠ t → u.ctxAt j = s.ctxAt j)))))

/-! ### Memory -/

/-- R309, R313, R318: the scalar loads give the bytes at their address, low byte first, sign- or zero-extended, and through
a format window the decoded lane; an access that a check stops ends in that trap. R309, R313, R318: the scalar stores write
the low bytes of gd at their address, or through a format window the code of its lane, and no other byte of memory; an
access that a check stops ends in that trap. -/
def Obligations.ScalarLoadsAndStores : Prop :=
  (∀ (s : State) (h : Hdr) (sz : Size) (us : USize3) (sc : Scope) (d a b : Fld) (imm : BitVec 6) (far : BitVec 26),
      dstOk .g d = true →
      let x := s.ctx.srcG a
      let n := Size.bytes sz
      let m := Size.bytes (USize3.size us)
      let loads := fun (i : Instr) (len : Nat) (addr : Word) (n : Nat) (signed : Bool) =>
        (∀ pas, Here s (s.ctx.elem .load addr.toNat n) pas →
          let code := natOfBytes (pas.map s.readByte)
          let r : Word × Flags := match s.ctx.wd addr.toNat with
            | some w => ((s.windowLoad s.cur.core s.ctx w addr.toNat code).1.zeroExtend 64,
                (s.windowLoad s.cur.core s.ctx w addr.toNat code).2)
            | none => (if signed then (BitVec.ofNat (8 * n) code).signExtend 64 else BitVec.ofNat 64 code, 0)
          ∃ t, exec i s = .next t ∧ Loaded s t h len .g d (ofWord r.1) r.2)
        ∧ ∀ k, s.access s.cur.core (s.ctx.elem .load addr.toNat n) = .error (.trap k) → TrapsWith i s k
      (Enabled s h [gs a] → loads (.ld h sz d a imm) 4 (x + imm.signExtend 64) n true
        ∧ loads (.ldU h us d a imm) 4 (x + imm.signExtend 64) m false
        ∧ loads (.ldXi h sz d a far) 8 (x + far.signExtend 64) n true
        ∧ loads (.ldUXi h us d a far) 8 (x + far.signExtend 64) m false
        ∧ loads (.lda h sz sc d a) 8 x n false)
      ∧ (Enabled s h [gs a, gs b] →
        loads (.ldIndexed h sz d a b) 4 (x + s.ctx.srcG b * BitVec.ofNat 64 n) n true))
  ∧ (∀ (s : State) (h : Hdr) (sz : Size) (sc : Scope) (d a b : Fld) (imm : BitVec 6) (far : BitVec 26),
      let x := s.ctx.srcG a
      let v := s.ctx.srcG d
      let n := Size.bytes sz
      let stores := fun (i : Instr) (len : Nat) (addr : Word) =>
        (∀ pas, Here s (s.ctx.elem .store addr.toNat n) pas →
          let r : Nat × Flags := match s.ctx.wd addr.toNat with
            | some w => s.windowStore s.cur.core s.ctx w addr.toNat (v.truncate 32)
            | none => (v.toNat, 0)
          ∃ t, exec i s = .next t ∧ Stored s t h len pas (bytesOfNat (s.ctx.elemBytes addr.toNat n) r.1) r.2)
        ∧ ∀ k, s.access s.cur.core (s.ctx.elem .store addr.toNat n) = .error (.trap k) → TrapsWith i s k
      (Enabled s h [gs d, gs a] → stores (.st h sz d a imm) 4 (x + imm.signExtend 64)
        ∧ stores (.stXi h sz d a far) 8 (x + far.signExtend 64) ∧ stores (.strel h sz sc d a) 8 x)
      ∧ (Enabled s h [gs d, gs a, gs b] → stores (.stIndexed h sz d a b) 4 (x + s.ctx.srcG b * BitVec.ofNat 64 n)))

/-- R48, R49, R309, R311: the checks of an access in their order, on the raw loads: no window, a window crossed, a
misaligned address, and a scratchpad byte that is not there. R18, R48, R313: through a raw local window, the scratchpad of
the issuing core holds what was stored: a load of the size and at the address of a store gives the value stored, extended.
-/
def Obligations.AccessChecksAndScratchpads : Prop :=
  (∀ (s : State) (h : Hdr) (sz : Size) (d a : Fld) (imm : BitVec 6), dstOk .g d = true → Enabled s h [gs a] →
      let va := (s.ctx.srcG a + imm.signExtend 64).toNat
      let addr := BitVec.ofNat 64 va
      let n := Size.bytes sz
      let i := Instr.ld h sz d a imm
      s.ctx.wd va = none →
      (windowOf va = .none → TrapsWith i s { code := 0x040, acc := 1, addr })
      ∧ (windowOf va ≠ .none → (∃ k, k < n ∧ windowOf (va + k) ≠ windowOf va) → TrapsWith i s { code := 0x041, acc := 1, addr })
      ∧ (windowOf va ≠ .none → (∀ k, k < n → windowOf (va + k) = windowOf va) → va % n ≠ 0 →
          TrapsWith i s { code := 0x04C, acc := 1, addr })
      ∧ (∀ w k, windowOf va = .local_ w → va % n = 0 → k < n → (∀ j, j < k → va % 0x100000 + j < spadBytes (coreDie s.cur.core)) →
          ¬ (va % 0x100000 + k < spadBytes (coreDie s.cur.core)) → s.coreMapped s.cur.core = true →
          TrapsWith i s { code := 0x042, acc := 1, addr := BitVec.ofNat 64 (va + k) }))
  ∧ (∀ (s t : State) (h h' : Hdr) (sz : Size) (d d' a a' : Fld) (imm imm' : BitVec 6) (w : Nat),
      let va := s.ctx.srcG a + imm.signExtend 64
      dstOk .g d' = true → Enabled s h [gs d, gs a] → windowOf va.toNat = .local_ w → s.ctx.wd va.toNat = none →
      va.toNat % Size.bytes sz = 0 → va.toNat % 0x100000 + Size.bytes sz ≤ spadBytes (coreDie s.cur.core) →
      s.coreMapped s.cur.core = true →
      (∀ k, k < Size.bytes sz → s.poisoned (spadBase s.cur.core + va.toNat % 0x100000 + k) = false) →
      exec (.st h sz d a imm) s = .next t → Enabled t h' [gs a'] → t.ctx.srcG a' + imm'.signExtend 64 = va →
      ∃ u, exec (.ld h' sz d' a' imm') t = .next u
        ∧ Loaded t u h' 4 .g d' (ofWord (((s.ctx.srcG d).truncate (8 * Size.bytes sz)).signExtend 64)) 0)

/-- R54, R310, R314: VLD gives each active lane its element, contiguous from the address up, decoded through a format window,
and VST stores those of the active lanes alone: here where they lie in the package. -/
def Obligations.VectorLoadsAndStores : Prop :=
  ∀ (s : State) (h : Hdr) (d a : Fld) (imm : BitVec 6) (far : BitVec 26),
    s.ctx.parts = none →
    let m := s.ctx.active h
    let x := s.ctx.srcG a
    let loads := fun (i : Instr) (len : Nat) (va : Nat) =>
      let e := s.ctx.vecElem .load va m
      let n := s.ctx.elemBytes va 4
      ∀ pas, Here s e pas →
        let code := fun l => codeAt e.offs (pas.map s.readByte) (l * n) n
        let f : LaneFn := fun l => match s.ctx.wd (va + l * n) with
          | some w => s.windowLoad s.cur.core s.ctx w (va + l * n) (code l)
          | none => (BitVec.ofNat 32 (code l), 0)
        ∃ t, exec i s = .next t ∧ OnlyContextAndWalks s t ∧ ContextRest s.ctx t.ctx ∧ Passed s t h len
          ∧ t.ctx.fflags = s.ctx.fflags ||| activeFlags m f
          ∧ (∀ k r, k ≠ .v ∨ r ≠ d.toNat → t.ctx.reg k r = s.ctx.reg k r)
          ∧ (d.toNat < 56 → ∀ l, l < 16 → lane (t.ctx.reg .v d.toNat) l =
              if m.getLsbD l then (f l).1 else lane (s.ctx.reg .v d.toNat) l)
    let stores := fun (i : Instr) (len : Nat) (va : Nat) =>
      let e := s.ctx.vecElem .store va m
      let n := s.ctx.elemBytes va 4
      ∀ pas, Here s e pas →
        let f : Nat → Nat × Flags := fun l => match s.ctx.wd (va + l * n) with
          | some w => s.windowStore s.cur.core s.ctx w (va + l * n) (lane (s.ctx.srcV d) l)
          | none => ((lane (s.ctx.srcV d) l).toNat, 0)
        ∃ t, exec i s = .next t ∧ Stored s t h len pas
          ((List.range 16).flatMap fun l => if m.getLsbD l then bytesOfNat n (f l).1 else [])
          (activeFlags m fun l => (0, (f l).2))
    (dstOk .v d = true → Enabled s h [gs a] → loads (.vld h d a imm) 4 (x + imm.signExtend 64).toNat
      ∧ loads (.vldXi h d a far) 8 (x + far.signExtend 64).toNat)
    ∧ (Enabled s h [(.v, d), gs a] → stores (.vst h d a imm) 4 (x + imm.signExtend 64).toNat
      ∧ stores (.vstXi h d a far) 8 (x + far.signExtend 64).toNat)

/-- R315: VLDS and VSTS move element k of a block between lane k mod 16 of its register k div 16 and ga + k × gb, once every
active element has passed its checks: here where all of them lie in the package and none is stored over a row scale. -/
def Obligations.StridedBlocks : Prop :=
  ∀ (s : State) (h : Hdr) (bk : Block) (d a b : Fld) (l : List Placed), blkOk bk = true → blockAt bk d = true →
    s.ctx.parts = none → (∀ p ∈ l, ∃ pas walked, p.place = .here pas walked) →
    let m := s.ctx.active h
    let n := s.ctx.elemBytes (s.ctx.srcG a).toNat 4
    let placed := fun kind => s.placeStrided s.ctx kind (s.ctx.srcG a) (s.ctx.srcG b) n (stridedElems m bk) = .ok l
    let pas := fun (p : Placed) => match p.place with
      | .here pas _ => pas
      | .away _ _ => []
    let code := fun (p : Placed) => match s.ctx.wd p.va with
      | some w => s.windowStore s.cur.core s.ctx w p.va (lane (s.ctx.srcV (blockFld bk d (p.k / 16))) (p.k % 16))
      | none => ((lane (s.ctx.srcV (blockFld bk d (p.k / 16))) (p.k % 16)).toNat, 0)
    let elem := fun (p : Placed) => match s.ctx.wd p.va with
      | some w => s.windowLoad s.cur.core s.ctx w p.va (natOfBytes ((pas p).map s.readByte))
      | none => (BitVec.ofNat 32 (natOfBytes ((pas p).map s.readByte)), 0)
    let f := fun r i => ((l.find? fun p => p.k == 16 * r + i).map elem).getD (0, 0)
    (dstOk .v d = true → Enabled s h [gs a, gs b] → placed .load →
      ∃ t, exec (.vlds h bk d a b) s = .next t ∧ OnlyContextAndWalks s t ∧ ContextRest s.ctx t.ctx ∧ Passed s t h 8
        ∧ t.ctx.fflags = s.ctx.fflags ||| blockFlags m f (blockSize bk)
        ∧ (∀ k i, (k = .v → d.toNat < 56 → ∀ r, r < blockSize bk → i ≠ (blockFld bk d r).toNat) →
            t.ctx.reg k i = s.ctx.reg k i)
        ∧ (d.toNat < 56 → ∀ r i, r < blockSize bk → i < 16 → lane (t.ctx.reg .v (blockFld bk d r).toNat) i =
            if m.getLsbD i then (f r i).1 else lane (s.ctx.reg .v (blockFld bk d r).toNat) i))
    ∧ (Enabled s h (blockSrcs bk d ++ [gs a, gs b]) → placed .store → (l.flatMap pas).Nodup →
      (∀ p ∈ l, (pas p).length = n) →
      (∀ p ∈ l, ∀ off, s.ctx.scaleAt p.va = some off → ∀ j, j < 4 → spadBase s.cur.core + off + j ∉ l.flatMap pas) →
      ∃ t, exec (.vsts h bk d a b) s = .next t
        ∧ Stored s t h 8 (l.flatMap pas) (l.flatMap fun p => bytesOfNat n (code p).1)
            (l.foldl (fun acc p => acc ||| (code p).2) 0))

/-- R153, R316, R317: VGATH gives each active lane that progress does not skip the element at ga plus its lane of vb and keeps every
other lane; VSCAT stores such lanes of vd: one that is left, wherever in the package its element lies, and any number of them in the
scratchpad of the issuing core. Both leave CTX.GPROG zero, and so do they with no active lane. -/
def Obligations.GatherAndScatter : Prop :=
  (∀ (s : State) (h : Hdr) (d a b : Fld) (pas : Nat → List Nat),
      let va := fun l => (s.ctx.srcG a + (lane (s.ctx.srcV b) l).signExtend 64).toNat
      let skip := fun l => s.ctx.gprog.getLsbD 31 && (field s.ctx.gprog 63 32 == field s.ctx.pc 33 2)
        && (field s.ctx.gprog 21 16 != 0 || s.ctx.gprog.getLsbD l)
      let live := fun l => l < 16 ∧ (s.ctx.active h).getLsbD l = true ∧ skip l = false
      let f : LaneFn := fun l => match s.ctx.wd (va l) with
        | some w => s.windowLoad s.cur.core s.ctx w (va l) (natOfBytes ((pas l).map s.readByte))
        | none => (BitVec.ofNat 32 (natOfBytes ((pas l).map s.readByte)), 0)
      dstOk .v d = true → Enabled s h [gs a, (.v, b)] → s.ctx.replies = [] →
      (∀ l, live l → Here s (s.ctx.elem .gather (va l) 4) (pas l)) →
      ∃ t, exec (.vgath h d a b) s = .next t ∧ OnlyContextAndWalks s t ∧ t.ctx.gprog = 0
        ∧ ContextRest s.ctx { t.ctx with gprog := s.ctx.gprog, gath := s.ctx.gath } ∧ Passed s t h 8
        ∧ t.ctx.fflags = s.ctx.fflags ||| orLanes
            (fun l => if (s.ctx.active h).getLsbD l && !skip l then (f l).2 else 0) 16
        ∧ (∀ k n, k ≠ .v ∨ n ≠ d.toNat → t.ctx.reg k n = s.ctx.reg k n)
        ∧ (d.toNat < 56 → ∀ l, l < 16 →
          (live l → lane (t.ctx.reg .v d.toNat) l = (f l).1)
          ∧ (¬ live l → lane (t.ctx.reg .v d.toNat) l = lane (s.ctx.reg .v d.toNat) l)))
  ∧ (∀ (s : State) (h : Hdr) (d a b : Fld),
      let va := fun l => (s.ctx.srcG a + (lane (s.ctx.srcV b) l).signExtend 64).toNat
      let skip := fun l => s.ctx.gprog.getLsbD 31 && (field s.ctx.gprog 63 32 == field s.ctx.pc 33 2)
        && (field s.ctx.gprog 21 16 != 0 || s.ctx.gprog.getLsbD l)
      let live := fun l => l < 16 ∧ (s.ctx.active h).getLsbD l = true ∧ skip l = false
      let code := fun l => match s.ctx.wd (va l) with
        | some w => s.windowStore s.cur.core s.ctx w (va l) (lane (s.ctx.srcV d) l)
        | none => ((lane (s.ctx.srcV d) l).toNat, 0)
      let scattered := fun (t : State) => exec (.vscat h d a b) s = .next t ∧ OnlyContextAndMemory s t ∧ t.ctx.gprog = 0
        ∧ ContextRest s.ctx { t.ctx with gprog := s.ctx.gprog } ∧ Passed s t h 8 ∧ RegsKept s.ctx t.ctx
        ∧ t.ctx.hist = s.ctx.hist
      (∀ l pas, Enabled s h [(.v, d), gs a, (.v, b)] → live l → (∀ l', live l' → l' = l) →
        Here s (s.ctx.elem .scatter (va l) 4) pas →
        ∃ t, scattered t ∧ t.ctx.fflags = s.ctx.fflags ||| (code l).2
          ∧ StoredTo s t pas (bytesOfNat (s.ctx.elemBytes (va l) 4) (code l).1))
      ∧ (let pa := fun l => spadBase s.cur.core + va l % 0x100000
        Enabled s h [(.v, d), gs a, (.v, b)] → s.coreMapped s.cur.core = true →
        (∀ l, live l → (∃ w, windowOf (va l) = .local_ w) ∧ s.ctx.wd (va l) = none ∧ va l % 4 = 0
          ∧ va l % 0x100000 + 4 ≤ spadBytes (coreDie s.cur.core)) →
        (∀ l l', live l → live l' → pa l = pa l' → l = l') →
        ∃ t, scattered t ∧ t.ctx.fflags = s.ctx.fflags
          ∧ (∀ l j, live l → j < 4 → t.readByte (pa l + j) = (bytesOfNat 4 (code l).1).getD j 0)
          ∧ ∀ q, (∀ l, live l → q < pa l ∨ pa l + 4 ≤ q) → t.readByte q = s.readByte q)
      ∧ (s.ctx.predTrap h = none → s.ctx.active h = 0 → ∀ i ∈ [Instr.vgath h d a b, .vscat h d a b],
        ∃ t, exec i s = .next t ∧ OnlyContext s t ∧ ContextRest s.ctx { t.ctx with gprog := s.ctx.gprog } ∧ t.ctx.gprog = 0
          ∧ RegsKept s.ctx t.ctx ∧ Passed s t h 8))

/-- R320 to R322: an atomic of the package gives the old value, zero-extended, and leaves the new one in its place; a
compare that fails writes nothing. R54, R323: AMOFADD to the host or to a peer, AMO but for add and swp to the host, and
any atomic to the heap window outside a pinned object trap ATOMIC_WINDOW, and one through a format window WINDOW_FORMAT.
The model's own choices and readings, log entries 18 and 52, enter here. -/
def Obligations.AtomicResults : Prop :=
  ∀ (s : State) (h : Hdr) (dbl : Bool) (sc : Scope) (od : Ord4) (rnd : Rnd) (d a b c : Fld) (pas : List Nat),
    dstOk .g d = true →
    let va := (s.ctx.srcG a).toNat
    let n := if dbl then 8 else 4
    let o : BitVec (8 * n) := BitVec.ofNat _ (natOfBytes (pas.map s.readByte))
    let y : BitVec (8 * n) := BitVec.ofNat _ (s.ctx.srcG b).toNat
    let z : BitVec (8 * n) := BitVec.ofNat _ (s.ctx.srcG c).toNat
    let atomic := fun (i : Instr) (op : Amo) (n : Nat) (new : Option Nat) (fl : Flags) =>
      let e := { s.ctx.elem .atomic va n with scales := [] }
      s.ctx.wd va = none → Here s { e with atomicOk := op.allowed (windowOf va)
          && (windowOf va != .heap || s.insidePinned s.cur.core e) } pas →
      ∃ t, exec i s = .next t ∧ OnlyContextAndMemory s t
        ∧ ContextRest s.ctx { t.ctx with effects := s.ctx.effects }
        ∧ t.ctx.effects = (s.ctx.effects || decide (windowOf va ≠ .heap))
        ∧ t.ctx.fflags = s.ctx.fflags ||| fl ∧ Passed s t h 8
        ∧ (∀ k r, t.ctx.reg k r = if k = .g ∧ r = d.toNat ∧ keeps .g d
            then ofWord (BitVec.ofNat 64 (natOfBytes (pas.map s.readByte))) else s.ctx.reg k r)
        ∧ match new with
          | some v => StoredTo s t pas (bytesOfNat n v)
          | none => MemKept s t
    let stops := fun (i : Instr) (n : Nat) (outside : Prop) =>
      let cause := fun (code : Nat) => ({ code, acc := 3, addr := BitVec.ofNat 64 va } : Cause)
      (va % n = 0 → (∀ k, k < n → windowOf (va + k) = windowOf va) →
        outside ∨ (windowOf va = .heap ∧ s.pinnedAt (.core s.cur.core) va = none) → TrapsWith i s (cause 0x04D))
      ∧ (s.ctx.wd va ≠ none → va % 8 = 0 → s.coreMapped s.cur.core = true → va % 0x100000 + 8 ≤ spadBytes (coreDie s.cur.core) →
        TrapsWith i s (cause 0x045))
    let host := windowOf va = .host
    (Enabled s h [gs a, gs b] → ∀ u,
      stops (.amoAdd h dbl sc od d a b) n False ∧ stops (.amoSwp h dbl sc od d a b) n False
      ∧ stops (.amoAnd h dbl sc od d a b) n host ∧ stops (.amoOr h dbl sc od d a b) n host
      ∧ stops (.amoXor h dbl sc od d a b) n host ∧ stops (.amoMin h u dbl sc od d a b) n host
      ∧ stops (.amoMax h u dbl sc od d a b) n host
      ∧ stops (.amofadd h rnd sc od d a b) 4 (host ∨ ∃ p, windowOf va = .link p))
    ∧ (Enabled s h [gs a, gs b, gs c] → stops (.amocas h dbl sc od d a b c) n False)
    ∧ (Enabled s h [gs a, gs b] →
      atomic (.amoAdd h dbl sc od d a b) .add n (some (o + y).toNat) 0
      ∧ atomic (.amoAnd h dbl sc od d a b) .and n (some (o &&& y).toNat) 0
      ∧ atomic (.amoOr h dbl sc od d a b) .or n (some (o ||| y).toNat) 0
      ∧ atomic (.amoXor h dbl sc od d a b) .xor n (some (o ^^^ y).toNat) 0
      ∧ atomic (.amoMin h true dbl sc od d a b) .minu n (some (min o.toNat y.toNat)) 0
      ∧ atomic (.amoMin h false dbl sc od d a b) .min n (some (if y.toInt < o.toInt then y else o).toNat) 0
      ∧ atomic (.amoMax h true dbl sc od d a b) .maxu n (some (max o.toNat y.toNat)) 0
      ∧ atomic (.amoMax h false dbl sc od d a b) .max n (some (if o.toInt < y.toInt then y else o).toNat) 0
      ∧ atomic (.amoSwp h dbl sc od d a b) .swp n (some y.toNat) 0
      ∧ (let x : Word32 := BitVec.ofNat 32 (natOfBytes (pas.map s.readByte))
         let r := toF32 (s.ctx.mode rnd) ((f32 x).add (s.ctx.mode rnd) (f32 ((s.ctx.srcG b).truncate 32)))
         atomic (.amofadd h rnd sc od d a b) .fadd 4 (some r.1.toNat) r.2))
    ∧ (Enabled s h [gs a, gs b, gs c] →
      atomic (.amocas h dbl sc od d a b c) .cas n (if o = y then some z.toNat else none) 0)

/-- R319, R324, R325, R53: FENCE and PREF only pass, in a machine that performs accesses in order; WDSET writes a window
descriptor and WDGET reads it, and a descriptor that R53 refuses traps BAD_DESCRIPTOR. R272: TLBINV waits for its
completion, which leaves no cached leaf of the range in any core and lets the context go on. The model's own choice or
reading, log entry 2, enters here. -/
def Obligations.FencesWindowsAndInvalidation : Prop :=
  (∀ (s : State) (h : Hdr) (sc : Scope) (od : Ord3) (w : Bool) (d a : Fld) (imm : BitVec 6) (n : BitVec 3),
      (Enabled s h [] → Idles (.fence h sc od) s h 8 ∧ Idles (.pref h w a imm) s h 4)
      ∧ (Enabled s h [gs a] → wdBad (s.ctx.srcG a) = false →
        ∃ t, exec (.wdset h a n) s = .next t ∧ OnlyContext s t ∧ ContextRest s.ctx { t.ctx with win := s.ctx.win }
          ∧ RegsKept s.ctx t.ctx ∧ t.ctx.fflags = s.ctx.fflags ∧ t.ctx.hist = s.ctx.hist ∧ Passed s t h 4
          ∧ ∀ m, t.ctx.win.get 0 m = if m = n.toNat then s.ctx.srcG a else s.ctx.win.get 0 m)
      ∧ (Enabled s h [gs a] → wdBad (s.ctx.srcG a) = true → TrapsWith (.wdset h a n) s { code := 0x044 })
      ∧ (dstOk .g d = true → Enabled s h [] → Writes (.wdget h d n) s h 4 .g d (ofWord (s.ctx.win.get 0 n.toNat))))
  ∧ ((∀ (s : State) (h : Hdr) (a b c : Fld), s.ctx.trapMode = true → Enabled s h [gs c, gs a, gs b] →
      ∃ t, exec (.tlbinv h c a b) s = .next t ∧ t.ctx.stall = some .tlbinv ∧ RegsKept s.ctx t.ctx ∧ Passed s t h 4
        ∧ t.mem = s.mem ∧ OtherContexts s t
        ∧ ∃ x ∈ t.agenda, x.row = .tlbinvComplete ∧ x.ev.unit = s.cur.core ∧ x.ev.sub = s.cur.ctx
            ∧ x.ev.num = field (s.ctx.srcG c) 15 0 ∧ x.ev.w0.toNat = field (s.ctx.srcG a) 51 16
            ∧ x.ev.w1.toNat = field (s.ctx.srcG b) 31 0)
    ∧ (∀ (s : State), ∃ t, exec .tlbinvComplete s = .next t ∧ t.mem = s.mem
        ∧ ((s.ctxAt s.evId).stall = some .tlbinv → (t.ctxAt s.evId).stall = none)
        ∧ ∀ n e, e ∈ (t.core n).tlb ↔ e ∈ (s.core n).tlb ∧ e.inRange s.ev.num s.ev.w0.toNat s.ev.w1.toNat = false))

/-! ### The heap -/

/-- R115, R116, R326, R329: HMOV, HKIND and HEQ pass their handles through the read barrier, leave the healed handle in
each source register, and write the handle, the kind, spark and pin fields of its header, or whether two name one
object; a barrier that ends in a trap is the instruction's. R105, R115: the read barrier refuses a null handle, a handle
with a reserved bit or color zero, one of a free region, one of the wrong color, and one beyond the table of an
evacuation; a header with a reserved KIND or bit traps; a handle of its region's color that names a whole object is its
own target. The model's own choices and readings, log entries 42, 43 and 44, enter here. -/
def Obligations.HandleFormsAndReadBarriers : Prop :=
  (∀ (s : State) (h : Hdr) (d a b : Fld) (t u : Target), srcOk .h a = true → srcOk .h b = true →
      let ag := Agent.core s.cur.core
      let healA := fun k n => if k = Cls.h ∧ n = a.toNat ∧ a.toNat < 56 then ofWord t.handle else s.ctx.reg k n
      let healB := fun k n => if k = Cls.h ∧ n = b.toNat ∧ b.toNat < 56 then ofWord u.handle else healA k n
      let gives := fun (i : Instr) (heal : Cls → Nat → Vec) (k : Cls) (x : Vec) =>
        ∃ v, exec i s = .next v ∧ OnlyContext s v ∧ ContextRest s.ctx v.ctx ∧ v.ctx.fflags = s.ctx.fflags ∧ Passed s v h 4
          ∧ ∀ k' n, v.ctx.reg k' n = if k' = k ∧ n = d.toNat ∧ keeps k d then x else heal k' n
      (Enabled s h [hs a] → s.barrier ag (s.ctx.srcH a) = .ok t →
        (dstOk .h d = true → gives (.hmov h d a) healA .h (ofWord t.handle))
        ∧ (dstOk .g d = true → gives (.hkind h d a) healA .g
            (ofWord (BitVec.ofNat 64 (hdrKind t.hdr + 8 * (hdrSpk t.hdr).toNat + 256 * hdrPcnt t.hdr)))))
      ∧ (Enabled s h [hs a, hs b] → s.barrier ag (s.ctx.srcH a) = .ok t → s.barrier ag (s.ctx.srcH b) = .ok u →
        dstOk .p d = true →
        gives (.heq h d a b) healB .p (ofMask (if hOff t.handle = hOff u.handle then 0xFFFF else 0)))
      ∧ (∀ k, Enabled s h [hs a] → s.barrier ag (s.ctx.srcH a) = .error (.trap k) →
        TrapsWith (.hmov h d a) s k ∧ TrapsWith (.hkind h d a) s k)
      ∧ (∀ k, Enabled s h [hs a, hs b] →
        (s.barrier ag (s.ctx.srcH a) = .error (.trap k) → TrapsWith (.heq h d a b) s k)
        ∧ (s.barrier ag (s.ctx.srcH a) = .ok t → s.barrier ag (s.ctx.srcH b) = .error (.trap k) →
          TrapsWith (.heq h d a b) s k)))
  ∧ (∀ (s : State) (ag : Agent) (o w0 hdr : Word),
      let cause := fun (code : Nat) => Except.error (ε := Stop) (α := Target) (.trap { code, acc := 7, objk := 1, obj := o })
      s.barrier ag 0 = .error (.trap { code := 0x080, acc := 7, objk := 1, obj := 0 })
      ∧ (o ≠ 0 → field o 61 48 ≠ 0 ∨ field o 2 0 ≠ 0 ∨ hColor o = 0 → s.barrier ag o = cause 0x081)
      ∧ (o ≠ 0 → field o 61 48 = 0 → field o 2 0 = 0 → hColor o ≠ 0 → s.regionWord ag (hRegion o) 0 = .ok w0 →
        (rgState w0 = 0 → s.barrier ag o = cause 0x082)
        ∧ (rgState w0 ≠ 0 → hColor o ≠ rgColor w0 → rgState w0 ≠ 3 → rgState w0 ≠ 4 → s.barrier ag o = cause 0x083)
        ∧ (rgState w0 = 3 ∨ rgState w0 = 4 → hColor o = (if rgColor w0 = 1 then 3 else rgColor w0 - 1) →
          hColor o ≠ rgColor w0 → (∃ w2, s.regionWord ag (hRegion o) 2 = .ok w2) →
          (∃ w1, s.regionWord ag (hRegion o) 1 = .ok w1 ∧ field w1 31 0 ≤ hGran o * 16) → s.barrier ag o = cause 0x084)
        ∧ (rgState w0 ≠ 0 → hColor o = rgColor w0 → s.vread ag (hAddr o) = .ok hdr → ∀ w1,
          s.vread ag (hAddr o + 8) = .ok w1 →
          (hdrKind hdr = 7 ∨ field hdr 37 32 ≠ 0 ∨ (hdrKind hdr = 0 ∨ hdrKind hdr = 5) ∧ w1 ≠ 0 →
            s.barrier ag o = cause 0x08B)
          ∧ (hdrKind hdr < 7 → field hdr 37 32 = 0 → hdrKind hdr ≠ 3 → hdrKind hdr ≠ 6 →
            (hdrKind hdr = 0 ∨ hdrKind hdr = 5 → w1 = 0) → (hdrKind hdr = 1 → field w1 50 32 = 0) →
            (hdrKind hdr = 2 → field w1 30 0 = 0) → (hdrKind hdr = 4 → field w1 38 0 = 0) →
            s.barrier ag o = .ok { handle := o, hdr }))))

/-- R116, R328: HLD gives the healed handle of a slot, and heals the slot where it differs; HST stores the healed handle
of hd, which hd then holds too. R106, R117, R330, R332: ALLOC gives the handle of the object that its region had room
for, and traps where its template, the region's state or its room does not admit one; PIN and UNPIN count in PCNT with
PIN following it, and PIN gives the object's address. The model's own choices and readings, log entries 44 and 52, enter
here. -/
def Obligations.HandleSlotsAndAllocation : Prop :=
  (∀ (s : State) (h : Hdr) (d a : Fld) (imm : BitVec 6) (pas : List Nat) (t : Target),
      let ag := Agent.core s.cur.core
      let va := (s.ctx.srcG a + imm.signExtend 64).toNat
      let old := BitVec.ofNat 64 (natOfBytes (pas.map s.readByte))
      (dstOk .h d = true → Enabled s h [gs a] → Here s (s.ctx.slotElem .load va) pas → s.barrier ag old = .ok t →
        (t.handle ≠ old → ∃ p, s.access s.cur.core (s.ctx.slotElem .heapCas va) = .ok p) →
        ∃ u, exec (.hld h d a imm) s = .next u ∧ OnlyContextAndMemory s u ∧ ContextRest s.ctx u.ctx
          ∧ u.ctx.fflags = s.ctx.fflags ∧ Passed s u h 4
          ∧ (∀ k n, u.ctx.reg k n = if k = .h ∧ n = d.toNat ∧ keeps .h d then ofWord t.handle else s.ctx.reg k n)
          ∧ StoredTo s u pas (bytesOfWord t.handle))
      ∧ (srcOk .h d = true → Enabled s h [hs d, gs a] → Here s (s.ctx.slotElem .store va) pas →
        s.barrier ag (s.ctx.srcH d) = .ok t → s.ctx.parts = none →
        ∃ u, exec (.hst h d a imm) s = .next u ∧ ContextRest s.ctx u.ctx ∧ OtherContexts s u
          ∧ u.ctx.fflags = s.ctx.fflags ∧ Passed s u h 4
          ∧ (∀ k n, u.ctx.reg k n = if k = .h ∧ n = d.toNat ∧ d.toNat < 56 then ofWord t.handle else s.ctx.reg k n)
          ∧ StoredTo s u pas (bytesOfWord t.handle)))
  ∧ (∀ (s : State) (h : Hdr) (d a b : Fld) (t : Target) (pa : Nat),
      let ag := Agent.core s.cur.core
      let w := s.ctx.srcG b
      let region := field (s.ctx.srcG a) 17 0
      let size := if hdrKind w = 0 then valueSize w else hdrSize w
      let allocated := s.allocate s.cur.core region size (setField w 31 0 size) 0 (freshWord w)
      (dstOk .h d = true → Enabled s h [gs a, gs b] →
        (templateOk w = false → TrapsWith (.alloc h d a b) s { code := 0x08B })
        ∧ (templateOk w = true → (∀ k, allocated = .error (.trap k) → TrapsWith (.alloc h d a b) s k)
          ∧ (∀ s' hd, allocated = .ok (s', hd) →
            ∃ u, exec (.alloc h d a b) s = .next u ∧ OnlyContext s' u ∧ ContextRest s.ctx u.ctx ∧ Passed s u h 4
              ∧ ∀ k n, u.ctx.reg k n = if k = .h ∧ n = d.toNat ∧ keeps .h d
                  then ofWord (withVh hd (decide (hdrKind w = 0))) else s.ctx.reg k n)
          ∧ (∀ w0 w1, s.regionWord ag region 0 = .ok w0 → s.regionWord ag region 1 = .ok w1 →
            (rgState w0 ≠ 1 → rgState w0 ≠ 2 → TrapsWith (.alloc h d a b) s { code := 0x08A })
            ∧ (rgState w0 = 1 ∨ rgState w0 = 2 → 0x40000000 < rgTop w1 + size →
                TrapsWith (.alloc h d a b) s { code := 0x090 }))))
      ∧ (srcOk .h a = true → Enabled s h [hs a] → s.barrier ag (s.ctx.srcH a) = .ok t →
        s.vaddr ag .heapCas (hAddr t.handle) = .ok pa →
        let counted := fun (i : Instr) (n : Nat) (regs : Cls → Nat → Vec) =>
          ∃ u w', exec i s = .next u ∧ OnlyContextAndMemory { s with pins := u.pins } u ∧ ContextRest s.ctx u.ctx
            ∧ u.pins = (let sid := spaceSid (s.die (coreDie s.cur.core)).space
                let rest := s.pins.filter fun x => !(x.1 == sid && x.2.1 == hOff t.handle)
                if n = 0 then rest else (sid, hOff t.handle, hdrSize t.hdr) :: rest)
            ∧ u.ctx.fflags = s.ctx.fflags ∧ Passed s u h 4 ∧ StoredAt s u pa (bytesOfWord w') ∧ field w' 47 40 = n ∧ w'.getLsbD 49 = decide (n ≠ 0)
            ∧ (∀ i, i < 64 → i < 40 ∨ (47 < i ∧ i ≠ 49) → w'.getLsbD i = t.hdr.getLsbD i)
            ∧ ∀ k n, u.ctx.reg k n = regs k n
        let heal := fun k n => if k = Cls.h ∧ n = a.toNat ∧ a.toNat < 56 then ofWord t.handle else s.ctx.reg k n
        (dstOk .g d = true → hdrKind t.hdr = 0 ∨ hdrKind t.hdr = 4 ∨ hdrKind t.hdr = 5 → hdrPcnt t.hdr ≠ 255 →
          counted (.pin h d a) (hdrPcnt t.hdr + 1) (fun k n =>
            if k = Cls.g ∧ n = d.toNat ∧ keeps .g d then ofWord (BitVec.ofNat 64 (hAddr t.handle)) else heal k n))
        ∧ (hdrPcnt t.hdr ≠ 0 → counted (.unpin h a) (hdrPcnt t.hdr - 1) heal)
        ∧ (hdrPcnt t.hdr = 0 → TrapsWith (.unpin h a) s { code := 0x089, acc := 7, objk := 1, obj := s.ctx.srcH a })))

/-- R331: the data accesses through a handle: HRD and HVLD give the elements of a VALUE, decoded and scaled, or the
bytes of a BYTES object; HWR and HVST write them; a source register is healed. An object that holds no data traps
OBJECT_KIND, an offset that is no multiple of the element MISALIGNED, and an element outside the object OBJECT_BOUNDS,
the vector forms for their lowest active lane; any other check of an element that fails is the instruction's trap too.
The model's own choice or reading, log entry 44, enters here. -/
def Obligations.HeapDataAccess : Prop :=
  ∀ (s : State) (h : Hdr) (d a : Fld) (imm : BitVec 6) (far : BitVec 26) (t : Target),
    srcOk .h a = true → s.barrier (.core s.cur.core) (s.ctx.srcH a) = .ok t →
    let o := s.ctx.srcH a
    let m := s.ctx.active h
    let heal := fun k n => if k = Cls.h ∧ n = a.toNat ∧ a.toNat < 56 then ofWord t.handle else s.ctx.reg k n
    let load := fun (x : DataElem) => dataLoad t s.ctx.inf x (natOfBytes (x.pas.map s.readByte))
    let reads := fun (i : Instr) (len : Nat) (off : Int) => ∀ n x walked, dataSize t 8 = some n →
      s.dataElem s.cur.core o t false n 0 off = .ok (x, walked) →
      ∃ u, exec i s = .next u ∧ OnlyContextAndWalks s u ∧ ContextRest s.ctx u.ctx ∧ Passed s u h len
        ∧ u.ctx.fflags = s.ctx.fflags ||| (load x).2
        ∧ ∀ k r, u.ctx.reg k r = if k = .g ∧ r = d.toNat ∧ keeps .g d then ofWord (load x).1 else heal k r
    let writes := fun (i : Instr) (len : Nat) (off : Int) => ∀ n x walked, dataSize t 8 = some n →
      s.dataElem s.cur.core o t true n 0 off = .ok (x, walked) → x.pas.Nodup → x.pas.length = n →
      let r := dataStore t s.ctx x (s.ctx.srcG d)
      ∃ u, exec i s = .next u ∧ OnlyContextAndMemory s u ∧ ContextRest s.ctx u.ctx ∧ Passed s u h len
        ∧ u.ctx.fflags = s.ctx.fflags ||| r.2 ∧ (∀ k r, u.ctx.reg k r = heal k r)
        ∧ StoredTo s u x.pas (bytesOfNat n r.1)
    let cause := fun (code : Nat) (va : Int) =>
      ({ code, acc := 7, objk := 1, obj := o, addr := BitVec.ofNat 64 (va.toNat % 2 ^ 64) } : Cause)
    let stops := fun (write : Bool) (i : Instr) (off : Int) =>
      (dataSize t 8 = none → TrapsWith i s (cause 0x087 0))
      ∧ ∀ n, dataSize t 8 = some n →
        (off % n ≠ 0 → TrapsWith i s (cause 0x04C (hAddr t.handle + 16 + off)))
        ∧ (off % n = 0 → off < 0 ∨ (hdrSize t.hdr : Int) < 16 + off + n → TrapsWith i s (cause 0x086 0))
        ∧ ∀ k, s.dataElem s.cur.core o t write n 0 off = .error (.trap k) → TrapsWith i s k
    let stopsLanes := fun (write : Bool) (i : Instr) (off : Int) =>
      (dataSize t 4 = none → TrapsWith i s (cause 0x087 0))
      ∧ ∀ n, dataSize t 4 = some n →
        (∀ l, l < 16 → m.getLsbD l = true → (∀ j, j < l → m.getLsbD j = false) →
          (off % n ≠ 0 → TrapsWith i s (cause 0x04C (hAddr t.handle + 16 + (off + (n * l : Nat)))))
          ∧ (off % n = 0 → off + (n * l : Nat) < 0 ∨ (hdrSize t.hdr : Int) < 16 + (off + (n * l : Nat)) + n →
              TrapsWith i s (cause 0x086 0)))
        ∧ ∀ k, s.dataElems s.cur.core o t write n off (lanesOf m) = .error (.trap k) → TrapsWith i s k
    let readsLanes := fun (i : Instr) (len : Nat) (off : Int) => ∀ n xs walked, dataSize t 4 = some n →
      s.dataElems s.cur.core o t false n off (lanesOf m) = .ok (xs, walked) →
      let f : LaneFn := fun l => match xs.find? fun x => x.k == l with
        | some x => ((load x).1.truncate 32, (load x).2)
        | none => (0, 0)
      ∃ u, exec i s = .next u ∧ OnlyContextAndWalks s u ∧ ContextRest s.ctx u.ctx ∧ Passed s u h len
        ∧ u.ctx.fflags = s.ctx.fflags ||| activeFlags m f
        ∧ (∀ k r, k ≠ .v ∨ r ≠ d.toNat → u.ctx.reg k r = heal k r)
        ∧ (d.toNat < 56 → ∀ l, l < 16 → lane (u.ctx.reg .v d.toNat) l =
            if m.getLsbD l then (f l).1 else lane (s.ctx.reg .v d.toNat) l)
    let writesLanes := fun (i : Instr) (len : Nat) (off : Int) => ∀ n xs walked, dataSize t 4 = some n →
      s.dataElems s.cur.core o t true n off (lanesOf m) = .ok (xs, walked) → (xs.flatMap (·.pas)).Nodup →
      (∀ x ∈ xs, x.pas.length = n) →
      let code := fun (x : DataElem) => dataStore t s.ctx x ((lane (s.ctx.srcV d) x.k).zeroExtend 64)
      ∃ u, exec i s = .next u ∧ OnlyContextAndMemory s u ∧ ContextRest s.ctx u.ctx ∧ Passed s u h len
        ∧ u.ctx.fflags = s.ctx.fflags ||| xs.foldl (fun acc x => acc ||| (code x).2) 0
        ∧ (∀ k r, u.ctx.reg k r = heal k r)
        ∧ StoredTo s u (xs.flatMap (·.pas)) (xs.flatMap fun x => bytesOfNat n (code x).1)
    (dstOk .g d = true → Enabled s h [hs a] →
      reads (.hrd h d a imm) 4 imm.toNat ∧ reads (.hrdXi h d a far) 8 far.toInt
      ∧ stops false (.hrd h d a imm) imm.toNat ∧ stops false (.hrdXi h d a far) far.toInt)
    ∧ (Enabled s h [gs d, hs a] → writes (.hwr h d a imm) 4 imm.toNat ∧ writes (.hwrXi h d a far) 8 far.toInt
      ∧ stops true (.hwr h d a imm) imm.toNat ∧ stops true (.hwrXi h d a far) far.toInt)
    ∧ (dstOk .v d = true → Enabled s h [hs a] →
      readsLanes (.hvld h d a imm) 4 imm.toNat ∧ readsLanes (.hvldXi h d a far) 8 far.toInt
      ∧ stopsLanes false (.hvld h d a imm) imm.toNat ∧ stopsLanes false (.hvldXi h d a far) far.toInt)
    ∧ (Enabled s h [(.v, d), hs a] → writesLanes (.hvst h d a imm) 4 imm.toNat ∧ writesLanes (.hvstXi h d a far) 8 far.toInt
      ∧ stopsLanes true (.hvst h d a imm) imm.toNat ∧ stopsLanes true (.hvstXi h d a far) far.toInt)

/-! ### Thunks -/

/-- R124, R127, R131, R335, R336: FORCE gives the handle of a VALUE; it claims a THUNK, which becomes a BLACKHOLE of its
context and is pushed on the force chain; it waits for one that another context evaluates, and traps CYCLE on its own; a
FAILED thunk re-raises its cause. FORCENB never waits: it says in pb whether it found a VALUE. R132, R138, R337, R338:
SPARK marks a THUNK and queues it at the core; UPD ends the evaluation of a BLACKHOLE that its own context evaluates,
with the words of a VALUE that fits in its place and else as INDIRECT, and traps THUNK_STATE on any other object. The
model's own choices and readings, log entries 22, 41, 44, 45 and 57, enter here. -/
def Obligations.ForceSparksAndUpdates : Prop :=
  (∀ (s : State) (h : Hdr) (d a b : Fld) (t : Target), srcOk .h a = true → dstOk .h d = true → Enabled s h [hs a] →
      let ag := Agent.core s.cur.core
      let x := s.ctx.srcH a
      let heal := fun k n => if k = Cls.h ∧ n = a.toNat ∧ a.toNat < 56 then ofWord t.handle else s.ctx.reg k n
      let i := Instr.force h d a
      s.barrier ag x = .ok t →
      (s.ctx.resuming = false →
        (hdrKind t.hdr = 0 → ∃ u, exec i s = .next u ∧ OnlyContext s u ∧ ContextRest s.ctx u.ctx ∧ Passed s u h 4
          ∧ ∀ k n, u.ctx.reg k n = if k = .h ∧ n = d.toNat ∧ keeps .h d then ofWord (withVh t.handle true) else heal k n)
        ∧ (∀ w1 s1 s2 s3 s', hdrKind t.hdr = 1 → s.ctx.trapMode = false → s.ctx.fdepth < s.ctx.fdepthLim.toNat →
            s.objWord ag t.handle 1 = .ok w1 → s.spill s.ctx t.handle = .ok s1 →
            s1.vwrite ag (hAddr t.handle + 8) (holeWord s.cur none) = .ok s2 →
            s2.vwrite ag (hAddr t.handle) (hdrKindTo t.hdr 2) = .ok s3 →
            s3.modSusp ag (hRegion t.handle) (fun n => n - hdrSize t.hdr) = .ok s' →
            ∃ u, exec i s = .next u ∧ OnlyContext s' u ∧ u.ctx.pc = s.ctx.pc ∧ RegsKept s.ctx u.ctx
              ∧ u.ctx.chain = .claim { handle := t.handle, op := w1 } :: .demand s.ctx.pc x false [(a, x, t.handle)] :: s.ctx.chain)
        ∧ (hdrKind t.hdr = 1 → s.ctx.trapMode = false → s.ctx.fdepthLim.toNat ≤ s.ctx.fdepth →
            TrapsWith i s { code := 0x08D, acc := 7, objk := 1, obj := x })
        ∧ (∀ w1, s.objWord ag t.handle 1 = .ok w1 →
            (hdrKind t.hdr = 2 → holeEv w1 = s.cur → TrapsWith i s { code := 0x08C, acc := 7, objk := 1, obj := x })
            ∧ (hdrKind t.hdr = 4 →
                TrapsWith i s { code := field w1 63 55, objk := 1, obj := t.handle, reraise := true })
            ∧ (∀ s', hdrKind t.hdr = 2 → holeEv w1 ≠ s.cur → s.ctx.trapMode = false →
                s.vwrite ag (hAddr t.handle + 8) (holeWord (holeEv w1) (some s.cur)) = .ok s' →
                ∃ u, exec i s = .next u ∧ OnlyContext s' u ∧ u.ctx.st = .waiting ∧ u.ctx.pc = s.ctx.pc
                  ∧ u.ctx.waiter = holeHead w1 ∧ RegsKept s.ctx u.ctx
                  ∧ u.ctx.wait = some { kind := .force t.handle, since := s.clock, h })))
      ∧ (dstOk .p b = true → ∃ u, exec (.forcenb h d a b) s = .next u ∧ OnlyContext s u ∧ ContextRest s.ctx u.ctx
          ∧ Passed s u h 4
          ∧ ∀ k n, u.ctx.reg k n =
              if k = .p ∧ n = b.toNat ∧ keeps .p b then ofMask (if hdrKind t.hdr = 0 then 0xFFFF else 0)
              else if k = .h ∧ n = d.toNat ∧ keeps .h d ∧ hdrKind t.hdr = 0 then ofWord (withVh t.handle true) else heal k n))
  ∧ (∀ (s : State) (h : Hdr) (a b : Fld) (t : Target), srcOk .h a = true →
      let ag := Agent.core s.cur.core
      s.barrier ag (s.ctx.srcH a) = .ok t →
      (Enabled s h [hs a] →
        (∀ pa, hdrKind t.hdr = 1 → hdrSpk t.hdr = false → s.me.sparge.length < 64 →
          s.vaddr ag .heapCas (hAddr t.handle) = .ok pa →
          ∃ u w, exec (.spark h a) s = .next u ∧ StoredAt s u pa (bytesOfWord w) ∧ hdrSpk w = true
            ∧ (∀ i, i < 64 → i ≠ 39 → w.getLsbD i = t.hdr.getLsbD i) ∧ u.me.sparge = s.me.sparge ++ [t.handle]
            ∧ OtherContexts s u ∧ ContextRest s.ctx u.ctx ∧ Passed s u h 4)
        ∧ (hdrKind t.hdr ≠ 1 ∨ hdrSpk t.hdr = true →
          ∃ u, exec (.spark h a) s = .next u ∧ OnlyContext s u ∧ ContextRest s.ctx u.ctx ∧ Passed s u h 4))
      ∧ (∀ r w1 s', srcOk .h b = true → Enabled s h [hs a, hs b] → s.barrier ag (s.ctx.srcH b) = .ok r →
        s.objWord ag t.handle 1 = .ok w1 →
        (hdrKind t.hdr = 2 → holeEv w1 = s.cur →
          let fits := hdrKind r.hdr = 0 ∧ hdrSize r.hdr ≤ hdrSize t.hdr
          (fits ∧ (∃ ws s1, s.objWords ag r.handle 2 (hdrSize r.hdr / 8 - 2) = .ok ws
              ∧ s.vfill ag (hAddr t.handle + 16) (fun i => ws.getD i 0) (hdrSize t.hdr / 8 - 2) = .ok s1
              ∧ s1.endHeader ag t.handle (valueHeader r.hdr (hdrSize t.hdr)) 0 = .ok s')
            ∨ ¬ fits ∧ s.endHeader ag t.handle (hdrKindTo t.hdr 3) r.handle = .ok s') →
          ∃ u, exec (.upd h a b) s = .next u ∧ OnlyContext s' u ∧ u.ctx.effects = true ∧ Passed s u h 4)
        ∧ (hdrKind t.hdr ≠ 2 ∨ holeEv w1 ≠ s.cur →
          TrapsWith (.upd h a b) s { code := 0x08F, acc := 7, objk := 1, obj := s.ctx.srcH a })))

/-- R123, R333, R334: SUSP and SUSPC make a thunk of their operands while the region's quota has room for it: hd names
it and pb is set; without room the operation is taken up at once by the issuing context; operands that do not agree with
the operation trap THUNK_FORM. The model's own choice or reading, log entry 44, enters here. -/
def Obligations.SuspensionsMakeThunks : Prop :=
  ∀ (s : State) (h : Hdr) (d a b x : Fld) (fmt : BitVec 5) (lr lc : BitVec 3) (ts : List (Fld × Target)),
    dstOk .h d = true → dstOk .p b = true → s.ctx.resuming = false →
    let ag := Agent.core s.cur.core
    let region := match ts with
      | (_, t) :: _ => hRegion t.handle
      | [] => 0
    let shape := shapeWord lr lc fmt
    let made := fun (i : Instr) (size : Nat) (op code : Word) (args : List Word) =>
      ∀ w1 w4, s.regionWord ag region 1 = .ok w1 → s.regionWord ag region 4 = .ok w4 →
        (∀ s1 hd s2, rgUsed w4 + size ≤ rgQuota w1 →
          s.allocate s.cur.core region size (setField (hdrKindTo shape 1) 31 0 size) op
            (fun n => if n = 0 then code else if n ≤ 3 then args.getD (n - 1) 0 else 0) = .ok (s1, hd) →
          s1.modSusp ag region (· + size) = .ok s2 →
          ∃ u, exec i s = .next u ∧ OnlyContext s2 u ∧ ContextRest s.ctx u.ctx ∧ Passed s u h 8
            ∧ (keeps .h d = true → u.ctx.reg .h d.toNat = ofWord hd)
            ∧ (keeps .p b = true → u.ctx.reg .p b.toNat = 0xFFFF)
            ∧ ∀ k n, k ≠ .h → (k ≠ .p ∨ n ≠ b.toNat) → u.ctx.reg k n = s.ctx.reg k n)
        ∧ (rgQuota w1 < rgUsed w4 + size →
          ∃ u, exec i s = .next u ∧ OnlyContext s u ∧ u.ctx.pc = s.ctx.pc
            ∧ RegsKept s.ctx u.ctx ∧ u.ctx.chain = .strict { word0 := shape, op, code, args, region }
                :: .demand s.ctx.pc 0 false (s.ctx.healsOf ts) :: s.ctx.chain)
    (∀ op rnd sat, fmtOk fmt = true → runOk .h (suspNarg op) a = true →
      Enabled s h ((runFlds a (suspNarg op)).map hs ++ [gs x]) → s.targets (runFlds a (suspNarg op)) = .ok ts →
      let imm := field (s.ctx.srcG x) 31 0
      let formed := suspFormOk (suspCode op).1 imm (2 ^ lr.toNat) (2 ^ lc.toNat) (s.ctx.srcG x) fmt (ts.map (·.2.hdr))
      let rm : BitVec 2 := match rnd with | .rne => 0 | .rtz => 1 | .rdn => 2 | .rup => 3 | .dyn => s.ctx.rm
      (formed = true → made (.susp h op d a b x fmt rnd sat lr lc) (max 48 (valueSize shape))
        (opWord (suspCode op).1 (suspNarg op) rm sat s.ctx.inf imm) 0 (ts.map (·.2.handle)))
      ∧ (formed = false → TrapsWith (.susp h op d a b x fmt rnd sat lr lc) s { code := 0x08E }))
    ∧ (∀ n : BitVec 2, fmtOk fmt = true → runOk .h n.toNat x = true →
      Enabled s h (gs a :: (runFlds x (max 1 n.toNat)).map hs) → s.targets (runFlds x (max 1 n.toNat)) = .ok ts →
      (field (s.ctx.srcG a) 1 0 = 0 → made (.suspc h d a b x fmt n lr lc) 48
        (opWord 0x20 n.toNat 0 false s.ctx.inf (field (s.ctx.srcG a) 63 32)) (s.ctx.srcG a &&& 0xFFFFFFFC#64)
        ((ts.map (·.2.handle)).take n.toNat))
      ∧ (field (s.ctx.srcG a) 1 0 ≠ 0 → TrapsWith (.suspc h d a b x fmt n lr lc) s { code := 0x08E }))

/-! ### Messages -/

/-- R66, R67, R343 to R345, R351: a send whose checks hold offers its message, with the header its operands give; where
the destination accepts it the instruction completes, a form with a predicate saying so; where it does not, that form
completes with a predicate of zero and the others stay at their pc, stalled, and try again. A send to a peer puts its
message among the requests of the port, and its context waits for the answer; one that the peer has answered busy stalls
while its port is Quiesced. The first check that fails is the trap. R346 to R348: MSGLD and MSGVLD read the payload of
the activation's message; a misaligned offset, a byte that is not below LEN, and poisoned bits trap. RKTOP gives a
record of a ranked mailbox of the issuing kernel, and RKCLR empties it but for what arrives in its cycle; both trap on
any other entry, and RKTOP on a record with poisoned words. The model's own choices and readings, log entries 25 and 48,
enter here. -/
def Obligations.MessagesAreSentAndRead : Prop :=
  (∀ (s : State) (h : Hdr) (d a b : Fld) (cap : BitVec 5), dstOk .p d = true → Enabled s h [gs a, gs b] →
      let x := s.ctx.srcG a
      let y := s.ctx.srcG b
      let sends := fun (i : Instr) (len : Nat) (op : SendOp) =>
        let m := s.sentMsg op x y (s.readBytes (spadBase s.cur.core + field y 51 32) (field x 28 20))
        let payload := s.padRead s.cur.core (field y 51 32) (field x 28 20)
        let completes := fun (s' : State) => ∃ t, exec i s = .next t ∧ OnlyContext s' t ∧ t.ctx.effects = true
          ∧ t.ctx.fflags = s.ctx.fflags ∧ Passed s t h len
          ∧ ∀ k n, t.ctx.reg k n = if op.nb = true ∧ k = .p ∧ n = d.toNat ∧ keeps .p d then 0xFFFF else s.ctx.reg k n
        (∀ k, s.sendTrap op x y = some k → TrapsWith i s k)
        ∧ (s.sendTrap op x y = none → y.getLsbD 63 = false →
          (s.isRequest op x y = false →
            (∀ s' k, s.accept m = some s' → payload = .error (.trap k) → TrapsWith i s k)
            ∧ (∀ s' bytes, s.accept m = some s' → payload = .ok bytes → completes s')
            ∧ (s.accept m = none →
              (op.nb = true → Writes i s h len .p d 0)
              ∧ (op.nb = false → exec i s =
                  .next { s.setCtx { s.ctx with st := .ready, full := true } with issued := s.issued.erase s.cur })))
          ∧ (s.isRequest op x y = true → ∀ bytes, payload = .ok bytes →
            completes (s.nextCycle .mgmtRequest { evCtx s.cur with
              who := .part (match s.ctx.kernel.bind s.kernels.find? with | some k => k.part | none => 0) s.cur.core s.cur.ctx
              w0 := wordOfBytes (m.payload.take 8), w1 := wordOfBytes ((m.payload.drop 8).take 8) })))
        ∧ (s.sendTrap op x y = none → y.getLsbD 63 = true → ∀ port, s.podPort (field y 61 52) = some port →
          let p := s.port port
          (p.carries = true → ∀ k, payload = .error (.trap k) → TrapsWith i s k)
          ∧ (p.carries = true → ∀ bytes, payload = .ok bytes →
            ∃ t, exec i s = .next t ∧ OtherContexts s t ∧ t.mem = s.mem
              ∧ t.ctx = { s.ctx with stall := some (.link port p.nextReq { h, len, d, acc := 0, ans := .sent op.nb, eff := true }) }
              ∧ (t.port port).reqs = p.reqs ++
                  [{ id := p.nextReq, src := .ctx s.cur, op := .message m, since := s.clock
                     due := s.ctx.retry.getD (s.clock + p.tmoCycles)
                     addr := 0xC000000000000 + field y 61 52 * 2 ^ 40 + 0xFF00000000 + field y 12 0 * 512 }])
          ∧ (p.carries = false → (∀ t, s.ctx.retry = some t → s.clock < t) → exec i s =
              .next { s.setCtx { s.ctx with st := .ready, full := true } with issued := s.issued.erase s.cur }))
      sends (.send h a b) 4 { kind := 0, nb := false } ∧ sends (.sendnb h d a b) 4 { kind := 0, nb := true }
      ∧ sends (.sendRk h a b) 4 { kind := 1, nb := false } ∧ sends (.sendnbRk h d a b) 4 { kind := 1, nb := true }
      ∧ sends (.sendc h d a b cap) 8 { kind := 2, nb := true, cap := some cap.toNat }
      ∧ sends (.toksnd h d a b) 4 { kind := 0, nb := true, token := true })
  ∧ (∀ (s : State) (h : Hdr) (d a b : Fld) (imm : BitVec 6),
      let o := (s.ctx.srcG a).toNat + 4 * imm.toNat
      let word := fun (m : Slot) (at_ n : Nat) => natOfBytes ((List.range n).map fun i => m.msg.payload.getD (at_ + i) 0)
      (Enabled s h [gs a] → ∀ i, (i = .msgld h d a imm ∧ dstOk .g d = true) ∨ (i = .msgvld h d a imm ∧ dstOk .v d = true) →
        (o % 4 ≠ 0 → exec i s = .next (({ s with fresh := s.fresh + 1 } : State).trap
          { code := 0x04C, acc := 1, addr := Config.freeWord s.fresh }))
        ∧ (o % 4 = 0 → s.slotOf s.cur = none → TrapsWith i s { code := 0x0C3 }))
      ∧ (∀ m, s.slotOf s.cur = some m → o % 4 = 0 →
        (dstOk .g d = true → Enabled s h [gs a] →
          (o + 8 ≤ m.msg.len → (∀ i, i < 8 → (o + i) / 8 + 2 ∉ m.ecc) →
            Writes (.msgld h d a imm) s h 4 .g d (ofWord (BitVec.ofNat 64 (word m o 8))))
          ∧ (o + 8 ≤ m.msg.len → (∃ i, i < 8 ∧ (o + i) / 8 + 2 ∈ m.ecc) →
            exec (.msgld h d a imm) s = .next (({ s with fresh := s.fresh + 1 } : State).trap
              { code := 0x160, acc := 1, addr := Config.freeWord s.fresh }))
          ∧ (m.msg.len < o + 8 → TrapsWith (.msgld h d a imm) s { code := 0x0C3 }))
        ∧ (dstOk .v d = true → Enabled s h [gs a] →
          let act := fun (l : Nat) => (s.ctx.active h).getLsbD l = true
          ((∃ l, l < 16 ∧ act l ∧ m.msg.len < o + 4 * l + 4) → TrapsWith (.msgvld h d a imm) s { code := 0x0C3 })
          ∧ ((∀ l, l < 16 → act l → o + 4 * l + 4 ≤ m.msg.len) →
            ((∃ l, l < 16 ∧ act l ∧ (o + 4 * l) / 8 + 2 ∈ m.ecc) →
              exec (.msgvld h d a imm) s = .next (({ s with fresh := s.fresh + 1 } : State).trap
                { code := 0x160, acc := 1, addr := Config.freeWord s.fresh }))
            ∧ ((∀ l, l < 16 → act l → (o + 4 * l) / 8 + 2 ∉ m.ecc) →
              ∃ t, exec (.msgvld h d a imm) s = .next t ∧ OnlyContext s t ∧ ContextRest s.ctx t.ctx ∧ Passed s t h 4
                ∧ t.ctx.fflags = s.ctx.fflags ∧ (∀ k n, k ≠ .v ∨ n ≠ d.toNat → t.ctx.reg k n = s.ctx.reg k n)
                ∧ (d.toNat < 56 → ∀ l, l < 16 → lane (t.ctx.reg .v d.toNat) l =
                    if (s.ctx.active h).getLsbD l then BitVec.ofNat 32 (word m (o + 4 * l) 4)
                    else lane (s.ctx.reg .v d.toNat) l)))))
      ∧ (let n := field (s.ctx.srcG a) 5 0
        let e := s.me.tag n
        let own := e.v = true ∧ e.kind = 1 ∧ s.ctx.kernel = some e.kernel
        (dstOk .v d = true → Enabled s h [gs a, gs b] →
          (own → ((e.store[field (s.ctx.srcG b) 3 0]?).all fun r => r.ecc.isEmpty) = true →
            Writes (.rktop h d a b) s h 4 .v d (vecOf (rankLanes e (field (s.ctx.srcG b) 3 0))))
          ∧ (own → ((e.store[field (s.ctx.srcG b) 3 0]?).all fun r => r.ecc.isEmpty) = false →
            exec (.rktop h d a b) s = .next (({ s with fresh := s.fresh + 1 } : State).trap
              { code := 0x160, addr := Config.freeWord s.fresh }))
          ∧ (¬ own → TrapsWith (.rktop h d a b) s { code := 0x0D1 }))
        ∧ (Enabled s h [gs a] →
          (own → ∃ t, exec (.rkclr h a) s = .next t ∧ OnlyCore s t ∧ RegsKept s.ctx t.ctx ∧ Passed s t h 4
            ∧ ((∀ r ∈ e.recent, r.1 ≠ s.clock) →
                t.me.tag n = { e with store := [], count := 0, pend := false, fired := false, recent := [] })
            ∧ (∀ r, e.recent = [(s.clock, r)] → (t.me.tag n).count = 1)
            ∧ ∀ m, m ≠ n → t.me.tag m = s.me.tag m)
          ∧ (¬ own → TrapsWith (.rkclr h a) s { code := 0x0D1 }))))

/-- R175, R176, R349, R350: PMTCNT gives SHT.STAT; PMTRET returns a full slot to the other die of the pair, and traps where the slot
is not Full and where that die has stopped; PMTSND takes the lowest permit held and pushes a copy of the block into its slot, or
says in pb that it had none; a request that is not formed as it must be traps. R168 to R172, R353:
KVH.RING gives the point of a key and its home on the ring of the die, and traps where there is none; KVH.LOC gives the
entry that its probe finds and says in pb whether it found one. -/
def Obligations.ShuttlePermitsAndKeyHoming : Prop :=
  (∀ (s : State) (h : Hdr) (d a b : Fld),
      let dn := coreDie s.cur.core
      let die := s.die dn
      (dstOk .g d = true → Enabled s h [] → Writes (.pmtcnt h d) s h 4 .g d (ofWord die.shtStat))
      ∧ (Enabled s h [gs a] →
        let slot := field (s.ctx.srcG a) 2 0
        (die.shtFull.getLsbD slot = true → (s.die (pairDie dn)).stopped = true → TrapsWith (.pmtret h a) s { code := 0x163 })
        ∧ (die.shtFull.getLsbD slot = true → (s.die (pairDie dn)).stopped = false → ∃ t, exec (.pmtret h a) s = .next t ∧ OtherContexts s t ∧ RegsKept s.ctx t.ctx
          ∧ t.ctx.effects = true ∧ Passed s t h 4 ∧ t.mem = s.mem
          ∧ (∀ n, (t.die dn).shtFull.getLsbD n = (die.shtFull.getLsbD n && decide (n ≠ slot)))
          ∧ (∀ n, n < 8 → (t.die (pairDie dn)).shtHeld.getLsbD n = ((s.die (pairDie dn)).shtHeld.getLsbD n || decide (n = slot))))
        ∧ (die.shtFull.getLsbD slot = false → TrapsWith (.pmtret h a) s { code := 0x0CB }))
      ∧ (runOk .g 2 a = true → dstOk .g d = true → dstOk .p b = true → Enabled s h [gs a, gs (a + 1)] →
        let len := field (s.ctx.srcG (a + 1)) 31 0
        let formed := shtNslot die.shtOut ≠ 0 ∧ len ≠ 0 ∧ len % 64 = 0 ∧ len ≤ 2 ^ shtLsz die.shtOut
        (¬ formed → TrapsWith (.pmtsnd h d a b) s { code := 0x0CC })
        ∧ (∀ slot, formed → slot < 8 → die.shtHeld.getLsbD slot = true → (∀ n, n < slot → die.shtHeld.getLsbD n = false) →
          s.me.copies.length < 16 →
          ∃ t, exec (.pmtsnd h d a b) s = .next t ∧ OtherContexts s t ∧ t.ctx.effects = true ∧ Passed s t h 4 ∧ t.mem = s.mem
            ∧ (∀ n, (t.die dn).shtHeld.getLsbD n = (die.shtHeld.getLsbD n && decide (n ≠ slot)))
            ∧ ((t.die dn).shtInfl.find? slot).isSome = true
            ∧ (keeps .g d = true → t.ctx.reg .g d.toNat = ofWord (xferId s.cur.core (s.me.copySeq % 65535 + 1)))
            ∧ (keeps .p b = true → t.ctx.reg .p b.toNat = 0xFFFF)
            ∧ ∃ req, t.me.copies = s.me.copies ++ [req] ∧ req.kind = .shuttle slot ∧ req.words =
                [BitVec.ofNat 64 (ownAddr s.cur.core (field (s.ctx.srcG a) 51 0)),
                 BitVec.ofNat 64 (shtBase die.shtOut + slot * 2 ^ shtLsz die.shtOut), BitVec.ofNat 64 len])
        ∧ (formed → (∀ n, n < 8 → die.shtHeld.getLsbD n = false) ∨ 16 ≤ s.me.copies.length →
          ∃ t, exec (.pmtsnd h d a b) s = .next t ∧ OnlyContext s t ∧ ContextRest s.ctx t.ctx ∧ Passed s t h 4
            ∧ ∀ k n, t.ctx.reg k n = if k = .p ∧ n = b.toNat ∧ keeps .p b then 0 else s.ctx.reg k n)))
  ∧ (∀ (s : State) (h : Hdr) (d a b : Fld), dstOk .g d = true → Enabled s h [gs a] →
      let die := s.die (coreDie s.cur.core)
      let key := s.ctx.srcG a
      let p := field (kvMix key) 63 32
      let ht := s.me.htbase
      (die.ringLoad = none → die.ring ≠ [] → ∀ home, home ∈ die.ring.map (·.2) →
        ((∃ pre e post, die.ring = pre ++ e :: post ∧ e.2 = home ∧ p ≤ e.1.toNat ∧ ∀ x ∈ pre, x.1.toNat < p)
          ∨ ((∀ x ∈ die.ring, x.1.toNat < p) ∧ (die.ring.head?.map (·.2)) = some home)) →
        Writes (.kvhRing h d a) s h 4 .g d (ofWord (BitVec.ofNat 64 p <<< 32 ||| BitVec.ofNat 64 home)))
      ∧ (die.ringLoad = none → die.ring = [] → TrapsWith (.kvhRing h d a) s { code := 0x0C9 })
      ∧ (dstOk .p b = true → ht.getLsbD 0 = true → isM (coreDie s.cur.core) = true →
        ∀ r, s.kvProbe s.cur.core (field ht 19 6 * 64) key 16 (field (kvMix key) 8 0) = .ok r →
        ∃ t, exec (.kvhLoc h d a b) s = .next t ∧ OnlyContext s t ∧ ContextRest s.ctx t.ctx ∧ t.ctx.fflags = s.ctx.fflags
          ∧ Passed s t h 4
          ∧ ∀ k n, t.ctx.reg k n = if k = .p ∧ n = b.toNat ∧ keeps .p b then ofMask (if r.isSome then 0xFFFF else 0)
              else if k = .g ∧ n = d.toNat ∧ keeps .g d then ofWord (r.getD 0) else s.ctx.reg k n)
      ∧ (ht.getLsbD 0 = false ∨ isM (coreDie s.cur.core) = false → TrapsWith (.kvhLoc h d a b) s { code := 0x0CA }))

/-- R181 to R183, R352: ADMIT and REFUSE answer the token of their activation: without a descriptor 4; too early 3; full
2; where the token has a place, ADMIT copies its row, marks the admit table, counts it and answers 0 once its reply is
accepted, and REFUSE answers 2; a reply to a core of another die that has stopped traps THERMAL_TRIP (R226). R87, R354:
DONE gives the contribution of its core to the completion tree once in an epoch, and traps where it has given it, where
the kernel completes already, and where the core has no record. The model's own choice or reading, log entry 23, enters
here. -/
def Obligations.AdmissionAndDone : Prop :=
  (∀ (s : State) (h : Hdr) (d a b : Fld) (m : Msg) (t : Word), dstOk .g d = true → dstOk .p b = true →
      s.ownToken = .ok (m, t) →
      let core := s.cur.core
      let refusal := fun (tag : Nat) => s.tokenReplyTo tag m t 2 (field (s.ctx.srcG a) 7 0)
      let gone := s.coreMapped m.src = true ∧ (s.die (coreDie m.src)).stopped = true ∧ coreDie m.src ≠ coreDie core
      let answers := fun (i : Instr) (s' : State) (code : Nat) (p eff : Bool) =>
        ∃ u, exec i s = .next u ∧ OnlyContext s' u ∧ u.ctx.effects = (s.ctx.effects || eff) ∧ Passed s u h 4
          ∧ ∀ k n, u.ctx.reg k n = if k = .p ∧ n = b.toNat ∧ keeps .p b then ofMask (if p then 0xFFFF else 0)
              else if k = .g ∧ n = d.toNat ∧ keeps .g d then ofWord (BitVec.ofNat 64 code) else s'.ctx.reg k n
      (Enabled s h [] → (∀ k, s.tokenPoison core t = some k → TrapsWith (.admitTok h d b) s k) ∧ (s.tokenPoison core t = none →
        (s.findExpert core (tokExpert t) = none → answers (.admitTok h d b) s 4 false false)
        ∧ ∀ e, s.findExpert core (tokExpert t) = some e → expertOk core e = true →
          (s.probeToken core e t = .early → answers (.admitTok h d b) s 3 false false)
          ∧ (∀ s', s.probeToken core e t = .duplicate → ¬ gone → s.replyTo (s.tokenReply e m t 1 0) = some s' →
              answers (.admitTok h d b) s' 1 true true)
          ∧ (s.probeToken core e t = .duplicate → gone → TrapsWith (.admitTok h d b) s { code := 0x163 })
          ∧ (s.probeToken core e t = .place none → answers (.admitTok h d b) s 2 false false)
          ∧ ∀ i, s.probeToken core e t = .place (some i) →
            (e.count = e.cap → answers (.admitTok h d b) s 2 false false)
            ∧ (let row := e.buf + 256 * e.count
              let s1 := s.writeBytes (spadBase core + row) ((List.range 256).map fun k => m.payload.getD k 0)
              let s2 := s1.writeWord (spadBase core + e.table + 8 * (i % 2 ^ e.lsz))
                (bitAt 63 true ||| at_ 55 (tokLayer t) ||| at_ 51 (tokRank t) ||| at_ 32 e.count ||| at_ 0 (tokToken t))
              let s3 := s2.writeWord (spadBase core + e.off) (setField e.w0 15 0 (e.count + 1))
              ∀ s', e.count ≠ e.cap → row + 256 ≤ spadBytes (coreDie core) →
                (∀ k, k < m.payload.length → s.payloadPoisoned k = false) →
                (¬ gone → s3.replyTo (s.tokenReply e m t 0 0) = some s' → answers (.admitTok h d b) s' 0 true true)
                ∧ (gone → TrapsWith (.admitTok h d b) s { code := 0x163 }))))
      ∧ (Enabled s h [gs a] → (∀ k, s.tokenPoison core t = some k → TrapsWith (.refuse h d a b) s k) ∧ (s.tokenPoison core t = none →
        (∀ s', s.findExpert core (tokExpert t) = none → ¬ gone →
          ({ s with fresh := s.fresh + 1 } : State).replyTo (refusal ((Config.freeWord s.fresh).toNat % 4096)) = some s' →
          answers (.refuse h d a b) s' 2 false true)
        ∧ ∀ e, s.findExpert core (tokExpert t) = some e → expertOk core e = true →
          (gone → TrapsWith (.refuse h d a b) s { code := 0x163 })
          ∧ ∀ s', ¬ gone →
            (s.probeToken core e t ≠ .duplicate → s.replyTo (refusal e.rtag) = some s' → answers (.refuse h d a b) s' 2 false true)
            ∧ (s.probeToken core e t = .duplicate → s.replyTo (s.tokenReply e m t 1 0) = some s' →
              answers (.refuse h d a b) s' 1 true true))))
  ∧ (∀ (s : State) (h : Hdr) (final : Bool) (a : Fld) (kid i : Nat) (k : Kernel), Enabled s h [gs a] →
      s.ctx.kernel = some kid → s.kernels.find? kid = some k → k.recOf s.cur.core = some i →
      let own := (k.tree.get {} i).own
      let x : Contrib :=
        { word := (s.ctx.srcG a).truncate 32, count := 1, first := s.clock, firstCore := s.cur.core, last := s.clock
          lastCore := s.cur.core, final := final && k.pers }
      let k' := { k with tree := k.tree.put i { k.tree.get {} i with own := some x } }
      (k.state ≠ .completing → k.state ≠ .preempted → own = none →
        ∃ t, exec (.done h final a) s = .next t ∧ OtherContexts s t ∧ RegsKept s.ctx t.ctx ∧ t.ctx.effects = true
          ∧ Passed s t h 4 ∧ t.mem = s.mem ∧ (k'.nodeOut i = none → t.kernels.find? kid = some k')
          ∧ ∀ n, n ≠ kid → t.kernels.find? n = s.kernels.find? n)
      ∧ (k.state = .completing ∨ k.state = .preempted ∨ own ≠ none → TrapsWith (.done h final a) s { code := 0x0C6 }))

/-! ### Barriers -/

/-- R95 to R99, R356: BARINIT arms a named barrier; BARARV counts an arrival, marks its context and gives the generation it
arrives in, the last arrival advancing the generation and waking every waiter; BARWAIT and BARARVW wait while the generation
is the one they hold, and BARTRY says whether it has passed. Only the kernel that armed a barrier may use it. R100, R357:
GBARV arrives for its core at a level and gives the generation it arrives in, once in a generation; GBWAIT waits for the
next one and GBTRY asks for it. The arrivals of a group meet at its first core; the last one releases every member, whose
generation then advances and whose waiters wake, once the kernel is not Preempted (log entry 50). R60: a wake goes to a waiter
that is being saved or is saved, too. -/
def Obligations.Barriers : Prop :=
  (∀ (s : State) (h : Hdr) (d a : Fld) (n : BitVec 6),
      let b := s.me.bar n.toNat
      let count := (s.ctx.srcG a).toNat
      let tok : BitVec 16 := (s.ctx.srcG a).truncate 16
      let last := b.arr + 1 = b.expect
      let arrived : Bar :=
        if last then { b with gen := b.gen + 1, arr := 0, amask := 0, state := bRELEASED }
        else { b with arr := b.arr + 1, amask := b.amask ||| BitVec.ofNat 8 (2 ^ s.cur.ctx), state := bARRIVING }
      let bar := fun (t : State) (b' : Bar) => OnlyCore (timeless s t) t
        ∧ t.me = { s.me with bars := t.me.bars, ctxs := t.me.ctxs }
        ∧ t.me.bar n.toNat = b' ∧ ∀ m, m ≠ n.toNat → t.me.bar m = s.me.bar m
      let wakes := fun (t : State) => last → ∀ (j : Nat) (w : Wait) (x : BitVec 16), j < 8 →
        let c := s.ctxAt { core := s.cur.core, ctx := j }
        c.st = .waiting ∨ c.st = .saving ∨ c.st = .saved → c.wait = some w → w.kind = .barrier n.toNat x →
        Queued t .wake { unit := s.cur.core, sub := j, num := w.since + 1 }
      (Enabled s h [gs a] →
        (0 < count → count ≤ 65535 → b.state ≠ bARRIVING → b.state = bIDLE ∨ b.kernel = s.ctx.kernel →
          ∃ t, exec (.barinit h a n) s = .next t ∧ t.agenda = s.agenda ∧ Gave s t.ctx h 4 []
            ∧ bar t { b with expect := BitVec.ofNat 16 count, arr := 0, amask := 0, state := bARMED, kernel := s.ctx.kernel })
        ∧ (count = 0 ∨ 65535 < count ∨ b.state = bARRIVING ∨ (b.state ≠ bIDLE ∧ b.kernel ≠ s.ctx.kernel) →
          TrapsWith (.barinit h a n) s { code := 0x0C7 }))
      ∧ (b.state ≠ bIDLE → b.state ≠ bFAULTED → b.kernel = s.ctx.kernel →
        (dstOk .g d = true → Enabled s h [] →
          ∃ t, exec (.bararv h d n) s = .next t ∧ Gave s t.ctx h 4 [(.g, d, ofWord (b.gen.zeroExtend 64))] ∧ bar t arrived
            ∧ wakes t)
        ∧ (Enabled s h [] → ∃ t, exec (.bararvw h n) s = .next t ∧ bar t arrived ∧ wakes t
            ∧ (last → Gave s t.ctx h 4 []) ∧ (¬ last → t.ctx = waitingOn s h (.barrier n.toNat b.gen)))
        ∧ (Enabled s h [gs a] →
          (b.gen ≠ tok → Idles (.barwait h a n) s h 4)
          ∧ (b.gen = tok → exec (.barwait h a n) s = .next (s.setCtx (waitingOn s h (.barrier n.toNat tok))))
          ∧ (dstOk .p d = true → Writes (.bartry h d a n) s h 4 .p d (ofMask (if b.gen ≠ tok then 0xFFFF else 0)))))
      ∧ (Enabled s h [gs a] → ∀ i ∈ [Instr.bararv h d n, .barwait h a n, .bartry h d a n, .bararvw h n],
        (b.state = bIDLE ∨ b.kernel ≠ s.ctx.kernel → TrapsWith i s { code := 0x0C7 })
        ∧ (b.state = bFAULTED → b.kernel = s.ctx.kernel → TrapsWith i s { code := 0x0C8 })))
  ∧ ((∀ (s : State) (h : Hdr) (lvl : GbLevel) (d a : Fld) (n : BitVec 2) (kid : Nat) (k : Kernel),
        s.ctx.kernel = some kid → s.kernels.find? kid = some k →
        let b : KBar := k.bars.get {} n.toNat
        let v := s.gbarAt s.cur.core kid n.toNat
        let there := s.gbarLvl kid k s.cur.core n.toNat
        let tok : BitVec 16 := (s.ctx.srcG a).truncate 16
        (b.fault = false →
          (dstOk .g d = true → Enabled s h [] → v.arv = false → there = 0 ∨ there = GbLevel.num lvl →
            ∃ t, exec (.gbarv h lvl d n) s = .next t ∧ Gave s t.ctx h 4 [(.g, d, ofWord (v.gen.zeroExtend 64))]
              ∧ OnlyCore (timeless s t) t
              ∧ t.me = { s.me with views := t.me.views, ctxs := t.me.ctxs }
              ∧ (∃ o, (∀ r ∈ k.cores, (s.gbarAt r.core kid n.toNat).order < o)
                ∧ t.gbarAt s.cur.core kid n.toNat = { v with arv := true, lvl := GbLevel.num lvl, order := o })
              ∧ Queued t .kernelBarrierCombine { unit := kid, sub := n.toNat, num := s.cur.core })
          ∧ (Enabled s h [] → v.arv = true ∨ (there ≠ 0 ∧ there ≠ GbLevel.num lvl) →
            TrapsWith (.gbarv h lvl d n) s { code := 0x0C7 })
          ∧ (Enabled s h [gs a] →
            (v.gen ≠ tok → Idles (.gbwait h a n) s h 4)
            ∧ (v.gen = tok → exec (.gbwait h a n) s = .next (s.setCtx (waitingOn s h (.kbarrier n.toNat tok))))
            ∧ (dstOk .p d = true → Writes (.gbtry h d a n) s h 4 .p d (ofMask (if v.gen ≠ tok then 0xFFFF else 0)))))
        ∧ (b.fault = true → Enabled s h [gs a] → ∀ i ∈ [Instr.gbarv h lvl d n, .gbwait h a n, .gbtry h d a n],
            TrapsWith i s { code := 0x0C8 }))
    ∧ (∀ (s : State) (k : Kernel),
        let kid := s.ev.unit
        let n := s.ev.sub
        let core := s.ev.num
        let b : KBar := k.bars.get {} n
        s.kernels.find? kid = some k →
        (let lvl := (s.gbarAt core kid n).lvl
         let mem := k.members lvl core
         let key := 4 * mem.headD core + lvl
         let got := core :: b.arrived.get [] key
         let noted := fun (b' : KBar) => s.kernels.put kid { k with bars := k.bars.put n b' }
         (got.length < mem.length →
            exec .kernelBarrierCombine s = .next { s with kernels := noted { b with arrived := b.arrived.put key got } })
         ∧ (mem.length ≤ got.length → ∃ t, exec .kernelBarrierCombine s = .next t
            ∧ t = { timeless s t with cores := t.cores, kernels := noted { b with arrived := b.arrived.erase key } }
            ∧ (∀ c, t.core c = { s.core c with views := (t.core c).views })
            ∧ ∀ c, t.gbarAt c kid n = { s.gbarAt c kid n with due := (s.gbarAt c kid n).due || mem.contains c }
                ∧ (c ∈ mem → Queued t .kernelBarrierRelease { unit := kid, sub := n, num := c })))
        ∧ (b.fault = true → exec .kernelBarrierRelease s = .next s)
        ∧ (b.fault = false → k.state = .preempted →
          exec .kernelBarrierRelease s = .next (s.nextCycle .kernelBarrierRelease s.ev))
        ∧ (b.fault = false → k.state ≠ .preempted →
          let v := s.gbarAt core kid n
          ∃ t, exec .kernelBarrierRelease s = .next t ∧ OnlyCoreAt (timeless s t) t core
            ∧ t.core core = { s.core core with views := (t.core core).views }
            ∧ t.gbarAt core kid n = { gen := v.gen + 1, arv := false, lvl := 0, due := false, state := bRELEASED }
            ∧ ∀ (j : Nat) (w : Wait) (x : BitVec 16), j < 8 →
                let c := s.ctxAt { core, ctx := j }
                c.st = .waiting ∨ c.st = .saving ∨ c.st = .saved → c.kernel = some kid → c.wait = some w →
                w.kind = .kbarrier n x → Queued t .wake { unit := core, sub := j, num := w.since + 1 })))

/-- R79, R80, R101: a context that has waited 4,096 cycles sends a probe along each of its wait-for edges; a probe goes on
along the edges of the context it reaches, keeping the highest context it has met, and is discarded beyond 256 edges; one that comes back
to its sender names that context as the victim; and a victim that still waits for a kernel-scope or named barrier leaves it Faulted
and traps WAIT_CYCLE, or EVAL_CYCLE where a FORCE lies on the ring, and every other waiter of the barrier traps BARRIER_FAULTED. -/
def Obligations.WaitChainProbes : Prop :=
  (∀ (s : State) (f : Bool) (js : List CtxId) (w : Wait), s.edges s.evId = some (f, js) →
      (s.ctxAt s.evId).wait = some w →
      ∃ t, exec .probeSend s = .next t ∧ t = timeless s t
        ∧ (4096 ≤ s.clock - w.since → ∀ j ∈ js, Queued t .probeForward { probe :=
            { src := s.evId, srcSince := w.since + 1, at_ := j, atSince := s.waitMark j, high := s.evId, hops := 1, force := f } })
        ∧ (s.clock - w.since < 4096 → t = s))
  ∧ (∀ (s : State) (f : Bool) (js : List CtxId),
      let p := s.ev.probe
      s.edges p.at_ = some (f, js) → s.waitMark p.at_ = p.atSince →
      ∃ t, exec .probeForward s = .next t ∧ t = timeless s t
        ∧ (256 < p.hops → t = s)
        ∧ (p.at_ = p.src → s.waitMark p.at_ = p.srcSince → p.hops ≤ 256 →
            Queued t .victimNotice { evCtx p.high with num := s.waitMark p.high, flag := p.force })
        ∧ (p.at_ ≠ p.src → p.hops ≤ 256 → ∀ j ∈ js, Queued t .probeForward { probe :=
            { p with high := higherCtx p.high p.at_, at_ := j, atSince := s.waitMark j, hops := p.hops + 1
                     force := p.force || f } }))
  ∧ (∀ (s : State) (w : Wait) (n : Nat) (x : BitVec 16),
      let i := s.evId
      let c := s.ctxAt i
      c.st = .waiting → c.wait = some w → w.kind = .barrier n x → s.ev.num = w.since + 1 →
      ∃ t, exec .victimNotice s = .next t ∧ t.mem = s.mem ∧ ((t.core i.core).bar n).state = bFAULTED
        ∧ t.ctxAt i = c.trapped c.pc { code := if s.ev.flag then 0x08C else 0x0C5, objk := 2, obj := BitVec.ofNat 64 n, async := true }
        ∧ ∀ j w' x', j < 8 → j ≠ i.ctx →
            let c' := s.ctxAt { core := i.core, ctx := j }
            c'.st = .waiting → c'.wait = some w' → w'.kind = .barrier n x' →
            t.ctxAt { core := i.core, ctx := j } =
              c'.trapped c'.pc { code := 0x0C8, objk := 2, obj := BitVec.ofNat 64 n })
  ∧ (∀ (s : State) (w : Wait) (n kid : Nat) (x : BitVec 16) (k : Kernel),
      let i := s.evId
      let c := s.ctxAt i
      c.st = .waiting → c.wait = some w → w.kind = .kbarrier n x → s.ev.num = w.since + 1 →
      c.kernel = some kid → s.kernels.find? kid = some k →
      ∃ t, exec .victimNotice s = .next t ∧ t.mem = s.mem
        ∧ t.kernels = s.kernels.put kid { k with bars := k.bars.put n { k.bars.get {} n with fault := true } }
        ∧ t.ctxAt i = c.trapped c.pc { code := if s.ev.flag then 0x08C else 0x0C5, objk := 3, obj := BitVec.ofNat 64 n, async := true }
        ∧ ∀ j w' x', j.ctx < 8 → j ≠ i → (∃ r ∈ k.cores, r.core = j.core) →
            let c' := s.ctxAt j
            c'.st = .waiting → c'.kernel = some kid → c'.wait = some w' → w'.kind = .kbarrier n x' →
            t.ctxAt j = c'.trapped c'.pc { code := 0x0C8, objk := 3, obj := BitVec.ofNat 64 n })

/-! ### Engines and copies -/

/-- R362, R363, R366: MRSET sets a ring of the issuing core and MRPUSH counts one more tile in a ring of its engine, or
says that it is full; where that is the tile that a running job lacks, the job may go on, its wait for a tile begun
anew. MRHEAD reads a ring's counts. A descriptor that does not fit traps ENGINE_FORM; a ring that a queued job names,
and one that is not set, RING_STATE. R364, R365, R367: MJOB and MJOBNB put a job into the queue of the issuing core's
engine, MACLD and MACST a transfer of its accumulator, and give its id, which the context holds; without room MJOB tries
again and the others give zero. MCMD sends a job to another engine, in one attempt, and traps where a core, a rule of
the job, a capability or the target's die forbids it. MPOLL and MWAIT give the status of a held job that is done and
release its id; until then MPOLL gives zero and MWAIT waits. The model's own choice or reading, log entry 31, enters
here. -/
def Obligations.MatrixRingsAndJobs : Prop :=
  (∀ (s : State) (h : Hdr) (r : BitVec 2) (imm : BitVec 32) (d a : Fld),
      let n := coreEngine s.cur.core
      let e := s.engine n
      let changed := fun (t : State) (i : Nat) (x : Ring) =>
        t = ((timeless s t).setEngine n (t.engine n)).setCtx t.ctx
        ∧ t.engine n = { e with rings := (t.engine n).rings, queue := (t.engine n).queue }
        ∧ (t.engine n).ring i = x ∧ ∀ m, m ≠ i → (t.engine n).ring m = e.ring m
      (let own := 4 * (s.cur.core % 8) + r.toNat
       let x : Ring := { desc := imm }
       let w : Word := imm.zeroExtend 64
       let formed := field w 23 20 = 0 ∧ field w 5 1 = 0 ∧ x.off + x.tiles * x.tileBytes ≤ spadBytes (coreDie s.cur.core)
       Enabled s h [] →
        (formed → (∀ c ∈ e.queue, c.names own = false) →
          ∃ t, exec (.mrset h r imm) s = .next t ∧ Gave s t.ctx h 8 [] ∧ t.agenda = s.agenda
            ∧ (t.engine n).queue = e.queue ∧ changed t own x)
        ∧ (¬ formed → TrapsWith (.mrset h r imm) s { code := 0x101 })
        ∧ (formed → (∃ c ∈ e.queue, c.names own = true) → TrapsWith (.mrset h r imm) s { code := 0x102 }))
      ∧ (let i := field (s.ctx.srcG a) 4 0
         let x := e.ring i
         Enabled s h [gs a] →
        (x.v = true → x.count ≠ x.tiles → dstOk .p d = true →
          ∃ t, exec (.mrpush h d a) s = .next t ∧ t.ctx.effects = true
            ∧ Gave s { t.ctx with effects := s.ctx.effects } h 4 [(.p, d, ofMask 0xFFFF)]
            ∧ changed t i { x with tail := (x.tail + 1) % x.tiles, count := x.count + 1 }
            ∧ match e.queue with
              | [] => t.agenda = s.agenda ∧ (t.engine n).queue = []
              | c :: l =>
                if c.started = true ∧ c.kind = .job ∧ e.pairs (c.w 0) < (t.engine n).pairs (c.w 0) then
                  (t.engine n).queue = { c with since := s.clock } :: l ∧ Queued t .matrixJobDone { unit := n }
                    ∧ { at_ := s.clock + 2 ^ 20, row := .ringTileTimeout, ev := { unit := n } } ∈ t.agenda
                else t.agenda = s.agenda ∧ (t.engine n).queue = e.queue)
        ∧ (x.v = true → x.count = x.tiles → dstOk .p d = true → Writes (.mrpush h d a) s h 4 .p d 0)
        ∧ (x.v = true → dstOk .g d = true → Writes (.mrhead h d a) s h 4 .g d
            (ofWord (at_ 24 x.tiles ||| at_ 16 x.count ||| at_ 8 x.tail ||| at_ 0 x.head)))
        ∧ (x.v = false → TrapsWith (.mrpush h d a) s { code := 0x102 } ∧ TrapsWith (.mrhead h d a) s { code := 0x102 })))
  ∧ (∀ (s : State) (h : Hdr) (d a b : Fld) (cap : BitVec 5), dstOk .g d = true → dstOk .p b = true →
      let n := coreEngine s.cur.core
      let e := s.engine n
      let w := s.ctx.quad a
      let id := e.lastId % 65535 + 1
      let cmd := fun (kind : EngKind) (words : List Word) => EngCmd.mk kind words 0 id s.cur s.ctx.inf false false s.clock 0 0
      let queued := fun (i : Instr) (c : EngCmd) (jobs : List Nat) (l : List (Cls × Fld × Vec)) =>
        ∃ t, exec i s = .next t ∧ t = (s.setEngine n { e with queue := e.queue ++ [c], lastId := id }).setCtx t.ctx
          ∧ t.ctx.jobs = jobs ∧ Gave s { t.ctx with jobs := s.ctx.jobs } h 4 l
      let gives := fun (i : Instr) (len : Nat) (l : List (Cls × Fld × Vec)) =>
        ∃ t, exec i s = .next t ∧ OnlyContext s t ∧ Gave s t.ctx h len l
      let given := ofWord (BitVec.ofNat 64 id)
      (Enabled s h (quadFlds a) → jobTrap n e w = none →
        let jobs := if jobEvt (w.getD 1 0) then s.ctx.jobs else s.ctx.jobs ++ [id]
        let job := cmd .job (jobReplaced s.cur.core w)
        (s.engineRoom = decide ((s.engine n).queue.length + s.mcmdsTo n < 32 ∧ s.ctx.jobs.length < 8))
        ∧ (s.engineRoom = true →
          (s.isHandler s.cur = false → queued (.mjob h d a) job jobs [(.g, d, given)])
          ∧ queued (.mjobnb h d a b) job jobs [(.g, d, given), (.p, b, ofMask 0xFFFF)])
        ∧ (s.engineRoom = false →
          (s.isHandler s.cur = false →
            exec (.mjob h d a) s =
              .next { s.setCtx { s.ctx with st := .ready, full := true } with issued := s.issued.erase s.cur })
          ∧ gives (.mjobnb h d a b) 4 [(.g, d, 0), (.p, b, 0)]))
      ∧ (Enabled s h (quadFlds a) →
        (s.isHandler s.cur = true → TrapsWith (.mjob h d a) s { code := 0x0C1 })
        ∧ (jobWordsOk (accDim n) w = false ∨ jobTilesOk e (w.getD 0 0) = false →
          TrapsWith (.mjobnb h d a b) s { code := 0x101 })
        ∧ (jobWordsOk (accDim n) w = true → jobTilesOk e (w.getD 0 0) = true →
          (e.ring (jobRA (w.getD 0 0))).v = false ∨ (e.ring (jobRB (w.getD 0 0))).v = false →
          TrapsWith (.mjobnb h d a b) s { code := 0x102 }))
      ∧ (Enabled s h [gs a, gs b] →
        let va := s.ctx.srcG a
        let dims := s.ctx.srcG b
        ∀ x ∈ [(Instr.macld h d a b, EngKind.accLoad), (.macst h d a b, .accStore)],
          (va.toNat % 4 ≠ 0 → exec x.1 s = .next (s.trap { code := 0x04C, acc := 8, addr := va }))
          ∧ (va.toNat % 4 = 0 → accDim n ≤ field dims 15 8 ∨ accDim n ≤ field dims 7 0 → TrapsWith x.1 s { code := 0x101 })
          ∧ (va.toNat % 4 = 0 → field dims 15 8 < accDim n → field dims 7 0 < accDim n →
            (s.engineRoom = true → queued x.1 (cmd x.2 [BitVec.ofNat 64 (ownAddr s.cur.core va.toNat), dims])
              (s.ctx.jobs ++ [id]) [(.g, d, given)])
            ∧ (s.engineRoom = false → Writes x.1 s h 4 .g d 0)))
      ∧ (Enabled s h (quadFlds a ++ [gs b]) →
        let core := field (s.ctx.srcG b) 12 0
        let to_ := coreEngine core
        let capw := s.me.caps.get 0 cap.toNat
        let event := jobEvt (w.getD 1 0) = true
        ∀ p : Fld, dstOk .p p = true →
          (coreExists core = false → TrapsWith (.mcmd h p a b cap) s { code := 0x0C2 })
          ∧ (coreExists core = true → ¬ event → TrapsWith (.mcmd h p a b cap) s { code := 0x101 })
          ∧ (coreExists core = true → event → capw = 0 → TrapsWith (.mcmd h p a b cap) s { code := 0x0D0 })
          ∧ (coreExists core = true → event → capw ≠ 0 → s.answersNot (to_ / 128) = true →
            TrapsWith (.mcmd h p a b cap) s { code := 0x163 })
          ∧ (∀ code, coreExists core = true → event → capw ≠ 0 → s.answersNot (to_ / 128) = false →
            jobTrap to_ (s.engine to_) w = some code → TrapsWith (.mcmd h p a b cap) s { code })
          ∧ (coreExists core = true → event → capw ≠ 0 → s.answersNot (to_ / 128) = false → jobTrap to_ (s.engine to_) w = none →
            ((s.engine to_).queue.length + s.mcmdsTo to_ < 32 →
              ∃ t, exec (.mcmd h p a b cap) s = .next t ∧ OnlyContext (timeless s t) t
                ∧ Gave s t.ctx h 8 [(.p, p, ofMask 0xFFFF)]
                ∧ Queued t .mcmdArrival { unit := to_, mcmd := { words := jobReplaced s.cur.core w, cmd := s.ctx.srcG b
                                                                 cap := capw, src := s.cur, inf := s.ctx.inf } })
            ∧ (32 ≤ (s.engine to_).queue.length + s.mcmdsTo to_ → Writes (.mcmd h p a b cap) s h 8 .p p 0)))
      ∧ (Enabled s h [gs a] →
        let k := field (s.ctx.srcG a) 15 0
        (s.ctx.jobs.contains k = true →
          (∀ x, e.done.find? k = some x →
            ∀ i ∈ [(Instr.mpoll h d a b, [(Cls.g, d, ofWord x), (.p, b, ofMask 0xFFFF)]), (.mwait h d a, [(.g, d, ofWord x)])],
              ∃ t, exec i.1 s = .next t ∧ t = (s.setEngine n { e with done := e.done.erase k }).setCtx t.ctx
                ∧ t.ctx.jobs = s.ctx.jobs.filter (· != k) ∧ Gave s { t.ctx with jobs := s.ctx.jobs } h 4 i.2)
          ∧ (e.done.find? k = none → gives (.mpoll h d a b) 4 [(.g, d, 0), (.p, b, 0)]
              ∧ exec (.mwait h d a) s = .next (s.setCtx (waitingOn s h (.job k d)))))
        ∧ (s.ctx.jobs.contains k = false →
          TrapsWith (.mpoll h d a b) s { code := 0x103 } ∧ TrapsWith (.mwait h d a) s { code := 0x103 })))

/-- R125, R365, R366: the head of an engine's queue starts, with a gust token of its die where it has a MAC phase; a job
whose tiles are all there, free of poison, accumulates them, writes the block that it is asked for, pops them from its
rings and leaves the queue with a status; one that has waited 2^20 cycles for a tile ends with RING_STATE over the whole
groups that are there; a job that arrives by MCMD is queued, waits for room, or is discarded with its cause as its
event's status, ENGINE_CAPABILITY the first; a product for a thunk ends its evaluation. The model's own choices and
readings, log entries 4, 31, 32 and 46, enter here. -/
def Obligations.MatrixJobsRun : Prop :=
  ∀ (s : State),
    let n := s.ev.unit
    let e := s.engine n
    let dn := n / 128
    (∀ c l, e.queue = c :: l → c.started = false → c.kind.macs = false ∨ (s.die dn).tokHeld < s.tokensOf dn →
      ∃ t, exec .matrixJobStart s = .next t ∧ t.mem = s.mem ∧ t.cores = s.cores
        ∧ t.engine n = { e with queue := { c with started := true, since := s.clock } :: l, gust := c.kind.macs }
        ∧ t.die dn = { s.die dn with tokHeld := (s.die dn).tokHeld + if c.kind.macs then 1 else 0 }
        ∧ (c.kind = .matmul → Queued t .matmulEvalDone (evCtx c.src))
        ∧ (c.kind ≠ .matmul → Queued t .matrixJobDone { unit := n }))
    ∧ (∀ c l, e.queue = c :: l → c.started = true → c.kind = .job →
      let w0 := c.w 0
      let nk := e.pairs w0
      let kt := ktOf (e.ring (jobRA w0)) (jobM w0) (fmtBytes (jobFmtA w0))
      let rows := jobM w0 ≤ accDim n ∧ jobN w0 ≤ accDim n
      let ended := fun (row : Instr) (groups cause : Nat) =>
        let status := doneStatus cause (s.accumulated n c nk groups).2
        ∃ t, exec row s = .next t ∧ t.mem = s.mem ∧ t.cores = s.cores
          ∧ (t.engine n).queue = l ∧ (t.engine n).rings = (e.popJob w0 nk).rings ∧ (t.engine n).gust = false
          ∧ (∀ i j, i < jobM w0 → j < jobN w0 →
              (t.engine n).acc.get 0 (i * accDim n + j) = (s.jobElem n c nk groups i j).1)
          ∧ (t.die dn).tokHeld = (s.die dn).tokHeld - (if e.gust then 1 else 0)
          ∧ (jobEvt (c.w 1) = true →
              Sent t (eventMsg (field (c.w 1) 43 32) (field (c.w 1) 12 0) c.src c.inf c.id status false))
          ∧ (jobEvt (c.w 1) = false → (s.ctxAt c.src).jobs.contains c.id = true →
              (t.engine n).done.find? c.id = some status)
      rows →
        (nk = jobNk w0 → jobOut w0 = false → s.ringPoison n (jobRA w0) (e.ring (jobRA w0)) nk = false →
          s.ringPoison n (jobRB w0) (e.ring (jobRB w0)) nk = false → ended .matrixJobDone ((nk * kt + 31) / 32) 0)
        ∧ (nk = jobNk w0 → jobOut w0 = true → s.ringPoison n (jobRA w0) (e.ring (jobRA w0)) nk = false →
          s.ringPoison n (jobRB w0) (e.ring (jobRB w0)) nk = false →
          let groups := (nk * kt + 31) / 32
          let r := s.accumulated n c nk groups
          let ofmt : BitVec 5 := (c.w 2).extractLsb' 59 5
          let codes := (blockElems (jobM w0) (jobN w0)).map fun (m, j) =>
            encodeElem ofmt c.inf (jobMode (c.w 2)) ((c.w 2).getLsbD 58) (f32 (s.jobElem n c nk groups m j).1)
          ∀ s', (s.setEngine n { e with acc := r.1 }).writeCodes dn (field (c.w 2) 51 0) (fmtBytes ofmt) (codes.map (·.1)) = (s', none) →
          ∃ t, exec .matrixJobDone s = .next t ∧ t.mem = s'.mem ∧ t.cores = s.cores
            ∧ (t.engine n).queue = l ∧ (t.engine n).rings = (e.popJob w0 nk).rings ∧ (t.engine n).acc = r.1
            ∧ (jobEvt (c.w 1) = true → Sent t (eventMsg (field (c.w 1) 43 32) (field (c.w 1) 12 0) c.src c.inf c.id
                (doneStatus 0 (codes.foldl (fun f x => f ||| x.2) r.2)) false)))
        ∧ (nk ≠ jobNk w0 → c.since + 2 ^ 20 ≤ s.clock → ended .ringTileTimeout (nk * kt / 32) 0x102))
    ∧ (let m := s.ev.mcmd
       let id := e.lastId % 65535 + 1
       let discards := fun (cause : Nat) =>
         ∃ t, exec .mcmdArrival s = .next t ∧ t = (timeless s t).setEngine n { e with lastId := id }
          ∧ Sent t (eventMsg (field (m.words.getD 1 0) 43 32) (field (m.words.getD 1 0) 12 0) m.src m.inf id
              (doneStatus cause 0) false)
       (m.cap ≠ e.mxcap → discards 0x100)
       ∧ (m.cap = e.mxcap → ∀ code, jobTrap n e m.words = some code → discards code)
       ∧ (m.cap = e.mxcap → jobTrap n e m.words = none → 32 ≤ e.queue.length →
          exec .mcmdArrival s = .next (s.nextCycle .mcmdArrival s.ev))
       ∧ (m.cap = e.mxcap → jobTrap n e m.words = none → e.queue.length < 32 → exec .mcmdArrival s = .next (s.setEngine n
            { e with queue := e.queue ++ [EngCmd.mk .job m.words 0 id m.src m.inf true false s.clock 0 0], lastId := id })))
    ∧ (∀ c l, let q := coreEngine s.evId.core
        (s.engine q).queue = c :: l → c.kind = .matmul → c.started = true → c.src = s.evId →
        (s.ctxAt s.evId).stall = some .eval →
        ∃ t, exec .matmulEvalDone s = .next t ∧ exec .thunkEvalEnd (s.retireHead q) = .next t
          ∧ ((s.retireHead q).engine q).queue = l)

/-- R368 to R371, R373: CPY, CPYNB and HALO put a copy into the FIFO of the issuing core and give its id; without room CPY
tries again and the others give zero; a request that breaks its rules traps ENGINE_FORM. CPPOLL and CPWAIT give the status of an
event of a transfer that the core may ask for. HALOCNT gives the four counters and subtracts its source from them. -/
def Obligations.CopiesAreQueued : Prop :=
  ∀ (s : State) (h : Hdr) (d a b : Fld), dstOk .g d = true → dstOk .p b = true →
    let k := s.me
    let w := s.ctx.quad a
    let seq := k.copySeq % 65535 + 1
    let id := ofWord (xferId s.cur.core seq)
    let room := k.copies.length < 16
    let pushed := fun (i : Instr) (kind : CopyKind) (words : List Word) (l : List (Cls × Fld × Vec)) =>
      ∃ t, exec i s = .next t ∧ OnlyCore (timeless s t) t ∧ Gave s t.ctx h 4 l
        ∧ t.me = { k with ctxs := t.me.ctxs, copySeq := k.copySeq + 1
                          copies := k.copies ++ [CopyReq.mk kind words seq s.cur.ctx s.ctx.inf [] 0 0 0]
                          copyLog := (CopyStat.mk seq s.cur.ctx none none :: k.copyLog).take 64 }
        ∧ (k.copies = [] → Queued t .copyStart { unit := s.cur.core })
    let gives := fun (i : Instr) (l : List (Cls × Fld × Vec)) =>
      ∃ t, exec i s = .next t ∧ OnlyContext s t ∧ Gave s t.ctx h 4 l
    let both := fun (x : Vec) (m : Mask) => [(Cls.g, d, x), (.p, b, ofMask m)]
    (Enabled s h (quadFlds a) →
      (s.isHandler s.cur = true → TrapsWith (.cpy h d a) s { code := 0x0C1 })
      ∧ (copyFormOk w = false → TrapsWith (.cpynb h d a b) s { code := 0x101 })
      ∧ (copyFormOk w = true →
        let words := s.ctx.copyWords s.cur.core w
        (room → (s.isHandler s.cur = false → pushed (.cpy h d a) .cpy words [(.g, d, id)])
          ∧ pushed (.cpynb h d a b) .cpy words (both id 0xFFFF))
        ∧ (¬ room → (s.isHandler s.cur = false →
              exec (.cpy h d a) s =
                .next { s.setCtx { s.ctx with st := .ready, full := true } with issued := s.issued.erase s.cur })
          ∧ gives (.cpynb h d a b) (both 0 0)))
      ∧ (haloFormOk s.cur.core w = false → TrapsWith (.halo h d a) s { code := 0x101 })
      ∧ (haloFormOk s.cur.core w = true → (room → pushed (.halo h d a) .halo w [(.g, d, id)])
        ∧ (¬ room → Writes (.halo h d a) s h 4 .g d 0)))
    ∧ (Enabled s h [gs a] →
      let x := field (s.ctx.srcG a) 31 0
      (s.xferOk x = false → TrapsWith (.cppoll h d a b) s { code := 0x103 } ∧ TrapsWith (.cpwait h d a) s { code := 0x103 })
      ∧ (s.xferOk x = true →
        (∀ st, s.xferStatus x = some st → gives (.cppoll h d a b) (both (ofWord st) 0xFFFF)
          ∧ Writes (.cpwait h d a) s h 4 .g d (ofWord st))
        ∧ (s.xferStatus x = none → gives (.cppoll h d a b) (both 0 0)
          ∧ exec (.cpwait h d a) s = .next (s.setCtx (waitingOn s h (.copy x d)))))
      ∧ ∃ t, exec (.halocnt h d a) s = .next t ∧ OnlyCore s t ∧ t.me = { k with ctxs := t.me.ctxs, haloCnt := t.me.haloCnt }
        ∧ (∀ i, i < 4 → t.me.haloCnt.get 0 i = k.haloCnt.get 0 i - (s.ctx.srcG a).extractLsb' (16 * i) 16)
        ∧ Gave s t.ctx h 4 [(.g, d, ofWord (k.haloCnt.get 0 3 ++ k.haloCnt.get 0 2 ++ k.haloCnt.get 0 1 ++ k.haloCnt.get 0 0))])

/-- R176, R361, R369, R371, R373: a copy reads its parameter block and starts; at SOURCE_FREE its elements have been
read, converted and written in ascending order; at VISIBLE it leaves the FIFO and the next one starts; each event enters
the status table and sends the message that the parameter block asks for. A halo run is written at its receiver, whose
counter rises. A shuttle slot that is delivered is Full at the other die, which is told. The model's own choices and
readings, log entries 4 and 46, enter here. -/
def Obligations.CopiesRun : Prop :=
  (∀ (s : State) (r : CopyReq) (l : List CopyReq),
      let core := s.ev.unit
      let k := s.core core
      let d := coreDie core
      let pb := if r.kind = .cpy then field (r.words.getD 3 0) 51 6 * 64 else 0
      k.copies = r :: l →
      (r.stage = 0 → ∀ s' r', (pb = 0 ∧ s' = s ∧ r' = r)
          ∨ (pb ≠ 0 ∧ ∃ bytes, s.exRead d pb 64 = (s', .ok bytes)
              ∧ r' = { r with par := [wordOfBytes (bytes.take 8), wordOfBytes ((bytes.drop 8).take 8)] })
          ∨ (pb ≠ 0 ∧ ∃ c, s.exRead d pb 64 = (s', .error (.trap c)) ∧ r' = { r with status := causeStatus c }) →
        ∃ t, exec .copyStart s = .next t ∧ OnlyCoreAt (timeless s' t) t core
          ∧ t.core core = { s'.core core with copies := { r' with stage := 1 } :: (s'.core core).copies.drop 1 }
          ∧ Queued t .copySourceFree { unit := core })
      ∧ (r.stage = 1 → r.status = 0 → r.kind = .cpy →
        let w2 := r.words.getD 2 0
        let sn := fmtBytes (cpySfmt w2)
        let conv := copyCode (cpySfmt w2) (cpyDfmt w2) r.inf (modeOf (w2.extractLsb' 51 2)) (w2.getLsbD 50)
        ∀ s' f, s.copyElems d d sn (fmtBytes (cpyDfmt w2)) conv (cpyLen w2 / sn) (r.words.getD 0 0).toNat
            (r.words.getD 1 0).toNat 0 = (s', f, none) →
        ∃ t, exec .copySourceFree s = .next t ∧ t.mem = s'.mem ∧ Queued t .copyVisible { unit := core }
          ∧ (t.core core).copies = { r with status := at_ 0 f.toNat, stage := 2, runs := 0 } :: (s'.core core).copies.drop 1
          ∧ (∀ e, e ∈ (t.core core).copyLog ↔ ∃ e' ∈ (s'.core core).copyLog,
              e = if e'.id = r.id then { e' with free := some (at_ 0 f.toNat ||| bitAt 63 true) } else e')
          ∧ ((r.par.getD 0 0).getLsbD 63 = true → Sent t (eventMsg (field (r.par.getD 0 0) 43 32) (field (r.par.getD 0 0) 12 0)
              { core, ctx := r.ctx } r.inf (xferId core r.id).toNat (at_ 0 f.toNat ||| bitAt 63 true) true)))
      ∧ (r.stage = 2 → r.runs = 0 →
        ∃ t, exec .copyVisible s = .next t ∧ t.mem = s.mem ∧ (t.core core).copies = l
          ∧ (∀ e, e ∈ (t.core core).copyLog ↔ ∃ e' ∈ k.copyLog,
              e = if e'.id = r.id then { e' with vis := some (r.status ||| bitAt 63 true) } else e')
          ∧ (l ≠ [] → Queued t .copyStart { unit := core })
          ∧ ∀ slot, r.kind = .shuttle slot →
            (r.status = 0 → Queued t .shuttleDelivery { unit := d, sub := slot })
            ∧ (r.status ≠ 0 → slot < 8 → (t.die d).shtHeld.getLsbD slot = true ∧ (t.die d).shtInfl.find? slot = none)))
  ∧ (∀ (s : State),
      let core := s.ev.unit
      let from_ := s.ev.w0.toNat
      ∃ t, exec .haloArrival s = .next t ∧ StoredAt s t (spadBase core + s.ev.num) s.ev.data
        ∧ (∀ side, (t.core core).haloCnt.get 0 side =
            (s.core core).haloCnt.get 0 side + if side = s.ev.sub then 1 else 0)
        ∧ ∀ r l, (s.core from_).copies = r :: l → r.id = s.ev.w1.toNat → r.runs ≠ 0 →
          (t.core from_).copies = { r with runs := r.runs - 1 } :: l
          ∧ (r.runs = 1 → Queued t .copyVisible { unit := from_ }))
  ∧ (∀ (s : State) (x : Shuttle),
      let d := s.ev.unit
      let slot := s.ev.sub
      let evt := (s.die d).shtEvt
      (s.die d).shtInfl.find? slot = some x →
      ∃ t, exec .shuttleDelivery s = .next t ∧ t.mem = s.mem ∧ t.cores = s.cores
        ∧ (t.die d).shtInfl.find? slot = none
        ∧ (∀ n, n < 8 → (t.die (pairDie d)).shtFull.getLsbD n = ((s.die (pairDie d)).shtFull.getLsbD n || decide (n = slot)))
        ∧ Sent t (eventMsg (field evt 43 32) (field evt 12 0) { core := x.core, ctx := x.ctx } x.inf x.aux
            (at_ 0 slot ||| at_ 16 x.core ||| at_ 32 x.len) false))

/-- R166, R374: FXFER and FXA2A put a fabric command into the queue of the die and give its id, in one attempt that
never stalls on a queue: without room they give zero. Their descriptor is read at issue: one that breaks its rules traps
ENGINE_FORM, one that may not be read its fault; for one on a page that migrates the context waits, and so it does for
one beyond a port, which is asked for it. The engine reads the descriptor, moves the rows or the blocks from their
addresses in the issuing core's own windows or elsewhere (R52), writes STAT, sends the event that the descriptor asks
for, and goes on with the next command. The model's own choices and readings, log entries 28, 46 and 56, enter here. -/
def Obligations.FabricCommands : Prop :=
  (∀ (s : State) (h : Hdr) (d a b : Fld), dstOk .g d = true → dstOk .p b = true → Enabled s h [gs a] →
      let dn := coreDie s.cur.core
      let die := s.die dn
      let desc := ownAddr s.cur.core (s.ctx.srcG a).toNat
      let seq := die.fabSeq % 65535 + 1
      ∀ x ∈ [(Instr.fxfer h d a b, false), (.fxa2a h d a b, true)],
        (desc % 64 ≠ 0 → TrapsWith x.1 s { code := 0x101 })
        ∧ (∀ s' e, desc % 64 = 0 → s.ctx.replies = [] → s.exRead dn desc 64 = (s', .error e) →
          (∀ k, e = .trap k → exec x.1 s = .next (s'.trap k))
          ∧ (∀ st, e = .hold st → exec x.1 s = .next (s'.stallOn st))
          ∧ (∀ va write, e = .ats va write → exec x.1 s = .next (s'.askHostUnit dn va write).again)
          ∧ (∀ port addr op, e = .ask port addr op →
              exec x.1 s = .next (s'.request port addr op { h, len := 4, d, acc := 8, ans := .element })))
        ∧ ∀ bytes, desc % 64 = 0 →
          (s.ctx.replies = [] ∧ s.exRead dn desc 64 = (s, .ok bytes)) ∨ s.ctx.replies.head? = some bytes →
          (fabFormOk x.2 bytes = false → TrapsWith x.1 s { code := 0x101 })
          ∧ (fabFormOk x.2 bytes = true →
            (64 ≤ die.fabQ.length →
              ∃ t, exec x.1 s = .next t ∧ OnlyContext s t ∧ Gave s t.ctx h 4 [(.g, d, 0), (.p, b, 0)])
            ∧ (die.fabQ.length < 64 →
              ∃ t, exec x.1 s = .next t
                ∧ t = ((timeless s t).setDie dn { die with
                    fabQ := die.fabQ ++ [{ desc, a2a := x.2, seq, src := s.cur, inf := s.ctx.inf }], fabSeq := seq }).setCtx t.ctx
                ∧ Gave s t.ctx h 4 [(.g, d, ofWord (BitVec.ofNat 64 (dn * 65536 + seq))), (.p, b, ofMask 0xFFFF)]
                ∧ (die.fabQ = [] → Queued t .fabricCompletion { unit := dn }))))
  ∧ (∀ (s : State) (c : FabCmd) (rest : List FabCmd) (bytes : List Byte),
      let die := s.ev.unit
      let w := fun i => descWord bytes i
      let n := field (w 2) 47 32
      let len := field (w 2) 31 0
      (s.die die).fabQ = c :: rest → s.exRead die c.desc 64 = (s, .ok bytes) →
      let own := fun (x : Word) => ownAddr c.src.core (field x 51 0)
      let ended := fun (s' s'' : State) => ∀ status, status = doneStatus 0 0 →
        s'.exWrite die (c.desc + 56) (bytesOfWord status) = (s'', .ok ()) →
        ∃ t, exec .fabricCompletion s = .next t ∧ t.mem = s''.mem
          ∧ ((w 5).getLsbD 63 = true → Sent t (eventMsg (field (w 5) 43 32) (field (w 5) 12 0) c.src c.inf (field (w 6) 31 0)
              status false))
          ∧ (t.die die).fabQ = rest ∧ (rest ≠ [] → Queued t .fabricCompletion { unit := die })
      (c.a2a = false → ∀ s' s'', s.fabRows die (own (w 0)) (own (w 1)) (w 3) (w 4) len (List.range n) = (s', none) → ended s' s'')
      ∧ (c.a2a = true → ∀ list s' s'', s.exRead die (own (w 0)) (16 * n) = (s, .ok list) →
          s.fabBlocks die len (fun i => (own (descWord list (2 * i)), own (descWord list (2 * i + 1)))) none (blockElems n n)
            = (s', none, none) → ended s' s''))

/-! ### Messages and contexts that events move -/

/-- R68 to R72, R75 to R78, R21: a message that reaches its core enters the lowest free inbox slot at the level of the
entry that its tag selects, which is then pending, or merges into the store of a ranked entry; one that no entry takes,
of another kind, without the code capability, or with another INF is dropped and counted in TAG.DROP with its reason.
While HOLD is set it waits in the ingress queue, from which HELD_MESSAGE_DELIVERY takes the oldest once HOLD is clear
and which a ranked message joins while others are held; without room it is tried again. A message of the device takes
the INF of its entry (R413). R57, R61, R77: MESSAGE_BIND binds the candidate that comes first by level, arrival, entry
and sender to the lowest Dormant context of its kernel: Ready at its handler's address, the two header words and the
length in g1 to g3, every other register at its starting value, the windows as its kernel has them; a ranked entry gives
the header of its rank 0 and no slot; a message of the other INF makes the context trap INF_MISMATCH. A core whose HOLD
is set binds nothing (log entry 49). A message that has been pending for 4,096 cycles at its level rises by one. The
model's own choices and readings, log entries 48 and 49, enter here. -/
def Obligations.MessagesAreAcceptedAndBound : Prop :=
  (∀ (s : State) (m : Msg) (core : Nat),
      let now := s.core core
      let taken := fun (row : Instr) (k : Core) =>
        (∀ n slot, n < 64 → slot < 64 → (k.tag n).v = true → (k.tag n).tag = m.tag →
          (∀ j, j < n → ¬ ((k.tag j).v = true ∧ (k.tag j).tag = m.tag)) → k.inbox.find? slot = none →
          (∀ j, j < slot → k.inbox.find? j ≠ none) →
          let e := k.tag n
          let m := if m.own then { m with w0 := (m.w0 &&& ~~~(0x80000000 : Word)) ||| (if e.infr then 0x80000000 else 0) } else m
          let becomes := fun (k' : Core) => ∃ t, exec row s = .next t ∧ t = (timeless s t).setCore core (t.core core)
            ∧ t.core core = k'
          let drops := fun (why : Nat) => becomes { k with drop := dropWord k.drop m why }
          let code := m.kind = 2 ∧ (e.cen = false ∨ k.ccap = 0 ∨ k.ccap ≠ m.cap)
          let ranked := m.kind = 1 ∧ m.inf ≠ e.infr
          let nan := ekeyOf e.keyf m.key = none
          (m.kind ≠ e.kind → drops 2) ∧ (m.kind = e.kind → code → drops 3) ∧ (m.kind = e.kind → ranked → drops 4)
          ∧ (m.kind = e.kind → m.kind ≠ 1 → ¬ code → becomes
              { k with
                tags := k.tags.put n { e with pend := true }
                inbox := k.inbox.put slot { msg := m, arrival := s.clock, level := e.prio, since := s.clock, entry := n
                                            kernel := e.kernel, bound := false } })
          ∧ (m.kind = e.kind → m.kind = 1 → m.inf = e.infr →
              let e1 := { e with store := e.stored m, count := e.count + 1, orders := e.orders + 1
                                 recent := (e.recent.filter fun r => r.1 == s.clock) ++ [(s.clock, m)] }
              let fires := e.fired = false ∧ e.pend = false ∧ (e.fire = 0 ∨ e.count + 1 = e.fire)
              becomes { k with
                tags := k.tags.put n (if fires then { e1 with pend := true, arrival := s.clock, level := e.prio, since := s.clock }
                  else e1)
                nanCnt := if nan ∧ k.nanCnt ≠ BitVec.allOnes 32 then k.nanCnt + 1 else k.nanCnt }))
        ∧ ((∀ j, j < 64 → ¬ ((k.tag j).v = true ∧ (k.tag j).tag = m.tag)) → (∃ j, j < 64 ∧ k.inbox.find? j = none) →
            exec row s = .next (s.setCore core { k with drop := dropWord k.drop m 1 }))
      (s.ev.msg = m → m.dst = core → m.launch = none → s.coreMapped core = true →
        (s.coreHeld core = false → now.hold = [] → taken .messageAccept now)
        ∧ (s.coreHeld core = true → now.hold.length < 64 →
          exec .messageAccept s = .next (s.setCore core { now with hold := now.hold ++ [m] }))
        ∧ (∀ y l, s.coreHeld core = false → now.hold = y :: l → y.kind ≠ 1 → (∀ j, j < 64 → now.inbox.find? j ≠ none) →
          (m.kind = 1 → now.hold.length < 64 →
            exec .messageAccept s = .next (s.setCore core { now with hold := now.hold ++ [m] }))
          ∧ (m.kind ≠ 1 → exec .messageAccept s = .next (s.nextCycle .messageAccept { msg := m })))
        ∧ (s.coreHeld core = true → 64 ≤ now.hold.length →
          exec .messageAccept s = .next (s.nextCycle .messageAccept { msg := m }))
        ∧ (s.accept m = none → ∃ t, exec .messageAccept s = .next t ∧ t = timeless s t ∧ Queued t .messageAccept { msg := m }))
      ∧ (∀ l, s.ev.unit = core → now.hold = m :: l → s.coreHeld core = false →
          taken .heldMessageDelivery { now with hold := l }))
  ∧ ((∀ (s : State) (x : Candidate) (n sl : Nat) (m : Slot),
        let core := s.ev.unit
        let k := s.core core
        let e := k.tag x.entry
        s.coreHeld core = false → x ∈ s.candidates core → (∀ y ∈ s.candidates core, y ≠ x → y.before x = false) →
        k.dormantOf x.kernel = some n → x.slot = some sl → k.inbox.find? sl = some m →
        ∃ t, exec .messageBind s = .next t ∧ t.mem = s.mem ∧ t.kernels = s.kernels
          ∧ (∀ i, i ≠ { core, ctx := n } → t.ctxAt i = s.ctxAt i)
          ∧ (t.core core).inbox.find? sl = some { m with bound := true }
          ∧ (∀ j, j ≠ sl → (t.core core).inbox.find? j = k.inbox.find? j)
          ∧ let c := t.ctxAt { core, ctx := n }
            (∀ r i, c.reg r i = if r = .g ∧ i = 1 then ofWord m.msg.w0 else if r = .g ∧ i = 2 then ofWord m.msg.w1
              else if r = .g ∧ i = 3 then ofWord (BitVec.ofNat 64 m.msg.len) else if r = .p ∧ i = 0 then 0xFFFF else 0)
            ∧ (∀ r i p, (r, i, p) ∈ c.ecc ↔ r = 0 ∧ p = 0 ∧ ((i = 1 ∧ 0 ∈ m.ecc) ∨ (i = 2 ∧ 1 ∈ m.ecc)))
            ∧ c.kernel = some x.kernel ∧ c.slot = some sl ∧ c.lmask = 0xFFFF ∧ c.trapMode = false ∧ c.inf = e.infr
            ∧ c.fflags = 0 ∧ c.schk = true ∧ c.chain = [] ∧ c.loops = [] ∧ c.frame = none ∧ c.hist = []
            ∧ c.act.orig = core ∧ c.act.entry = x.entry ∧ c.jobs = (k.ctx n).jobs
            ∧ (∀ kn, s.kernels.find? x.kernel = some kn →
                (m.msg.kind ≠ 2 → c.pc = BitVec.ofNat 64 (kn.codeBase + e.hoff))
                ∧ ∀ i, i < 8 → c.win.get 0 i = kn.wins.getD i 0)
            ∧ (m.msg.kind = 2 → c.pc = 0)
            ∧ (m.msg.inf = e.infr → c.st = .ready)
            ∧ (m.msg.inf ≠ e.infr → c.st = .trapped ∧ field c.trapCause 8 0 = 0x0C0))
    ∧ (∀ (s : State) (x : Candidate) (n : Nat),
        let core := s.ev.unit
        let k := s.core core
        let e := k.tag x.entry
        let w := match e.store with
          | r :: _ => (r.w0, r.w1)
          | [] => (headerWord 0 e.tag e.infr 1 0 0 0, headerWord1 core 0)
        s.coreHeld core = false → x ∈ s.candidates core → (∀ y ∈ s.candidates core, y ≠ x → y.before x = false) →
        k.dormantOf x.kernel = some n → x.slot = none →
        ∃ t, exec .messageBind s = .next t ∧ t.mem = s.mem ∧ t.kernels = s.kernels
          ∧ (∀ i, i ≠ { core, ctx := n } → t.ctxAt i = s.ctxAt i)
          ∧ (t.core core).inbox = k.inbox ∧ (t.core core).tag x.entry = { e with pend := false, fired := true }
          ∧ let c := t.ctxAt { core, ctx := n }
            (∀ r i, c.reg r i = if r = .g ∧ i = 1 then ofWord w.1 else if r = .g ∧ i = 2 then ofWord w.2
              else if r = .p ∧ i = 0 then 0xFFFF else 0)
            ∧ c.st = .ready ∧ c.kernel = some x.kernel ∧ c.slot = none ∧ c.inf = e.infr ∧ c.act.entry = x.entry
            ∧ ∀ kn, s.kernels.find? x.kernel = some kn → c.pc = BitVec.ofNat 64 (kn.codeBase + e.hoff))
    ∧ (∀ (s : State), s.coreHeld s.ev.unit = true → exec .messageBind s = .next s)
    ∧ (∀ (s : State) (n : Nat) (x : Slot), (s.core s.ev.unit).inbox.find? n = some x →
        ∃ t, exec .priorityPromotion s = .next t ∧ OnlyCoreAt s t s.ev.unit
          ∧ (t.core s.ev.unit).inbox.find? n = some
              (if x.bound = false ∧ x.level ≠ 3 ∧ x.since + 4096 ≤ s.clock
                then { x with level := x.level + 1, since := x.since + 4096 } else x)))

/-- R60, R127, R225, R260, R264, R367, R371: a wake ends the wait it was sent for: a FORCE is issued again, a barrier is
passed, SLEEP gives 1, MWAIT and CPWAIT give their status; a context that is being saved or restored keeps it pending,
and so does the image of one that is saved. SLEEP that runs out gives 0. The newest record of the deque is bound, Ready
where it stands; one whose context a CREST is taking waits, and one whose context it has taken is dropped. A context
that has been busy for longer than its limit traps WATCHDOG. The model's own choices or readings, log entries 3 and 34,
enter here. The model's own choices and readings, log entries 3 and 34, enter here. -/
def Obligations.WaitsAndTimersEnd : Prop :=
  ∀ (s : State),
    let i := s.evId
    let c := s.ctxAt i
    let only := fun (t : State) => OnlyCtxAt s t i
    let ends := fun (row : Instr) (w : Wait) (l : List (Cls × Fld × Vec)) =>
      ∃ t, exec row s = .next t ∧ (t.ctxAt i).st = .ready ∧ (t.ctxAt i).wait = none ∧ t.mem = s.mem
        ∧ (∀ j, j ≠ i → t.ctxAt j = s.ctxAt j) ∧ t.agenda = s.agenda
        ∧ Gave { s with cur := i } { t.ctxAt i with st := c.st, wait := c.wait, waiter := c.waiter, jobs := c.jobs } w.h 4 l
    (∀ w, c.st = .waiting → c.wait = some w →
      (s.ev.num = w.since + 1 →
        (∀ x, w.kind = .force x →
          ∃ t, exec .wake s = .next t ∧ only t ∧ t.ctxAt i = { c with st := .ready, wait := none, waiter := none })
        ∧ (∀ n x, w.kind = .barrier n x ∨ w.kind = .kbarrier n x → ends .wake w [])
        ∧ (∀ n d, w.kind = .sleep n d → ends .wake w [(.g, d, 1)])
        ∧ (∀ id d x, w.kind = .job id d → (s.engine (coreEngine i.core)).done.find? id = some x →
            ends .wake w [(.g, d, ofWord x)])
        ∧ (∀ id d x, w.kind = .copy id d → (s.core i.core).copyStatus id = some x → ends .wake w [(.g, d, ofWord x)]))
      ∧ (s.ev.num ≠ w.since + 1 → exec .wake s = .next s)
      ∧ (∀ n d, w.kind = .sleep n d → (n ≤ s.clock → ends .sleepExpire w [(.g, d, 0)])
          ∧ (s.clock < n → exec .sleepExpire s = .next s)))
    ∧ (c.st = .saving ∨ c.st = .restoring → exec .wake s = .next (s.setCtxAt i { c with pendingWake := true }))
    ∧ (∀ a virt pa, c.st = .saved → c.image = some (a, virt) → s.imagePa (coreDie i.core) a virt .store = some pa →
      ∃ t, exec .wake s = .next t ∧ StoredAt s t (pa + 2) [s.readByte (pa + 2) ||| 0x10] ∧ t.cores = s.cores)
    ∧ (∀ r l, (s.core s.ev.unit).deque = r :: l →
      let j : CtxId := { core := s.ev.unit, ctx := r.ctx }
      ((s.ctxAt j).reserved = true → (s.ctxAt j).st = .dormant →
        ∃ t, exec .dequeBind s = .next t ∧ OnlyCoreAt s t s.ev.unit ∧ (t.core s.ev.unit).deque = l
          ∧ (∀ q, q ≠ j → t.ctxAt q = s.ctxAt q)
          ∧ t.ctxAt j = { s.ctxAt j with
              st := .ready, reserved := false, busy := 0, notBefore := max (s.ctxAt j).notBefore (s.clock + 1) })
      ∧ ((s.ctxAt j).reserved = true → (s.ctxAt j).st ≠ .dormant → exec .dequeBind s = .next s)
      ∧ ((s.ctxAt j).reserved = false →
        exec .dequeBind s = .next (s.setCore s.ev.unit { s.core s.ev.unit with deque := l })))
    ∧ (let lim := (s.core i.core).wdog.toNat
       lim ≠ 0 → c.st = .ready ∨ c.st = .running →
        (2 ^ lim < c.busy → ∃ t, exec .watchdogExpire s = .next t ∧ t.mem = s.mem ∧ (∀ j, j ≠ i → t.ctxAt j = s.ctxAt j)
          ∧ t.ctxAt i = c.trapped c.pc { code := 0x162, async := true })
        ∧ (c.busy ≤ 2 ^ lim → exec .watchdogExpire s = .next s))

/-- R62 to R64, R219, R222: SAVE_COMPLETE writes the image of the context, leaves it Saved with its kernel and answers
whoever asked with 0; a write that fails, or a register or an entry of the distance history that holds poisoned bits
(log entry 48), takes it back to where it was and answers 3. A context that ships is Dormant once its image is written,
its job ids with it, and the target begins to restore; a write that faults makes it take HOME_EXECUTE, and the target is
Dormant again. RESTORE_COMPLETE gives the context the registers that the image holds, and whoever asked 0; an image that
cannot be read any more takes it back, with 3. All this of a kernel that no PREEMPTK or RESUME is under way for. The
dispositions of a Trapped context by its command register resume it, start it anew or end its activation; one that is
not Trapped, and a resumption or restart after an asynchronous trap that is no probe victim's, is answered STATE. R358:
a context restored as Waiting on a barrier looks at the barrier again, and goes on where its generation has passed or a
wake has come; on a Faulted barrier it issues its instruction again; where its code cannot be read it waits as it did
when it was saved, and a page of it that migrates is waited for. The model's own choices and readings, log entries 27,
33, 45 and 48, enter here. -/
def Obligations.ContextsAreSavedAndDisposed : Prop :=
  (∀ (s : State) (r : SaveReq),
      let i := s.evId
      let c := s.ctxAt i
      c.st = .saving → c.saveReq = some r → (∀ kid k, c.kernel = some kid → s.kernels.find? kid = some k → k.save = none) →
      let writtenBy := fun (d : Nat) =>
        if c.ecc = [] ∧ c.histEcc = [] then s.writeImage d r.virt r.image (c.imageBytes i r.prior) else none
      let answered := fun (t : State) (code : Nat) => ∀ j h d, r.asker = some j → j ≠ i → (s.ctxAt j).stall = some (.save h d) →
        (t.ctxAt j).stall = none ∧ (keeps .g d = true → (t.ctxAt j).reg .g d.toNat = ofWord (BitVec.ofNat 64 code))
      (r.ship = none → s.imageHold (coreDie i.core) r.image 6144 r.virt = none →
        let written := writtenBy (coreDie i.core)
        (∀ s1, written = some s1 → ∃ t, exec .saveComplete s = .next t ∧ t.mem = s1.mem
          ∧ (r.asker ≠ some i → t.ctxAt i = { kernel := c.kernel, st := .saved, slot := c.slot, jobs := c.jobs, wait := c.wait,
                                              image := some (r.image, r.virt) })
          ∧ answered t 0)
        ∧ (written = none → c.pendingWake = false → ∃ t, exec .saveComplete s = .next t ∧ t.mem = s.mem
          ∧ (r.asker ≠ some i → t.ctxAt i = { c with st := r.prior, saveReq := none, notBefore := s.clock + 1 })
          ∧ answered t 3))
      ∧ (∀ q, r.ship = some q → q ≠ i → c.heldReqs = [] → s.imageHold (coreDie q.core) r.image 6144 r.virt = none →
        (s.die (coreDie q.core)).stopped = false →
        let written := writtenBy (coreDie q.core)
        let rest := fun (t : State) => ∀ j, j ≠ i → j ≠ q → t.ctxAt j = s.ctxAt j
        (∀ s1, written = some s1 → ∃ t, exec .saveComplete s = .next t ∧ t.mem = s1.mem ∧ rest t
          ∧ t.ctxAt i = { c.ended c.kernel .dormant with jobs := c.jobs }
          ∧ (t.ctxAt q).saveReq = some { image := r.image, prior := .dormant }
          ∧ Queued t .restoreComplete (evCtx q))
        ∧ (written = none → ∃ t, exec .saveComplete s = .next t ∧ t.mem = s.mem ∧ rest t
          ∧ t.ctxAt q = { s.ctxAt q with st := .dormant, saveReq := none }
          ∧ t.ctxAt i = ({ c with st := r.prior, saveReq := none, notBefore := s.clock + 1 } : Context).trapped c.pc
              { code := 0x04B, acc := r.acc, level := r.level, addr := r.addr })))
  ∧ (∀ (s : State) (r : SaveReq),
      let i := s.evId
      let c := s.ctxAt i
      c.st = .restoring → c.saveReq = some r → r.asker ≠ some i →
      (∀ kid k, c.kernel = some kid → s.kernels.find? kid = some k → k.save = none) →
      s.imageHold (coreDie i.core) r.image 6144 r.virt = none →
      let image := s.readImage (coreDie i.core) r.virt r.image 6144
      let ends := fun (t : State) (code : Nat) => exec .restoreComplete s = .next t ∧ t.mem = s.mem
        ∧ (∀ j, j ≠ i → r.asker ≠ some j → t.ctxAt j = s.ctxAt j)
        ∧ ∀ j h d, r.asker = some j → (s.ctxAt j).stall = some (.save h d) →
            (t.ctxAt j).stall = none ∧ (keeps .g d = true → (t.ctxAt j).reg .g d.toNat = ofWord (BitVec.ofNat 64 code))
      (image = none → ∃ t, ends t 3 ∧ t.ctxAt i = { c with st := r.prior, saveReq := none })
      ∧ ∀ bytes, image = some bytes →
        let recorded := field (imageWord bytes 0) 19 16
        recorded ≠ 4 →
        ∃ t, ends t 0
        ∧ let c' := t.ctxAt i
          c'.st = (if recorded = 1 then .dormant else if recorded = 5 then .trapped else .ready)
          ∧ c'.pc = imageWord bytes 8 ∧ c'.kernel = c.kernel ∧ c'.slot = c.slot ∧ c'.jobs = c.jobs
          ∧ (∀ n, 0 < n → n < 56 → c'.reg .g n = ofWord (imageWord bytes (0x40 + 8 * n)))
          ∧ (∀ n, n < 56 → c'.reg .v n = BitVec.ofNat 512 (natOfBytes ((bytes.drop (0x200 + 64 * n)).take 64)))
          ∧ (∀ n, n < 16 → c'.reg .h n = ofWord (imageWord bytes (0x1000 + 8 * n)))
          ∧ (∀ n, 0 < n → n < 8 → c'.reg .p n = ofMask (BitVec.ofNat 16 (natOfBytes ((bytes.drop (0x1080 + 2 * n)).take 2))))
          ∧ c'.lmask = (imageWord bytes 16).extractLsb' 32 16
          ∧ ∀ n, n < 8 → c'.win.get 0 n = imageWord bytes (0x11C0 + 8 * n) &&& 0x000FFFFFF00003FF)
  ∧ (∀ (s : State) (id : BitVec 8),
      let i := s.evId
      let c := s.ctxAt i
      s.ev.who = .outside id → c.heldReqs = [] → c.chain = [] → coreExists i.core = true →
      let stat := fun (n : Nat) => { s.mgmt with stat := s.mgmt.stat.put id.toNat n }
      (s.ownedBy (.outside id) = false → ∀ row ∈ [Instr.contextResume, .contextRestart, .contextAbort],
        exec row s = .next { s with mgmt := stat 5 })
      ∧ (s.ownedBy (.outside id) = true →
        (c.st ≠ .trapped → ∀ row ∈ [Instr.contextResume, .contextRestart, .contextAbort],
          exec row s = .next { s with mgmt := stat 4 })
        ∧ (c.st = .trapped →
          (∃ t, exec .contextAbort s = .next t ∧ t.mgmt = stat 0 ∧ t.mem = s.mem ∧ (∀ j, j ≠ i → t.ctxAt j = s.ctxAt j)
            ∧ t.ctxAt i = c.ended c.kernel .dormant)
          ∧ (c.trapMode = false → c.trapCause.getLsbD 58 = true → c.victim = false →
            ∀ row ∈ [Instr.contextResume, .contextRestart], exec row s = .next { s with mgmt := stat 4 })
          ∧ (c.trapMode = true ∨ c.trapCause.getLsbD 58 = false ∨ c.victim = true →
            (∃ t, exec .contextResume s = .next t ∧ t.mgmt = stat 0 ∧ t.mem = s.mem ∧ (∀ j, j ≠ i → t.ctxAt j = s.ctxAt j)
              ∧ t.ctxAt i = c.resumed)
            ∧ (c.forkChild = false → c.continued = false →
              ∃ t, exec .contextRestart s = .next t ∧ t.mgmt = stat 0 ∧ t.mem = s.mem ∧ (∀ j, j ≠ i → t.ctxAt j = s.ctxAt j)
                ∧ (t.ctxAt i).st = .ready ∧ (t.ctxAt i).trapMode = false ∧ (t.ctxAt i).hist = []
                ∧ (t.ctxAt i).trapCause = c.trapCause)))))
  ∧ (∀ (s : State) (i : CtxId) (c : Context) (woken : Bool),
      c.st = .waiting →
      let u := s.setCtxAt i { c with notBefore := s.clock + 1 }
      let waits := fun (faulted met : Bool) => ∃ t, s.enterRestored i c woken = .ok t
        ∧ (if faulted then (t.ctxAt i).st = .ready ∧ (t.ctxAt i).pc = c.pc
          else if woken || met then (t.ctxAt i).st = .ready else (t.ctxAt i).st = .waiting ∧ (t.ctxAt i).pc = c.pc)
      let bar := fun (n : Nat) => (s.core i.core).bar n
      let named := fun (n : Nat) => decide ((bar n).state = bFAULTED)
      (∀ h a n len, u.fetch i = .instr (.barwait h a n) len →
        waits (named n.toNat) (decide ((bar n.toNat).gen ≠ (c.srcG a).truncate 16)))
      ∧ (∀ h n len, u.fetch i = .instr (.bararvw h n) len →
        waits (named n.toNat) (!(bar n.toNat).amask.getLsbD i.ctx))
      ∧ (∀ kid k, c.kernel = some kid → s.kernels.find? kid = some k →
        (∀ h a n len, u.fetch i = .instr (.gbwait h a n) len →
          waits (k.bars.get {} n.toNat).fault (decide ((s.gbarAt i.core kid n.toNat).gen ≠ (c.srcG a).truncate 16)))
        ∧ (∀ w n x e, u.fetch i = .fault e → c.wait = some w → w.kind = .kbarrier n x →
          waits (k.bars.get {} n).fault (decide ((s.gbarAt i.core kid n).gen ≠ x))))
      ∧ (∀ w n x e, u.fetch i = .fault e → c.wait = some w → w.kind = .barrier n x →
        waits (named n) (decide ((bar n).gen ≠ x)))
      ∧ (∀ x, u.fetch i = .stall x → s.enterRestored i c woken = .error x))

/-! ### Link ports -/

/-- R158, R159, R164: the five commands of a port by the owner, each in the states that allow it, and CERR in every
other; training that succeeds, or is late; a failure that isolates a port in traffic; replays, which REPLAY counts, and
which degrade a port where a millisecond has more than RTHR of them; and an overrun of the window bound, by a write not
acknowledged in time or a clock offset above W/4, which sets OVR and lifts the bound for the peer at a port that is Up
or Degraded. Each change of state sends the link event to every partition. R149, R162, R235: an answer to a request
takes it off a port that hears and completes the instruction that waits: a load with its value, extended, a message with
the predicate of its form; an error traps LINK_ERROR, and a blocking message that is answered busy is tried again until
the timeout of its first attempt; the answer to a request of an event is kept for that event. A request that has waited
for its time isolates its port, and its context traps LINK_TIMEOUT. A page response has the access tried again, or traps
HOST_TRANSLATION; ATS_INVALIDATE drops the translations of its range. The model's own choices and readings, log entries
10, 29 and 56, enter here. -/
def Obligations.LinksAndTheirRequests : Prop :=
  (∀ (s : State) (id : BitVec 8),
      let n := s.ev.unit
      let p := s.port n
      let owned := s.ownedBy (.outside id)
      let answered := fun (u : State) (code : Nat) =>
        { u with mgmt := { u.mgmt with stat := u.mgmt.stat.put id.toNat code } }
      let told := fun (t : State) (st : PortState) (cause : Nat) => ∀ q, q < 8 → partV (s.part q) = true →
        Sent t (deviceMsg 3 (partLtag (s.part q)) (partEvcore (s.part q)) (partEvcore (s.part q)) 0
          (n + PortState.num st * 2 ^ 4 + cause * 2 ^ 16) [])
      let moves := fun (row : Instr) (st : PortState) (cause : Nat) (mgmt : Mgmt) =>
        ∃ t, exec row s = .next t ∧ t = { (timeless s t).setPort n (t.port n) with mgmt := mgmt }
          ∧ (t.port n).state = st ∧ (t.port n).before = p.state ∧ told t st cause
      let commands := fun (row : Instr) (ok : Bool) (st : PortState) =>
        (ok = true → moves row st 0 (answered s 0).mgmt)
        ∧ (ok = false → exec row s = .next (answered (s.setPort n { p with cerr := true }) 0))
      let inTraffic := p.state == .up || p.state == .degraded || p.state == .quiesced
      (s.ev.who = .outside id →
        (∀ row ∈ [Instr.linkTrain, .linkQuiesce, .linkResume, .linkIsolate, .linkDown],
          (owned = false → exec row s = .next (answered s 5)) ∧ (owned = true → 9 < n → exec row s = .next (answered s 3)))
        ∧ (owned = true → n < 10 →
          commands .linkTrain (p.state == .down) .training
          ∧ commands .linkQuiesce (p.state == .up || p.state == .degraded) .quiesced
          ∧ commands .linkResume (p.state == .quiesced) p.before
          ∧ commands .linkIsolate inTraffic .isolated
          ∧ commands .linkDown (p.state == .isolated) .down))
      ∧ (let lanes := s.ev.sub
         p.state = .training → n < 10 → 0 < lanes → lanes ≤ portLanes n → 2 ^ log2Of lanes = lanes →
          moves .trainingDone (if lanes = portLanes n then .up else .degraded) 0 s.mgmt)
      ∧ (p.state = .training → (p.trainAt + 200000000 ≤ s.clock → moves .trainingTimeout .down 0 s.mgmt)
          ∧ (s.clock < p.trainAt + 200000000 → exec .trainingTimeout s = .next s))
      ∧ ((inTraffic = true → moves .linkFailure .isolated (s.ev.num % 512) s.mgmt)
        ∧ (inTraffic = false → exec .linkFailure s = .next s))
      ∧ (n < 10 →
        let replay := BitVec.ofNat 16 (min (p.replay.toNat + s.ev.num) 0xFFFF)
        (p.state = .up → p.rthr.toNat < s.ev.num → ∃ t, exec .replayThreshold s = .next t
            ∧ t = (timeless s t).setPort n { p with state := .degraded, before := .up, replay } ∧ told t .degraded 0)
        ∧ (p.state ≠ .up ∨ s.ev.num ≤ p.rthr.toNat → exec .replayThreshold s = .next (s.setPort n { p with replay })))
      ∧ (n < 10 →
          let lifts := fun (u : State) (peer : Nat) =>
            (p.state ≠ .up ∧ p.state ≠ .degraded ∨ peer ∈ p.lifted → exec .windowOverrun s = .next u)
            ∧ (p.state = .up ∨ p.state = .degraded → peer ∉ p.lifted → ∃ t, exec .windowOverrun s = .next t
              ∧ t = (timeless u t).setPort n { u.port n with ovr := true, lifted := peer :: p.lifted } ∧ told t p.state 0x141)
          let offset := s.ev.w0.toNat
          let measured := s.setPort n { p with offsets := p.offsets.put (s.ev.num % 1024) offset }
          (s.ev.flag = true → ∀ r, (p.reqs.find? fun r => r.id == s.ev.sub) = some r → lifts s (r.addr / 2 ^ 40 % 1024))
          ∧ (s.ev.flag = false → s.mgmt.vwin.toNat < 4 * offset → lifts measured (s.ev.num % 1024))
          ∧ (s.ev.flag = false → 4 * offset ≤ s.mgmt.vwin.toNat → exec .windowOverrun s = .next measured)))
  ∧ ((∀ (s : State) (r : LinkReq) (i : CtxId) (w : Waiter),
        let n := s.ev.unit
        let p := s.port n
        let c := s.ctxAt i
        let rest := { s with ports := (s.setPort n { p with reqs := p.reqs.filter fun x => x.id != s.ev.sub }).ports }
        let hears := p.state = .up ∨ p.state = .degraded ∨ p.state = .quiesced
        let results := fun (data : List Byte) => ∃ t, exec .linkResponse s = .next t
          ∧ t = (timeless rest t).setCtxAt i { c with stall := some (.result w data) } ∧ Queued t .resultWriteback (evCtx i)
        (p.reqs.find? fun x => x.id == s.ev.sub) = some r → r.src = .ctx i → c.stall = some (.link n r.id w) →
        (¬ hears → exec .linkResponse s = .next s)
        ∧ (hears → s.ev.num = 0 →
          (w.ans = .nothing ∨ w.ans = .sent true ∨ w.ans = .sent false → results [])
          ∧ (∀ n sg, w.ans = .scalar n sg → results s.ev.data)
          ∧ (w.ans = .element → exec .linkResponse s =
            .next (rest.setCtxAt i { c with stall := none, replies := c.replies ++ [s.ev.data], notBefore := s.clock + 1 }))
          ∧ (∀ g, w.ans = .progress g → exec .linkResponse s =
            .next (rest.setCtxAt i { c with stall := none, gprog := g, notBefore := s.clock + 1 })))
        ∧ (hears → s.ev.num = 1 → (w.ans = .sent true → results [0]) ∧ (w.ans = .sent false → exec .linkResponse s =
            .next (rest.setCtxAt i { c with stall := none, notBefore := s.clock + 1, retry := some r.due, full := true })))
        ∧ (hears → 2 ≤ s.ev.num → (n = 8 → r.op ≠ .read 0) → ∃ t, exec .linkResponse s = .next t ∧ t.mem = s.mem
            ∧ (∀ j, j ≠ i → t.ctxAt j = s.ctxAt j)
            ∧ t.ctxAt i = c.trapped c.pc { code := 0x143, acc := w.acc, indet := opIndet r.op }))
    ∧ (∀ (s : State) (r : LinkReq) (row : Instr) (ev : Ev) (x : Errand),
        let n := s.ev.unit
        let p := s.port n
        let rest := s.setPort n { p with reqs := p.reqs.filter fun x => x.id != s.ev.sub }
        let code := if 2 ≤ s.ev.num then 0x143 else 0
        let data := if 2 ≤ s.ev.num then [] else s.ev.data
        (p.reqs.find? fun x => x.id == s.ev.sub) = some r → r.src = .event row ev → (n = 8 → r.op ≠ .read 0) →
        s.errands = [x] → x.req = some (n, r.id) → p.state = .up ∨ p.state = .degraded ∨ p.state = .quiesced →
        exec .linkResponse s = .next { rest with
          errands := [{ x with got := x.got ++ [{ port := n, addr := r.addr, code, data }], req := none }] })
    ∧ (∀ (s : State) (w : Waiter) (data : List Byte),
        let i := s.evId
        let c := s.ctxAt i
        c.stall = some (.result w data) →
        let ends := fun (eff : Bool) (l : List (Cls × Fld × Vec)) =>
          ∃ t, exec .resultWriteback s = .next t ∧ OnlyCtxAt s t i ∧ (t.ctxAt i).stall = none
            ∧ (t.ctxAt i).effects = (c.effects || eff)
            ∧ Gave { s with cur := i } { t.ctxAt i with stall := c.stall, effects := c.effects } w.h w.len l
        (∀ n sg, w.ans = .scalar n sg → ends w.eff [(.g, w.d, ofWord (extend sg n (natOfBytes (data.take n))))])
        ∧ (w.ans = .sent true → ends (w.eff && data.isEmpty) [(.p, w.d, ofMask (if data = [] then 0xFFFF else 0))])
        ∧ (w.ans = .sent false ∨ w.ans = .nothing → ends w.eff []))
    ∧ (∀ (s : State) (r : LinkReq) (i : CtxId) (w : Waiter),
        let n := s.ev.unit
        let p := s.port n
        p.reqs = [r] → r.src = .ctx i → r.id = s.ev.sub → r.due ≤ s.clock → p.state = .up → (n = 8 → r.op ≠ .read 0) →
        (s.ctxAt i).stall = some (.link n r.id w) →
        (∀ x ∈ s.agenda, x.row ≠ .linkResponse ∧ x.row ≠ .priResponse) →
        ∃ t, exec .linkRequestTimeout s = .next t ∧ t.mem = s.mem ∧ (t.port n).state = .isolated ∧ (t.port n).reqs = []
          ∧ t.ctxAt i = (s.ctxAt i).trapped (s.ctxAt i).pc { code := 0x140, acc := w.acc, indet := opIndet r.op })
    ∧ (∀ (s : State) (req acc : Nat) (r : LinkReq) (i : CtxId),
        let c := s.ctxAt i
        let p := s.port 8
        c.stall = some (.pri req acc) → s.ev.sub = req → (p.reqs.find? fun x => x.id == req) = some r → r.op = .read 0 → r.src = .ctx i →
        (∀ x ∈ s.pris, x.req ≠ req) → p.state = .up ∨ p.state = .degraded ∨ p.state = .quiesced →
        let rest := s.setPort 8 { p with reqs := p.reqs.filter fun x => x.id != req }
        (s.ev.flag = true → exec .priResponse s = .next (rest.setCtxAt i { c with stall := none, notBefore := s.clock + 1 }))
        ∧ (s.ev.flag = false → exec .priResponse s =
            .next (rest.takeTrap i c.pc { code := 0x04A, acc, addr := BitVec.ofNat 64 (0x9000000000000 + r.addr) })))
    ∧ (∀ (s : State), (s.port 8).state = .up ∨ (s.port 8).state = .degraded ∨ (s.port 8).state = .quiesced →
        ∃ t, exec .atsInvalidate s = .next t ∧ t = { s with ats := t.ats }
        ∧ ∀ e, e ∈ t.ats ↔ e ∈ s.ats ∧ ¬ ((e.sid = s.ev.unit ∨ Config.hostPasid = false)
            ∧ s.ev.sub / 4096 ≤ e.page ∧ e.page < s.ev.sub / 4096 + s.ev.num)))

/-- R160, R161, R165, R201: a request that enters by a port in traffic is performed in the space of the port's die and
answered: a read with its bytes, a write once its bytes stand, a peer's atomic with what it found; a peer's device
message is offered to its core; a request beyond the window, and one that a check stops, is answered with an error, and
a peer's that R160 does not list as unsupported; a request of the host or of storage behind one that waits waits too; a
port that carries no traffic takes nothing in. The model's own choices and readings, log entries 10 and 30, enter here.
-/
def Obligations.RequestsFromOutside : Prop :=
  ∀ (s : State),
    let answer := fun (u : State) (port status : Nat) (data : List Byte) =>
      { u with out := u.out ++ [.answer port status data] }
    let inTraffic := fun (n : Nat) => (s.port n).state = .up ∨ (s.port n).state = .degraded ∨ (s.port n).state = .quiesced
    let access := fun (row : Instr) (n va : Nat) (sized : Nat → Prop) =>
      (∀ k u data, s.ev.req.op = .read k → sized k → s.exRead (portDie n) va k = (u, .ok data) →
        exec row s = .next (answer u n 0 data))
      ∧ (∀ data u, s.ev.req.op = .write data → sized data.length → s.exWrite (portDie n) va data = (u, .ok ()) →
        exec row s = .next (answer u n 0 []))
      ∧ (∀ k u c, s.ev.req.op = .read k → sized k → s.exRead (portDie n) va k = (u, .error (.trap c)) →
        exec row s = .next (answer u n 2 []))
      ∧ (∀ data u c, s.ev.req.op = .write data → sized data.length → s.exWrite (portDie n) va data = (u, .error (.trap c)) →
        exec row s = .next (answer u n 2 []))
    let pcie := fun (row : Instr) (n : Nat) =>
      (¬ inTraffic n → exec row s = .next (s.setPort n { s.port n with waiting := [] }))
      ∧ (inTraffic n → s.ev.flag = false →
        ((s.port n).waiting = [] → access row n s.ev.req.addr fun _ => True)
        ∧ ((s.port n).waiting ≠ [] → exec row s =
            .next (s.setPort n { s.port n with waiting := (s.port n).waiting ++ [(s.clock, s.ev.req)] })))
    (let n := s.ev.unit
     let p := s.port n
     let off := s.ev.req.addr % 2 ^ 40
     n < 8 →
      (¬ inTraffic n → exec .incomingRequest s = .next s)
      ∧ (∀ op dbl b c, inTraffic n → s.ev.req.op = .atomic op dbl b c → Amo.ofNum op = none →
          exec .incomingRequest s = .next (answer s n 3 []))
      ∧ (inTraffic n → off < 0xFF00000000 →
        let sized := fun (k : Nat) => 1 ≤ k ∧ k ≤ 256 ∧ off / 256 = (off + k - 1) / 256
        let va := p.inBase.toNat + off
        (∀ k, ¬ sized k → s.ev.req.op = .read k ∨ (∃ data, s.ev.req.op = .write data ∧ data.length = k) →
          exec .incomingRequest s = .next (answer s n 3 []))
        ∧ (∀ k, sized k → s.ev.req.op = .read k ∨ (∃ data, s.ev.req.op = .write data ∧ data.length = k) →
          p.inLim.toNat ≤ off → exec .incomingRequest s = .next (answer s n 2 []))
        ∧ (off < p.inLim.toNat → access .incomingRequest n va sized
          ∧ ∀ op dbl b c a l, s.ev.req.op = .atomic op dbl b c → Amo.ofNum op = some a →
            let w := if dbl then 8 else 4
            va % w = 0 → s.spots (portDie n) .atomic va w = .ok l → s.spotPoison l = none → portOf l = none →
            let old := s.spotBytes l
            let u := match (a.apply .rne w (wordOfBytes old) b c).1 with
              | some v => s.writeAt (hereWrites (l.zip (bytesOfNat w v.toNat)))
              | none => s
            exec .incomingRequest s = .next (answer u n 0 old)))
      ∧ (let core := (off - 0xFF00000000) / 512
        let gone := coreDie core ≠ portDie n ∧ (s.die (coreDie core)).stopped = true
        inTraffic n → 0xFF00000000 ≤ off →
        (off % 512 ≠ 0 ∨ s.coreMapped core = false ∨ gone → ∀ data, s.ev.req.op = .write data →
          exec .incomingRequest s = .next (answer s n 2 []))
        ∧ (off % 512 = 0 → s.coreMapped core = true → ¬ gone → (∀ op dbl b c, s.ev.req.op ≠ .atomic op dbl b c) →
        ∀ m, peerMessage core (opBytes s.ev.req.op) = some m →
          (∀ u, s.accept m = some u → exec .incomingRequest s = .next (answer u n 0 []))
          ∧ (s.accept m = none → exec .incomingRequest s = .next (answer s n 1 [])))))
    ∧ pcie .hostRequest 8 ∧ pcie .storageDma 9

/-! ### Kernels -/

/-- R82 to R86, R240, R409: a command word written by the owner is carried out and answered once, to the event core of
its partition: FORMAT for a form that is not its own, KNUM for a number that no kernel has. LOAD makes a Loaded kernel,
whose contexts are Dormant on its cores, its code and data written and its region image laid out on every core, or
answers the first check that fails; LAUNCH sends the launch messages of a launch record of a Loaded kernel, and answers
FORMAT to any other record and to a payload that cannot be read (log entry 50), and KSTATE to any other state; ABORT,
once no deque names a context of the kernel, frees its contexts and entries, and it is Aborted. The model's own choices
and readings, log entries 19, 26 and 50, enter here. -/
def Obligations.KernelCommands : Prop :=
  ∀ (s : State) (id : BitVec 8), s.ev.who = .outside id → s.ev.flag = false →
    let p := s.ev.unit
    let c := s.ev.cmd
    let w := s.part p
    let answered := fun (code : Nat) => { s with mgmt := { s.mgmt with stat := s.mgmt.stat.put id.toNat code } }
    let u := answered 0
    let rows : List (Instr × Nat) := [(.kernelLoad, 1), (.kernelLaunch, 2), (.kernelAbort, 3), (.kernelPreempt, 4), (.kernelResume, 5)]
    let replied := fun (t : State) (status : Nat) =>
      Sent t (deviceMsg 3 (partMtag w) (partEvcore w) (partEvcore w) 0 status (bytesOfWord 0))
    let only := fun (row : Instr) (status : Nat) => ∃ t, exec row s = .next t ∧ t = timeless u t ∧ replied t status
    (∀ x ∈ rows, (s.ownedBy (.outside id) = false → exec x.1 s = .next (answered 5))
      ∧ (s.ownedBy (.outside id) = true → partV w = false → exec x.1 s = .next (answered 4)))
    ∧ (s.ownedBy (.outside id) = true → partV w = true →
      (∀ x ∈ rows, kcmdFormOk x.2 c = false → only x.1 1)
      ∧ (∀ x ∈ rows, 1 < x.2 → kcmdFormOk x.2 c = true → u.kernelOf p (kcmdNum c) = none → only x.1 9)
      ∧ (kcmdFormOk 1 c = true →
        let code := field c.w2 51 0
        let found := u.imageOf (field c.w1 47 0) code (field c.w3 51 0)
        (found = none → only .kernelLoad 1)
        ∧ ∀ im, found = some im →
          (∀ n, u.placementFails im.place = some n → only .kernelLoad n)
          ∧ (u.placementFails im.place = none →
            (u.kernelOf p (kcmdNum c) ≠ none → only .kernelLoad 9)
            ∧ ∀ r l s0 s1, u.kernelOf p (kcmdNum c) = none → im.place.recs = r :: l →
              let data := im.data.getD []
              u.writeSegment (coreDie r.core) (im.code.length + 1) code im.code = (s0, .ok ()) →
              s0.writeSegment (coreDie r.core) (data.length + 1) (field c.w3 51 0) data = (s1, .ok ()) →
              ∃ t, exec .kernelLoad s = .next t ∧ replied t 0 ∧ t.nextKid = s1.nextKid + 1
                ∧ (im.image = none → t.mem = s1.mem)
                ∧ (∀ b, im.image = some b → ∀ x ∈ im.place.recs, ∀ j, j < b.length →
                    t.readByte (spadBase x.core + field im.place.w2 19 0 + j) = b.getD j 0)
                ∧ t.kernels.find? s1.nextKid = some (im.kernel p (kcmdNum c) code)
                ∧ (im.kernel p (kcmdNum c) code).state = .loaded
                ∧ (∀ x ∈ im.place.recs, ∀ n, t.ctxAt { core := x.core, ctx := n } =
                    if n ∈ (s1.core x.core).freeCtxs.take x.nctx then
                      (s1.ctxAt { core := x.core, ctx := n }).allocated s1.nextKid
                    else s1.ctxAt { core := x.core, ctx := n })
                ∧ ∀ n, n ∉ im.place.recs.map (·.core) → t.core n = s1.core n))
      ∧ (kcmdFormOk 2 c = true → ∀ kid k, u.kernelOf p (kcmdNum c) = some (kid, k) →
        let found := k.tags.find? fun r => r.tag == field c.w3 43 32
        (found = none → only .kernelLaunch 1)
        ∧ ∀ r, found = some r → (r.launch = false → only .kernelLaunch 1)
          ∧ (r.launch = true → k.state ≠ .loaded → only .kernelLaunch 11)
          ∧ (r.launch = true → k.state = .loaded → s.rawOk (field c.w2 47 0) (field c.w3 8 0) = false → only .kernelLaunch 1)
          ∧ (r.launch = true → k.state = .loaded → s.rawOk (field c.w2 47 0) (field c.w3 8 0) = true →
            let cores := ((k.cores.drop r.first).take r.count).map (·.core)
            ∃ t, exec .kernelLaunch s = .next t ∧ replied t 0 ∧ t.mem = s.mem ∧ t.cores = s.cores
              ∧ t.kernels = s.kernels.put kid { k with state := .launched, launching := cores }
              ∧ ∀ i core, cores[i]? = some core →
                  Sent t { deviceMsg 0 r.tag core core 0 i (s.readBytes (field c.w2 47 0) (field c.w3 8 0)) with
                    launch := some kid }))
      ∧ (kcmdFormOk 3 c = true → ∀ kid k, u.kernelOf p (kcmdNum c) = some (kid, k) →
        (s.dequeBusy kid k = false →
          ∃ t, exec .kernelAbort s = .next t ∧ replied t 0
            ∧ (∃ k', t.kernels.find? kid = some k' ∧ k'.state = .aborted ∧ k'.cores = [] ∧ k'.part = k.part ∧ k'.num = k.num)
            ∧ ∀ r ∈ k.cores, (∀ n, n < 8 → (s.ctxAt { core := r.core, ctx := n }).kernel = some kid →
                let i := CtxId.mk r.core n
                (∃ c, t.ctxAt i = Context.ended c none .free)
                ∧ ((s.ctxAt i).st ≠ .waiting → (∀ x ∈ s.cores, ∀ y ∈ x.2.ctxs, y.2.heldReqs = [] ∧ y.2.saveReq = none) →
                    t.ctxAt i = (s.ctxAt i).ended none .free))
              ∧ (∀ x ∈ (t.core r.core).tags, x.2.v = true → x.2.kernel ≠ kid)
              ∧ ∀ x ∈ (t.core r.core).inbox, x.2.kernel ≠ kid)
        ∧ (s.dequeBusy kid k = true → ∃ t, exec .kernelAbort s = .next t ∧ t = timeless u t
            ∧ Queued t .kernelAbort { s.ev with flag := true })))

/-- R82, R87 to R89, R223: PREEMPTK of a Running kernel notifies its Ready and Running contexts and, once they have
answered or its grace is over, saves every context, then its barriers, regions, accumulators and ring states, and leaves
it Preempted; a write that faults leaves it Running, the contexts that it took restored. RESUME reads the barriers, the
regions and the accumulators back, and has the contexts that PREEMPTK took restored, whose last one answers it. A
child's contribution reaches its node of the completion tree, which goes on once it has its own and every child's; the
root completes the kernel, or opens the next epoch of a persistent one, once no PREEMPTK is under way or carried out; a
Completing kernel that has drained is Done. The model's own choices and readings, log entries 33, 37 and 50, enter here.
-/
def Obligations.KernelProgress : Prop :=
  (∀ (s u : State) (kid : Nat) (k : Kernel),
      let p := s.ev.unit
      let c := s.ev.cmd
      let w := s.part p
      let replied := fun (t : State) (status : Nat) =>
        Sent t (deviceMsg 3 (partMtag w) (partEvcore w) (partEvcore w) 0 status (bytesOfWord 0))
      (s.ev.flag = true ∧ u = s)
        ∨ (∃ id, s.ev.flag = false ∧ s.ev.who = .outside id ∧ s.ownedBy (.outside id) = true ∧ partV w = true
          ∧ u = { s with mgmt := { s.mgmt with stat := s.mgmt.stat.put id.toNat 0 } }) →
      s.kernelOf p (kcmdNum c) = some (kid, k) →
      (kcmdFormOk 4 c = true →
        let g := field c.w2 31 0
        (k.state ≠ .running ∨ k.save ≠ none → ∃ t, exec .kernelPreempt s = .next t ∧ t = timeless u t ∧ replied t 11)
        ∧ (k.state = .running → k.save = none → s.dequeBusy kid k = true →
          exec .kernelPreempt s = .next (u.nextCycle .kernelPreempt { s.ev with flag := true }))
        ∧ (k.state = .running → k.save = none → s.dequeBusy kid k = false →
          let told := fun (i : CtxId) => g ≠ 0 ∧ i ∈ s.kernelCtxs kid k ∧ ((s.ctxAt i).st = .ready ∨ (s.ctxAt i).st = .running)
          ∃ t v, exec .kernelPreempt s = .next t ∧ t.mem = s.mem ∧ t.mgmt = u.mgmt
            ∧ t.kernels = s.kernels.put kid { k with save := some v }
            ∧ v.area = field c.w1 47 0 ∧ (∀ i, i ∈ v.notice ↔ told i) ∧ v.started = false ∧ v.resume = false ∧ v.since = s.clock
            ∧ (g ≠ 0 → Queued t .preemptGraceExpire { unit := kid, num := s.clock })
            ∧ (∀ i, ¬ told i → t.ctxAt i = s.ctxAt i)
            ∧ ∀ i, told i → ((s.ctxAt i).inFlight = true → t.ctxAt i = { s.ctxAt i with noticed := true })
              ∧ ((s.ctxAt i).inFlight = false →
                t.ctxAt i = ({ s.ctxAt i with noticed := false }).trapped (s.ctxAt i).pc { code := 0x165, async := true })))
      ∧ (kcmdFormOk 5 c = true →
        let image := s.readImage 0 false (field c.w1 47 0) k.blockSize
        let ready := fun (v : KSave) =>
          (∀ i ∈ v.taken, s.imageReady i = true) ∧ ∀ r ∈ k.cores, s.coreMapped r.core = true
        (k.state ≠ .preempted → ∃ t, exec .kernelResume s = .next t ∧ t = timeless u t ∧ replied t 11)
        ∧ ∀ v, k.state = .preempted → k.save = some v →
          (image = none → ∃ t, exec .kernelResume s = .next t ∧ t = timeless u t ∧ replied t 3)
          ∧ ∀ bytes, image = some bytes →
            (field (wordAt bytes 0) 15 0 ≠ 1 → ∃ t, exec .kernelResume s = .next t ∧ t = timeless u t ∧ replied t 1)
            ∧ (field (wordAt bytes 0) 15 0 = 1 → ¬ ready v →
                ∃ t, exec .kernelResume s = .next t ∧ t = timeless u t ∧ replied t 3)
            ∧ (field (wordAt bytes 0) 15 0 = 1 → ready v →
            ∃ t, exec .kernelResume s = .next t ∧ (v.taken = [] → replied t 0)
              ∧ (k.nodeOut 0 = none → t.kernels.find? kid = some { k with
                  state := .running
                  save := if v.taken = [] then none else some { v with resume := true, images := v.taken, failed := false } })
              ∧ (∀ i ∈ v.taken, (s.ctxAt i).st = .saved → (t.ctxAt i).st = .restoring ∧ Queued t .restoreComplete (evCtx i))
              ∧ (∀ i, i ∉ v.taken → t.ctxAt i = s.ctxAt i)
              ∧ ((k.cores.map (·.core)).Nodup → k.regbase + k.regsize ≤ 2 ^ 20 → ∀ i r, k.cores[i]? = some r →
                  let block := bytes.drop (64 + i * (576 + k.regsize))
                  (∀ n, n < 64 → ((s.core r.core).bar n).kernel = some kid → (t.core r.core).bar n = barOf kid (wordAt block n))
                  ∧ (∀ n, n < 4 → (t.gbarAt r.core kid n).gen = (wordAt block (64 + n)).extractLsb' 16 16
                      ∧ (t.gbarAt r.core kid n).arv = (wordAt block (64 + n)).getLsbD 3)
                  ∧ ∀ j, j < k.regsize → t.readByte (spadBase r.core + k.regbase + j) = block.getD (576 + j) 0)
              ∧ ∀ n ∈ k.engines, ∀ i, i < accDim n * accDim n →
                  let at_ := 64 + k.cores.length * (576 + k.regsize)
                    + ((k.engines.takeWhile (· != n)).map fun m => 4 * accDim m * accDim m + ringStateSize).sum
                  (t.engine n).acc.get 0 i = BitVec.ofNat 32 (natOfBytes ((bytes.drop (at_ + 4 * i)).take 4)))))
  ∧ (∀ (s : State) (k : Kernel) (v : KSave),
      let kid := s.ev.unit
      s.kernels.find? kid = some k → k.save = some v →
      (v.started = false → v.resume = false →
        (v.since = s.ev.num → exec .preemptGraceExpire s =
          .next { s with kernels := s.kernels.put kid { k with save := some { v with notice := [] } } })
        ∧ (v.since ≠ s.ev.num → exec .preemptGraceExpire s = .next s)
        ∧ (k.state = .running → s.noticesAnswered v = true → (∀ i ∈ s.kernelCtxs kid k, (s.die (coreDie i.core)).stopped = false) →
          ∃ t v', exec .kernelSaveStart s = .next t
            ∧ t.kernels.find? kid = some { k with save := some v' }
            ∧ v' = { v with started := true, images := v'.images, taken := v'.images }
            ∧ ∀ i ∈ s.kernelCtxs kid k, let st := (s.ctxAt i).st
                (st ≠ .free → st ≠ .saved → i ∈ v'.images)
                ∧ (st = .ready ∨ st = .running ∨ st = .waiting ∨ st = .trapped → s.holdsSave i = false →
                    (t.ctxAt i).st = .saving ∧ Queued t .saveComplete (evCtx i))))
      ∧ (s.saveEnding kid k = true →
        let w := s.part k.part
        let replied := fun (t : State) (status : Nat) =>
          Sent t (deviceMsg 3 (partMtag w) (partEvcore w) (partEvcore w) 0 status (bytesOfWord 0))
        let written := if k.cores.all (fun r => s.coreMapped r.core) then s.writeImage 0 false v.area (s.kernelBlock kid k) else none
        (∀ s', v.failed = false → written = some s' → ∃ t, exec .kernelSaveDone s = .next t ∧ replied t 0 ∧ t.mem = s'.mem
          ∧ (∃ k', t.kernels.find? kid = some k' ∧ k'.state = .preempted ∧ k'.save = some v ∧ k'.cores = k.cores)
          ∧ (∀ i, t.ctxAt i = s.ctxAt i)
          ∧ ∀ n ∈ k.engines, ∀ x ∈ (t.engine n).queue, s.cmdOf kid x = false)
        ∧ (v.failed = true ∨ written = none → k.nodeOut 0 = none → ∃ t, exec .kernelSaveDone s = .next t ∧ replied t 3
          ∧ t.mem = s.mem ∧ t.kernels.find? kid = some { k with save := none }
          ∧ (∀ i, i ∉ v.taken → t.ctxAt i = s.ctxAt i)
          ∧ ∀ i ∈ v.taken, ∀ x, (s.ctxAt i).st = .saved → (s.ctxAt i).image = some x →
              (t.ctxAt i).st = .restoring ∧ Queued t .restoreComplete (evCtx i))))
  ∧ (∀ (s : State) (k : Kernel), s.kernels.find? s.ev.unit = some k →
      let kid := s.ev.unit
      (s.drained kid k = false → exec .kernelDrainDone s = .next s)
      ∧ (s.drained kid k = true → ∃ t k', exec .kernelDrainDone s = .next t ∧ t.kernels.find? kid = some k'
          ∧ k'.state = .done ∧ k'.cores = [] ∧ k'.complete = k.complete
          ∧ ∀ r ∈ k.cores, ∀ n, n < 8 → (s.ctxAt { core := r.core, ctx := n }).kernel = some kid →
              let i := CtxId.mk r.core n
              (∃ c, t.ctxAt i = Context.ended c none .free)
              ∧ ((∀ x ∈ s.cores, ∀ y ∈ x.2.ctxs, y.2.heldReqs = [] ∧ y.2.saveReq = none) →
                  t.ctxAt i = (s.ctxAt i).ended none .free))
      ∧ (∀ x, s.ev.num ≠ 0 → (k.tree.get {} s.ev.num).out = some x →
        let i := s.ev.sub
        let n := k.tree.get {} i
        let k1 := { k with tree := k.tree.put i { n with kids := n.kids.put s.ev.num x } }
        (k1.nodeOut i = none → exec .treeCombine s = .next { s with kernels := s.kernels.put kid k1 })
        ∧ ∀ y, k1.nodeOut i = some y →
          (i ≠ 0 → n.out = none → ∃ t, exec .treeCombine s = .next t ∧ t.mem = s.mem ∧ t.cores = s.cores
            ∧ (∃ k2, t.kernels.find? kid = some k2 ∧ (k2.tree.get {} i).out = some y)
            ∧ Queued t .treeCombine { unit := kid, sub := (i - 1) / 4, num := i })
          ∧ (i = 0 → k.paused = true → exec .treeCombine s = .next { s with kernels := s.kernels.put kid k1 })
          ∧ (i = 0 → k.paused = false → k.pers = false ∨ y.final = true → ∃ t, exec .treeCombine s = .next t ∧ t.mem = s.mem ∧ t.cores = s.cores
            ∧ t.kernels.find? kid = some { k with tree := [], state := .completing, complete := some y.word })
          ∧ (i = 0 → k.paused = false → k.pers = true → y.final = false → ∃ t, exec .treeCombine s = .next t ∧ t.mem = s.mem ∧ t.cores = s.cores
            ∧ t.kernels.find? kid = some { k with tree := [], epoch := k.epoch + 1 }
            ∧ ∀ r ∈ k.cores, Sent t (deviceMsg 3 k.eptag r.core ((k.cores.head?.map (·.core)).getD 0) 0 k.epoch
                (bytesOfWord (at_ 0 y.word.toNat ||| at_ 32 y.count))))))

/-! ### The Kiln -/

/-- R108 to R111, R114, R339: the command at the head of a die's Kiln queue is checked for its form, its home and its
region's state, and carried out: ACTIVATE, MARK, EVAC, RELEASE and FREE change the state and the color of the region as
the commands say, and each is answered under its tag with its status and the next one begun, but for a MARK, which ends
later (KilnWork), and an EVAC that is accepted, which is answered with its last move. EVAC as an instruction plans an
evacuation the same way, and says in pd whether it was accepted. The model's own choices and readings, log entries 4 and
52, enter here. -/
def Obligations.KilnCommands : Prop :=
  (∀ (s : State) (c : Cmd4) (q : List Cmd4),
      let d := s.ev.unit
      let ag := Agent.die d
      let r := kilnRegion c
      (s.die d).kilnQ = c :: q → s.ev.cmd = c →
      let next := fun (t : State) => ∀ x, q.head? = some x → Queued t (kilnRow x) { unit := d, cmd := x }
      let done := fun (row : Instr) (u : State) (status : Nat) =>
        ∃ t, exec row s = .next t ∧ t.mem = u.mem ∧ t.cores = s.cores ∧ (t.die d).kilnQ = q ∧ next t
          ∧ Sent t (kilnDone (kilnTag c) (kilnCore c) r status 0)
      (∀ x ∈ [(Instr.kilnActivate, 1, 0), (.kilnMark, 2, 1), (.kilnEvac, 3, 1), (.kilnRelease, 4, 4), (.kilnFree, 5, 1)],
        (kilnFormOk c = false ∨ kilnOp c ≠ x.2.1 → done x.1 s 2)
        ∧ (kilnFormOk c = true → kilnOp c = x.2.1 → ∀ w0, s.regionWord ag r 0 = .ok w0 →
          (rgHome w0 ≠ d → done x.1 s 3) ∧ (rgHome w0 = d → rgState w0 ≠ x.2.2 → done x.1 s 1)))
      ∧ (kilnFormOk c = true → ∀ w0, s.regionWord ag r 0 = .ok w0 → rgHome w0 = d →
        (kilnOp c = 1 → rgState w0 = 0 → ∀ w1 u v, s.regionWord ag r 1 = .ok w1 →
          s.setRegionWord ag r 1 (setField w1 31 0 0) = .ok u → u.setRegionWord ag r 0 (rgTo w0 1 1) = .ok v →
          done .kilnActivate v 0)
        ∧ (kilnOp c = 2 → rgState w0 = 1 → ∀ u, s.setRegionWord ag r 0 (rgTo w0 2 (rgColor w0)) = .ok u →
          ∃ t, exec .kilnMark s = .next t ∧ t.mem = u.mem ∧ t.cores = s.cores ∧ (t.die d).kilnQ = c :: q
            ∧ (t.die d).marks = { sid := spaceSid (s.die d).space, region := r, cmd := c, seen := [], fresh := [] } :: (s.die d).marks
            ∧ Queued t .markDone { unit := d })
        ∧ (kilnOp c = 3 → rgState w0 = 1 →
          (s.planEvac ag r (kilnTag c) (kilnCore c) = .ok none → done .kilnEvac s 4)
          ∧ ∀ u, s.planEvac ag r (kilnTag c) (kilnCore c) = .ok (some u) → d = rgHome w0 →
              ∃ t, exec .kilnEvac s = .next t ∧ t.mem = u.mem ∧ (t.die d).kilnQ = (u.die d).kilnQ.drop 1
                ∧ (t.die d).evacs = (u.die d).evacs)
        ∧ (kilnOp c = 4 → rgState w0 = 4 → ∀ w2 u v, s.regionWord ag r 2 = .ok w2 →
          s.setRegionWord ag r 2 (setField w2 51 0 (kilnAddr c)) = .ok u →
          u.setRegionWord ag r 0 (rgTo w0 1 (rgColor w0)) = .ok v → done .kilnRelease v 0)
        ∧ (kilnOp c = 5 → rgState w0 = 1 →
          let pinned := ∃ x ∈ s.pins, x.1 = spaceSid (s.die d).space ∧ x.2.1 / 2 ^ 26 = r ∧ (s.pinnedSize ag x.2.1 x.2.2).isSome
          (pinned → done .kilnFree s 1)
          ∧ (¬ pinned → ∀ u, s.setRegionWord ag r 0 (rgTo w0 0 0) = .ok u → done .kilnFree u 0))))
  ∧ (∀ (s : State) (h : Hdr) (d a b : Fld) (w0 : Word), dstOk .p d = true → Enabled s h [gs a, gs b] →
      let ag := Agent.core s.cur.core
      let r := field (s.ctx.srcG a) 17 0
      s.regionWord ag r 0 = .ok w0 →
      let plan := s.planEvac ag r (field (s.ctx.srcG b) 43 32) (field (s.ctx.srcG b) 12 0)
      (rgState w0 ≠ 1 ∨ rgEvok w0 = false ∨ plan = .ok none → Writes (.evac h d a b) s h 4 .p d 0)
      ∧ ∀ u, rgState w0 = 1 → rgEvok w0 = true → plan = .ok (some u) →
          ∃ t, exec (.evac h d a b) s = .next t ∧ OnlyContext u t ∧ Gave u t.ctx h 4 [(.p, d, ofMask 0xFFFF)])

/-- R110, R112, R113, R126, R132 to R134: a mark that ends sets LIVEBYTES and SUSPUSED, returns its region to Active and
answers; the sweep of an evacuation claims the next planned object and has it copied; an object that has been copied has
its entry MOVED and its old header a STUB, its waiters go on, and the last one ends the evacuation; a copy that faults
traps the context of its space that claimed it. A core runs the oldest spark of its queue and counts how it ended; a
built-in evaluation ends with its result in the thunk's place. The model's own choices and readings, log entries 22, 38
and 46, enter here. -/
def Obligations.KilnWork : Prop :=
  (∀ (s : State) (m : Marking) (l : List Marking) (u v z : State) (bytes thunks : Nat) (w0 : Word),
      let d := s.ev.unit
      let ag := s.kilnAgent d m.sid
      (s.die d).marks = m :: l → s.markRegion ag.dieOf m = .ok (u, bytes, thunks) →
      u.setRegionWord ag m.region 4 (at_ 32 (thunks % 2 ^ 32) ||| at_ 0 (bytes % 2 ^ 32)) = .ok v →
      v.regionWord ag m.region 0 = .ok w0 → v.setRegionWord ag m.region 0 (rgTo w0 1 (rgColor w0)) = .ok z →
      ∃ t, exec .markDone s = .next t ∧ t.mem = z.mem ∧ (t.die d).marks = (z.die d).marks.drop 1
        ∧ Sent t (kilnDone (kilnTag m.cmd) (kilnCore m.cmd) m.region 0 (BitVec.ofNat 64 (bytes % 2 ^ 32))))
  ∧ (∀ (s : State) (e : Evac) (g : Nat) (rest : List Nat) (w : Word),
      let d := s.ev.unit
      let sid := s.ev.num
      let ag := s.kilnAgent d sid
      let mine := fun (x : Evac) => x.region == s.ev.sub && x.sid == sid
      (s.die d).evacs.find? mine = some e → e.todo = g :: rest →
      s.vread ag (e.fwd + 8 * g) = .ok w →
      let goes := fun (t : State) => exec .kilnSweep s = .next t ∧ t.cores = s.cores
        ∧ (t.die d).evacs.find? mine = some { e with todo := rest }
      (fwdState w ≠ 1 → ∃ t, goes t ∧ t.mem = s.mem ∧ Queued t .kilnSweep s.ev)
      ∧ ∀ u, fwdState w = 1 → s.vwrite ag (e.fwd + 8 * g) (mkFwd 2 0 (fwdOff w)) = .ok u →
          ∃ t, goes t ∧ t.mem = u.mem
            ∧ Queued t .objectCopyDone { unit := s.ev.sub, sub := g, num := d, flag := true, w0 := BitVec.ofNat 64 sid })
  ∧ (∀ (s : State) (w2 e : Word),
      let region := s.ev.unit
      let gran := s.ev.sub
      let ag := if s.ev.flag then s.kilnAgent s.ev.num s.ev.w0.toNat else Agent.core s.ev.num
      let sid := s.sidOf ag
      let waits := fun (i : CtxId) (claim : Option Word) => (s.ctxAt i).stall = some (.copy region gran claim)
      s.regionWord ag region 2 = .ok w2 → s.vread ag (fwdAddr w2 gran) = .ok e → fwdState e = 2 →
      (∀ u size, s.moveObject ag region gran = .ok (u, size) →
        ∃ t, exec .objectCopyDone s = .next t ∧ (∀ i b, waits i b → t.ctxAt i = { s.ctxAt i with stall := none })
          ∧ (∀ i, (∀ b, ¬ waits i b) → t.ctxAt i = s.ctxAt i)
          ∧ (s.ev.flag = true → Queued t .kilnSweep { unit := s.ev.num, sub := region, num := sid })
          ∧ ∀ d x d' x', u.evacOf sid region = some (d, x) →
              (u.setEvac d { x with left := x.left.erase gran, todo := x.todo.erase gran, moved := x.moved + size }).evacOf sid region
                = some (d', x') →
              let agd := u.kilnAgent d' sid
              (x'.left ≠ [] → x'.todo ≠ [] → t.mem = u.mem)
              ∧ (x'.left = [] → x'.sent = false → ∀ w0 z, u.regionWord agd region 0 = .ok w0 →
                  u.setRegionWord agd region 0 (rgTo w0 4 (rgColor w0)) = .ok z →
                  t.mem = z.mem ∧ Sent t (kilnDone x'.tag x'.core region 0 x'.payload)))
      ∧ (∀ k, s.moveObject ag region gran = .error (.trap k) → s.ev.flag = false →
        ∃ t, exec .objectCopyDone s = .next t
          ∧ (∀ i h, waits i (some h) → s.sidOf (.core i.core) = sid → t.ctxAt i = (s.ctxAt i).trapped (s.ctxAt i).pc { k with acc := 7, objk := 1, obj := h })
          ∧ ∀ i, waits i none → t.ctxAt i = { s.ctxAt i with stall := none }))
  ∧ (∀ (s : State) (n : Nat) (x : Word) (l : List Word),
      let core := s.ev.unit
      let ends := fun (u : State) (lo : Nat) => exec .sparkRun s =
        .next (u.modCore core fun k => { k with sparge := l, spk := spkCount k.spk lo })
      s.sparkCtx core = some n → (s.core core).sparge = x :: l →
      (∀ k, s.barrier (.core core) x = .error (.trap k) → ends s 16)
      ∧ (∀ t, s.barrier (.core core) x = .ok t → hdrKind t.hdr ≠ 1 → ends s 16)
      ∧ (∀ t op u, s.barrier (.core core) x = .ok t → hdrKind t.hdr = 1 → s.objWord (.core core) t.handle 1 = .ok op →
          opCode op = opCLOSURE → s.vwrite (.core core) (hAddr t.handle) (setField t.hdr 39 39 0) = .ok u → ends u 32))
  ∧ (∀ (s : State) (x : Claim) (rest : List Chain) (t : Target) (ws : List Word) (ts : List Target) (r : List Byte × Flags)
      (u : State),
      let i := s.evId
      let ag := Agent.core i.core
      let s0 := s.setCtxAt i { s.ctxAt i with stall := none }
      (s.ctxAt i).stall = some .eval → (s.ctxAt i).chain = .claim x :: rest → s0.barrier ag x.handle = .ok t →
      s0.objWords ag t.handle 3 3 = .ok ws → s0.valuesOf ag (ws.take (opNarg x.op)) = .ok (some ts) →
      s0.evalTile ag x.op t.hdr ts = .ok r → s0.endTile ag t r.1 = .ok u →
      ∃ v, exec .thunkEvalEnd s = .next v ∧ v.mem = u.mem
        ∧ v.ctxAt i = { (u.ctxAt i).raise r.2 with chain := rest, effects := true })

/-! ### Translation and migration -/

/-- R147, R154 to R157: a walk that ends leaves its leaf in the cache of its core and in that of its cluster, and a
request that a stale leaf has sent drops it in both. A migration command is checked as its rules say and answered with
the first check that fails, or sets MIG in the leaf and has the home queue the frame's requests, once its page no longer
redirects; when the frame has been streamed it is copied and the leaf names it, unless a line is poisoned or software
has changed the leaf: then MIG goes where it still stands and no other migration streams on that leaf. The queue is
applied where the frame is, its first request in its turn; once no cache holds the page the redirect ends and the
command is DONE. The model's own choices and readings, log entries 17, 36 and 38, enter here. -/
def Obligations.TranslationAndMigration : Prop :=
  (∀ (s : State),
      let id := s.ev.unit
      let sid := spaceSid (s.coreSpace id)
      let va := s.ev.w0.toNat
      let cluster := coreEngine id
      let shared := s.clusters.get [] cluster
      let matches_ := fun (e : TlbEnt) => e.sid = sid ∧ e.page = va / 2 ^ e.bits
      let fills := fun (n : Nat) (e : TlbEnt) (old new : List TlbEnt) =>
        (leafFor old sid va ≠ none → new = old) ∧ (leafFor old sid va = none → new = (e :: old).take n)
      let walked := fun (e : TlbEnt) => ∃ t, exec .walkDone s = .next t
        ∧ t = { s with cores := t.cores, clusters := t.clusters }
        ∧ (∀ n, n ≠ id → t.core n = s.core n) ∧ t.core id = { s.core id with tlb := (t.core id).tlb }
        ∧ fills 64 e (s.core id).tlb (t.core id).tlb
        ∧ (∀ n, n ≠ cluster → t.clusters.get [] n = s.clusters.get [] n) ∧ fills 1024 e shared (t.clusters.get [] cluster)
      (∀ e, leafFor shared sid va = some e → walked e)
      ∧ (leafFor shared sid va = none →
        (∀ l, s.walk (coreDie id) (s.coreSpace id) va = .ok l → walked { sid, page := va / 2 ^ l.bits, bits := l.bits, pte := l.pte })
        ∧ ∀ e, s.walk (coreDie id) (s.coreSpace id) va = .error e → exec .walkDone s = .next s)
      ∧ ∃ t, exec .staleRequestForward s = .next t ∧ t = { s with cores := t.cores, clusters := t.clusters }
        ∧ (∀ n, t.core n = { s.core n with tlb := (t.core n).tlb })
        ∧ (∀ n e, e ∈ (t.core n).tlb ↔ e ∈ (s.core n).tlb ∧ ¬ (n = id ∧ matches_ e))
        ∧ (∀ n e, e ∈ t.clusters.get [] n ↔ e ∈ s.clusters.get [] n ∧ ¬ (n = cluster ∧ matches_ e)))
  ∧ (∀ (s : State),
      let d := s.ev.unit
      let c := s.ev.cmd
      let q : Migration := { cmd := c, leafAt := 0, leaf := 0, phase := 0, poison := false }
      (s.die d).migs.contains q = true →
      let ended := fun (status : Nat) => ∃ t, exec .migrationCommand s = .next t ∧ t.mem = s.mem ∧ t.cores = s.cores
        ∧ (t.die d).migs = (s.die d).migs.erase q ∧ Sent t (migMsg c status)
      (migFormOk c = false → ended 7)
      ∧ (migFormOk c = true → s.spaceOf d (migSid c) = none → ended 1)
      ∧ (∀ space, migFormOk c = true → s.spaceOf d (migSid c) = some space →
        (∀ e, s.walk d space (migPage c * 0x10000) = .error e → ended 1)
        ∧ ∀ l, s.walk d space (migPage c * 0x10000) = .ok l →
          let dest := migDest c
          let frame := pteAddr l.pte / 0x10000
          let bad := isHbm (dest * 0x10000) = false ∨ dest = frame ∨ s.frameBusy dest = true
          (l.bits ≠ 16 → ended 1) ∧ (l.bits = 16 → ptePn l.pte = true → ended 2)
          ∧ (l.bits = 16 → ptePn l.pte = false → pteMig l.pte = true → ended 3)
          ∧ (l.bits = 16 → ptePn l.pte = false → pteMig l.pte = false →
            (s.frameUnsettled frame = true → ∃ t, exec .migrationCommand s = .next t ∧ t = timeless s t
              ∧ Queued t .migrationCommand s.ev)
            ∧ (s.frameUnsettled frame = false →
              (bad → ended 4)
              ∧ (¬ bad → ∃ t, exec .migrationCommand s = .next t ∧ StoredAt s t l.at_ (bytesOfWord (l.pte ||| bitAt 57 true))
                ∧ (t.die d).migs = { cmd := c, leafAt := l.at_, leaf := l.pte, phase := 1, poison := false } :: (s.die d).migs.erase q
                ∧ t.frames = s.frames.put frame { dest, streaming := true, queue := [] }
                ∧ t.cores = s.cores ∧ Queued t .migrationStreamDone { unit := d, sub := dest })))))
  ∧ (∀ (s : State) (m : Migration),
      let d := s.ev.unit
      let dest := s.ev.sub
      let page := migPage m.cmd
      let src := pteAddr m.leaf
      let frame := src / 0x10000
      s.migOf d dest = some m →
      let ended := fun (row : Instr) (status : Nat) (t : State) => exec row s = .next t
        ∧ (t.die d).migs = (s.die d).migs.erase m ∧ Sent t (migMsg m.cmd status)
      let applied := fun (t : State) (at_ : FrameHold → Nat) => ∀ r, s.frames.find? frame = some r →
        (r.queue = [] → t.frames.find? frame = none)
        ∧ ∀ x l, r.queue = x :: l →
            t.frames.find? frame = some { r with dest := at_ r, streaming := false, turn := some s.clock }
            ∧ ∀ i p, x.asker = .ctx i → (s.ctxAt i).stall = some (.migration frame p) →
                t.ctxAt i = { s.ctxAt i with stall := none }
      (m.phase = 1 →
        let w := s.readWord m.leafAt
        let taken := ∃ x ∈ s.dies, ∃ y ∈ x.2.migs, y.phase = 1 ∧ y.leafAt = m.leafAt ∧ y ≠ m
        let fails := fun (status : Nat) => ∃ t, ended .migrationStreamDone status t ∧ applied t (fun _ => frame)
          ∧ ((pteV w && pteL w && pteMig w) = true ∧ ¬ taken → StoredAt s t m.leafAt (bytesOfWord (w &&& ~~~(bitAt 57 true))))
          ∧ ((pteV w && pteL w && pteMig w) = false ∨ taken → t.mem = s.mem)
        ((∃ i, i < 8192 ∧ s.poisoned (src + 8 * i) = true) → fails 6)
        ∧ ((∀ i, i < 8192 → s.poisoned (src + 8 * i) = false) →
          (w ≠ m.leaf ||| bitAt 57 true → fails 5)
          ∧ (w = m.leaf ||| bitAt 57 true →
            ∃ t, exec .migrationStreamDone s = .next t ∧ t.cores = s.cores
              ∧ (∀ a, t.readByte a =
                  if m.leafAt ≤ a ∧ a < m.leafAt + 8 then (bytesOfWord (movedLeaf m.leaf dest)).getD (a - m.leafAt) 0
                  else if dest * 0x10000 ≤ a ∧ a < dest * 0x10000 + 0x10000 then s.readByte (src + (a - dest * 0x10000))
                  else s.readByte a)
              ∧ { m with phase := 2 } ∈ (t.die d).migs
              ∧ (t.die d).redirs.find? frame = some dest
              ∧ (∀ r, s.frames.find? frame = some r → t.frames.find? frame = some { r with dest, streaming := false })
              ∧ Queued t .redirectNotice { unit := d, sub := dest }
              ∧ Queued t .migrationInvalidationDone { unit := d, sub := dest }
              ∧ ∀ id ∈ s.staleCores (migSid m.cmd) page,
                  Queued t .staleRequestForward { unit := id, w0 := BitVec.ofNat 64 (page * 0x10000) })))
      ∧ (m.phase = 2 →
        (∃ t, exec .redirectNotice s = .next t ∧ applied t (fun r => r.dest) ∧ t.mem = s.mem ∧ t.agenda = s.agenda)
        ∧ ∃ t, ended .migrationInvalidationDone 0 t ∧ t.mem = s.mem
          ∧ (∀ n f g, (t.die n).redirs.find? f = some g ↔ f ≠ frame
              ∧ ∃ g', (s.die n).redirs.find? f = some g' ∧ g = if g' = frame then migDest m.cmd else g')
          ∧ (∀ n e, e ∈ (t.core n).tlb ↔ e ∈ (s.core n).tlb ∧ e.inRange (migSid m.cmd) page 1 = false)
          ∧ ∀ x ∈ s.cores, ∀ e, e ∈ t.clusters.get [] (coreEngine x.1)
              ↔ e ∈ s.clusters.get [] (coreEngine x.1) ∧ e.inRange (migSid m.cmd) page 1 = false))

/-! ### The management block -/

/-- R402, R403, R409 to R411: a write of a management register by the owner takes effect and leaves MGMT.STAT zero, or
leaves its status there with nothing changed; one by any other master outside leaves NOTOWNER. Here SYS.WDOG, ISL.n,
PWR.GUST.d, HEAP.RTBASE with the space it loads, SHT.OUT and KV.RING, whose table is checked when its load ends;
OWN.CLAIM is open to all. The model's own choices and readings, log entries 27, 35 and 50, enter here. -/
def Obligations.ManagementWrites : Prop :=
  (∀ (s : State) (id : BitVec 8), s.ev.who = .outside id →
      let n := s.ev.unit
      let v := s.ev.w0
      let owned := s.ownedBy (.outside id)
      let answered := fun (u : State) (code : Nat) =>
        { u with mgmt := { u.mgmt with stat := u.mgmt.stat.put id.toNat code } }
      let ends := fun (row : Instr) (u : State) (code : Nat) => exec row s = .next (answered u code)
      (owned = false → ∀ row ∈ [Instr.coreTableWrite, .spmoveStart, .kvRingInstall, .shuttleConfigure, .spaceLoad, .sysWdogWrite,
          .islandWrite, .gustTokensWrite, .brewhouseGo, .attestationSign], (row = .brewhouseGo → s.ev.flag = false) → ends row s 5)
      ∧ (owned = true →
        (let x := field v 5 0
         let formed := coreExists n = true ∧ (x = 0 ∨ (10 ≤ x ∧ x ≤ 40))
         (formed → ends .sysWdogWrite (s.setCore n { s.core n with wdog := BitVec.ofNat 6 x }) 0)
         ∧ (¬ formed → ends .sysWdogWrite s 3))
        ∧ (n < 32 →
          let i := s.island n
          let freq := field v 47 36
          let formed := (n < 8 → 250 ≤ freq ∧ freq ≤ 2000 ∧ freq % 125 = 0) ∧ 85 ≤ field v 15 8 ∧ field v 15 8 ≤ 115
            ∧ field v 1 0 ≠ 3
          let holds := field v 1 0 ≠ 1 ∧ n < 24 ∧ s.dieHolds (n % 8) = true
          (¬ formed → ends .islandWrite s 3)
          ∧ (formed → i.state = 3 → ends .islandWrite s 4)
          ∧ (formed → i.state ≠ 3 → holds → ends .islandWrite s 1)
          ∧ (formed → i.state ≠ 3 → ¬ holds → ends .islandWrite
              (s.setIsland n { freq := if n < 8 then freq else i.freq, tlim := field v 15 8, state := field v 1 0 }) 0))
        ∧ (n < 8 →
          let die := s.die n
          (let x := field v 7 0
           (x = 0 ∨ dieClusters n < x → ends .gustTokensWrite s 3)
           ∧ (0 < x → x ≤ dieClusters n → ends .gustTokensWrite (s.setDie n { die with tokens := some x }) 0))
          ∧ ends .spaceLoad (s.setDie n { die with space := die.spaceNew, rtbase := v }) 0
          ∧ (s.shuttleFree n = false → ends .shuttleConfigure s 1)
          ∧ (s.shuttleFree n = true → shtNslot v ≤ 8 → ends .shuttleConfigure (s.setDie n { die with
              shtOut := v &&& ~~~(at_ 52 7) &&& ~~~(at_ 0 0xFFF), shtHeld := BitVec.ofNat 8 (2 ^ shtNslot v - 1) }) 0)
          ∧ (die.ringLoad.isSome = true → ends .kvRingInstall s 1)
          ∧ (die.ringLoad = none → ∃ t, exec .kvRingInstall s = .next t
              ∧ t = (timeless s t).setDie n { die with ringLoad := some v }
              ∧ Queued t .kvRingLoadDone { who := .outside id, unit := n })))
      ∧ (∀ w, (s.die n).ringLoad = some w →
        (s.ringTable w = none → ends .kvRingLoadDone (s.setDie n { s.die n with ringLoad := none }) 3)
        ∧ ∀ l, s.ringTable w = some l → ends .kvRingLoadDone (s.setDie n { s.die n with ringLoad := none, ring := l }) 0)
      ∧ (let expect := field v 15 8
         let new := field v 7 0
         let takes := s.mgmt.owner = expect ∧ ((expect = 0 ∧ new = id.toNat) ∨ (expect ≠ 0 ∧ expect = id.toNat))
         (takes → ends .ownershipClaim { s with mgmt := { s.mgmt with owner := new } } 0)
         ∧ (¬ takes → ends .ownershipClaim s 2)))

/-- R20 to R23: a write of two entries of the core table by the owner is stored, SP following from the position, and a
core whose position changes becomes the copy that was moved there; it is refused where it changes a position without a
move to it, or makes an entry valid at one in use. DIE.SPMOVE starts a move of a held core that is at rest to a spare
and gives the reason where it does not; a move that ends has copied the core, or ends in a fault where a byte or a slot
is poisoned. The model's own choices and readings, log entries 27 and 49, enter here. -/
def Obligations.CoreTableAndSpares : Prop :=
  (∀ (s : State) (id : BitVec 8), s.ev.who = .outside id → s.ownedBy (.outside id) = true →
      let d := s.ev.unit
      let m := s.ev.sub
      let v := s.ev.w0
      let answered := fun (u : State) (code : Nat) =>
        { u with mgmt := { u.mgmt with stat := u.mgmt.stat.put id.toNat code } }
      let core := fun (i : Nat) => d * 1024 + 2 * m + i
      let new : Nat → Word32 := fun i => v.extractLsb' (32 * i) 32
      let moves := fun (i : Nat) => entryPos (new i) ≠ entryPos (s.tableEntry (core i))
      let fails := fun (u : State) (i stat : Nat) => new i ≠ u.tableEntry (core i) ∧
        let used := u.positionUsed d (2 * m + i) (entryPos (new i)) = true
        let stays := entryPos (new i) = entryPos (u.tableEntry (core i))
        let ready := u.coreActive (core i) = false
          ∧ ∃ x, (u.die d).moved.find? (2 * m + i) = some x ∧ x.pos = entryPos (new i)
        (stat = 1 ∧ ¬ stays ∧ ¬ ready) ∨ (stat = 2 ∧ used ∧ ((stays ∧ entryV (new i) = true) ∨ (¬ stays ∧ ready)))
      let first := s.writeEntry d (2 * m) (new 0)
      (d < 8 → m < dieClusters d * 4 →
        (∀ stat, fails s 0 stat → exec .coreTableWrite s = .next (answered s stat))
        ∧ ((∀ stat, ¬ fails s 0 stat) →
          (∀ stat, fails first 1 stat → exec .coreTableWrite s = .next (answered s stat))
          ∧ ((∀ stat, ¬ fails first 1 stat) →
            let stored := fun (t : State) => t.mgmt.stat.find? id.toNat = some 0 ∧ ∀ j, j < 8192 → t.tableEntry j =
              if j = core 0 then entryStored d (new 0) else if j = core 1 then entryStored d (new 1) else s.tableEntry j
            ((∀ i, i < 2 → ¬ moves i) → ∃ t, exec .coreTableWrite s = .next t ∧ stored t ∧ t.mem = s.mem ∧ t.cores = s.cores)
            ∧ ∀ i x, i < 2 → moves i → new (1 - i) = s.tableEntry (core (1 - i)) →
                (s.die d).moved.find? (2 * m + i) = some x → FMap.wf memDefault x.pad = true →
                ∃ t, exec .coreTableWrite s = .next t ∧ stored t
                  ∧ t.core (core i) = { x.core with hold := (s.core (core i)).hold, tlb := [] }
                  ∧ (∀ n, n ≠ core i → t.core n = s.core n)
                  ∧ ∀ a, a < spadBytes d → t.readByte (spadBase (core i) + a) = x.pad.get 0 a)))
      ∧ (d < 8 →
        let old := (s.die d).spmove
        let c := spCore v
        let sets := fun (stat : Nat) => exec .spmoveStart s = .next
          (answered (s.setDie d { s.die d with spmove := spRegister false stat (spSpare v) c }) 0)
        let formed := field v 58 22 = 0 ∧ field v 15 13 = 0 ∧ (isM d = true ∨ spSpare v < 32) ∧ coreDie c = d
          ∧ s.coreMapped c = true
        let still := s.coreHeld c = true ∧ s.coreActive c = false ∧ (s.core c).deque = [] ∧ (s.core c).copies = []
        let used := ∃ x ∈ s.entries d, entryV x.2 = true ∧ entryPos x.2 = sparePos d (spSpare v)
        (spBusy old = true → exec .spmoveStart s = .next (answered s 1))
        ∧ (spBusy old = false → v.getLsbD 63 = true →
          (¬ formed → sets 3) ∧ (formed → ¬ still → sets 1) ∧ (formed → still → used → sets 2)
          ∧ (formed → still → ¬ used → ∃ t, exec .spmoveStart s = .next t
            ∧ t = answered ((timeless s t).setDie d
                { s.die d with spmove := spRegister true (field old 61 59) (spSpare v) c }) 0
            ∧ Queued t .spmoveDone { unit := d }))))
  ∧ (∀ (s : State),
      let d := s.ev.unit
      let w := (s.die d).spmove
      let c := spCore w
      let poisoned := (∃ i, i < spadBytes d / 8 ∧ s.poisoned (spadBase c + 8 * i) = true) ∨ ∃ x ∈ (s.core c).inbox, x.2.ecc ≠ []
      (spBusy w = false → exec .spmoveDone s = .next s)
      ∧ (spBusy w = true → poisoned → exec .spmoveDone s =
          .next (s.setDie d { s.die d with spmove := spRegister false 4 (spSpare w) c }))
      ∧ (spBusy w = true → ¬ poisoned → ∃ t, exec .spmoveDone s = .next t ∧ OnlyDie s t d ∧ t.mem = s.mem
          ∧ (t.die d).spmove = spRegister false 0 (spSpare w) c
          ∧ ∃ x, (t.die d).moved.find? (c % 1024) = some x ∧ x.pos = sparePos d (spSpare w) ∧ x.core = s.core c
            ∧ ∀ a, a < spadBytes d → x.pad.get 0 a = s.readByte (spadBase c + a)))

/-- R224 to R227, R405 to R407, R409, R411, R412: boot goes through its phases, in which it verifies its firmware and
stops with ERR 1 or 2 where it does not pass; Brewhouse runs in phase 3 alone, and starts a partition whose image
passes, or sets ERR 3; ATT.CTL signs a report under the next index, until none is left. A request over PCIe, over I3C or
from a partition reads or writes a register, and is answered. A corrected error is counted, an uncorrected one poisons
its 64 bits too, those of a register, of the distance history or of a leaf where they are, or is fatal in a control
core. A temperature above TLIM, or the supply, stops a die: its islands then read 3, their states are kept for the dump,
the owner is told on both ways, and a context of another die that waits for a save there traps. Package reset leaves the
machine as after reset. The model's own choices and readings, log entries 10, 26, 27, 35, 39, 40 and 48, enter here. -/
def Obligations.BootAndErrors : Prop :=
  (∀ (s : State),
      let image := s.ev.data
      let signed := Config.firmwareSigned image = true
      let fresh := Config.fusedCounter ≤ (Config.firmwareVersion image).toNat
      let mgmt := fun (m : Mgmt) => exec .firmwareVerify s = .next { s with mgmt := m }
      (s.mgmt.phase = 0 → ∃ t, exec .firmwareVerify s = .next t
          ∧ t = { timeless s t with mgmt := { s.mgmt with phase := 1 } } ∧ Queued t .firmwareVerify s.ev)
      ∧ (s.mgmt.phase = 1 → ¬ signed → mgmt { s.mgmt with err := 1, phase := 0xFF })
      ∧ (s.mgmt.phase = 1 → signed → ¬ fresh → mgmt { s.mgmt with err := 2, phase := 0xFF })
      ∧ (s.mgmt.phase = 1 → signed → fresh → ∃ t, exec .firmwareVerify s = .next t ∧ OnlyMgmt (timeless s t) t
          ∧ t.mgmt = { s.mgmt with phase := 2, fwver := Config.firmwareVersion image, firmware := image, islands := t.mgmt.islands }
          ∧ (∀ n, t.island n = if n < 28 then { s.island n with state := 1 } else s.island n) ∧ Queued t .firmwareVerify s.ev)
      ∧ (s.mgmt.phase = 2 → mgmt { s.mgmt with phase := 3 })
      ∧ (2 < s.mgmt.phase → exec .firmwareVerify s = .next s))
  ∧ (∀ (s : State) (id : BitVec 8), s.ev.who = .outside id → s.ownedBy (.outside id) = true →
      let answered := fun (u : State) (code : Nat) =>
        { u with mgmt := { u.mgmt with stat := u.mgmt.stat.put id.toNat code } }
      let m := s.mgmt
      (s.ev.flag = false →
        (m.phase ≠ 3 → exec .brewhouseGo s = .next (answered s 4))
        ∧ (m.phase = 3 → (∀ p, p < 8 → partV (s.part p) = false) →
          exec .brewhouseGo s = .next (answered { s with mgmt := { m with phase := 4 } } 0))
        ∧ ∀ p, m.phase = 3 → p < 8 → (∀ q, q < 8 → (partV (s.part q) = true ↔ q = p)) →
          let pa := field (m.bhImg.get 0 p) 47 0
          let n := s.objectSize pa
          let good := n ≠ 0 ∧ s.rawOk pa (n + 2500) = true
            ∧ Config.xmssVerify (m.key p) (s.readBytes pa n) (s.readBytes (pa + n) 2500) = true
          let (code, data) := s.bootPlaces p pa
          (¬ good → exec .brewhouseGo s = .next (answered { s with mgmt := { m with err := 3, phase := 4 } } 0))
          ∧ (good →
            (∀ u status, s.load p 0 pa code data = .status u status →
              exec .brewhouseGo s = .next (answered { u with mgmt := { u.mgmt with err := 3, phase := 4 } } 0))
            ∧ ∀ u kid k, s.load p 0 pa code data = .made u kid → u.kernels.find? kid = some k →
              ∃ t, exec .brewhouseGo s = .next t ∧ t.mem = u.mem ∧ t.resident.find? p = some kid
                ∧ t.mgmt = { u.mgmt with
                    phase := 4, digests := u.mgmt.digests.put p (shake256 (s.readBytes pa n)), stat := u.mgmt.stat.put id.toNat 0 }
                ∧ (∀ off, u.trapvecOf pa = some off → ∀ r ∈ k.cores,
                    (t.core r.core).trapVec = BitVec.ofNat 64 ((code + off) % 2 ^ 64 / 4 * 4 + 1))
                ∧ (k.tags.find? TagRec.launch = none → t.kernels.find? kid = some k)
                ∧ ∀ r, k.tags.find? TagRec.launch = some r →
                    let cores := ((k.cores.drop r.first).take r.count).map fun x => x.core
                    t.kernels.find? kid = some { k with state := .launched, launching := cores }
                    ∧ ∀ i c, cores[i]? = some c → Sent t { deviceMsg 0 r.tag c c 0 i [] with launch := some kid }))
      ∧ (s.ev.w0 = 1 →
        (2 ^ 20 ≤ m.attIndex → exec .attestationSign s = .next (answered s 6))
        ∧ (m.attIndex < 2 ^ 20 → exec .attestationSign s = .next (answered { s with mgmt := { m with
            attIndex := m.attIndex + 1
            attBuf := m.report ++ (Config.xmssSign m.attIndex m.report ++ List.replicate 2820 0).take 2820 } } 0)))
      ∧ (∀ n, n < 8192 → coreExists n = true →
        let x := field s.ev.w1 5 0
        x = 0 ∨ (10 ≤ x ∧ x ≤ 40) → s.ev.w0.toNat = 0x011002000000 + n * 0x1000 + 0x110 →
        exec .mgmtRegisterWrite s = .next (answered (s.setCore n { s.core n with wdog := BitVec.ofNat 6 x }) 0)))
  ∧ (∀ (s : State), s.mgmt.phase ≠ 0xFF →
      let r := mregOf (field s.ev.w0 47 0)
      let bar := ∃ a, r = .bar a
      let reads := fun (row : Instr) (who : Master) (out : Word → Out) => s.ev.flag = false → ¬ bar →
        exec row s = .next { s with fresh := s.fresh + 1,
                                    out := s.out ++ [out (s.readReg who r)] }
      let writes := fun (row : Instr) (id : BitVec 8) (out : Nat → Out) => s.ev.flag = true → ¬ bar → ∀ u code,
        s.mgmtWrite (.outside id) r s.ev.w1 = (u, some code) →
        exec row s = .next { u with mgmt := { u.mgmt with stat := u.mgmt.stat.put id.toNat code }, out := u.out ++ [out code] }
      let i3c := BitVec.ofNat 8 (0x80 + s.ev.num % 128)
      ((s.port 8).hears = false → exec .mgmtVdmRequest s = .next s)
      ∧ ((s.port 8).hears = true →
        reads .mgmtVdmRequest (.outside 1) (.vdm 0) ∧ writes .mgmtVdmRequest 1 (.vdm · 0))
      ∧ reads .i3cTransfer (.outside i3c) (.i3c 0) ∧ writes .i3cTransfer i3c (.i3c · 0)
      ∧ (∀ a, r = .bar a → s.ev.flag = false → (s.port 9).carries = false → s.brought 9 a = none →
        exec .i3cTransfer s = .next { s with out := s.out ++ [.i3c 4 0] })
      ∧ ∀ p core ctx, s.ev.who = .part p core ctx →
        let w := s.part p
        let replied := fun (t : State) (status : Nat) (x : Word) =>
          Sent t (deviceMsg 3 (partMtag w) (partEvcore w) (partEvcore w) 0 status (bytesOfWord x))
        (s.partOwns p r = false → ∃ t, exec .mgmtRequest s = .next t ∧ t = timeless s t ∧ replied t 5 0)
        ∧ (s.partOwns p r = true → ¬ bar → s.ev.w0.getLsbD 63 = false → ∃ t, exec .mgmtRequest s = .next t ∧ t = timeless s t
          ∧ replied t 0 (s.readReg (.part p core ctx) r))
        ∧ (s.partOwns p r = true → ¬ bar → s.ev.w0.getLsbD 63 = true → ∀ u code,
            s.mgmtWrite (.part p core ctx) r s.ev.w1 = (u, some code) → u.mgmt = s.mgmt →
            ∃ t, exec .mgmtRequest s = .next t ∧ t = timeless u t ∧ replied t code 0))
  ∧ (∀ (s : State),
      let d := s.ev.unit
      let unit := s.ev.w0.toNat
      let log := fun (t : State) (ce ue : Nat) => (t.die d).errLog = at_ 48 (min (field (s.die d).errLog 63 48 + ce) 0xFFFF)
        ||| at_ 40 (min (field (s.die d).errLog 47 40 + ue) 0xFF) ||| at_ 36 (unit % 16) ||| at_ 23 (s.ev.sub % 8192)
      (∃ t, exec .eccCorrected s = .next t ∧ t.mem = s.mem ∧ t.poison = s.poison ∧ log t 1 0)
      ∧ (unit = 0 ∨ unit = 2 ∨ unit = 5 → ∃ t, exec .eccUncorrectable s = .next t ∧ t.mem = s.mem ∧ log t 0 1
          ∧ ∀ a, t.poisoned a = (s.poisoned a || decide (a / 8 = s.ev.num / 8)))
      ∧ (let cls := s.ev.num / 64 % 4
         let r := (cls, s.ev.num % 64, if cls = 1 then s.ev.num / 2048 % 8 else 0)
         let old := (s.core s.ev.sub).ctx (s.ev.num / 256 % 8)
         unit = 1 → r ≠ (0, 0, 0) → r ≠ (3, 0, 0) → ∃ t, exec .eccUncorrectable s = .next t ∧ t.mem = s.mem
          ∧ t.poison = s.poison ∧ log t 0 1 ∧ (t.core s.ev.sub).ctx (s.ev.num / 256 % 8) =
            if s.ev.num % 64 < 56 then { old with ecc := r :: old.ecc }
            else { old with histEcc := (s.ev.num % 64 - 56, s.ev.num / 2048 % 8) :: old.histEcc })
      ∧ (unit = 4 → ∃ t, exec .eccUncorrectable s = .next t ∧ t.mem = s.mem ∧ t.poison = s.poison ∧ log t 0 1
          ∧ (t.core s.ev.sub).tlb = (if s.ev.num < 64 then (s.core s.ev.sub).tlb.modify s.ev.num fun e => { e with ecc := true }
              else (s.core s.ev.sub).tlb)
          ∧ t.clusters.get [] (coreEngine s.ev.sub) = (if s.ev.num < 64 then s.clusters.get [] (coreEngine s.ev.sub)
              else (s.clusters.get [] (coreEngine s.ev.sub)).modify (s.ev.num - 64) fun e => { e with ecc := true }))
      ∧ (6 ≤ unit → ∃ t, exec .eccUncorrectable s = .next t ∧ log t 0 1 ∧ t.cores = s.cores ∧ t.mgmt.fatal = some 0x160)
      ∧ (let trips := fun (row : Instr) (d : Nat) =>
          ((s.die d).stopped = true → exec row s = .next s)
          ∧ ((s.die d).stopped = false → d < 8 → ∃ t, exec row s = .next t ∧ (t.die d).stopped = true
            ∧ (t.die d).before = ([d, 8 + d, 16 + d].map fun n => (s.island n).state)
            ∧ (∀ n ∈ [d, 8 + d, 16 + d], (t.island n).state = 3) ∧ t.mgmt.fatal = some 0x163
            ∧ t.out = s.out ++ [Out.i3cInterrupt d, Out.msix 0 d]
            ∧ ∀ i : CtxId,
                let c := s.ctxAt i
                let fails := i ∈ s.saveAskers d ∧ coreDie i.core ≠ d ∧ ∃ h f, c.stall = some (.save h f)
                (¬ fails → t.ctxAt i = c)
                ∧ (fails → t.ctxAt i = c.trapped c.pc { code := 0x163 } ∧ Queued t .trapModeEntry (evCtx i)))
         (s.ev.unit < 16 ∧ (s.island s.ev.unit).tlim < s.ev.num → trips .thermalTrip (s.ev.unit % 8))
         ∧ (¬ (s.ev.unit < 16 ∧ (s.island s.ev.unit).tlim < s.ev.num) → exec .thermalTrip s = .next s)
         ∧ trips .supplyTrip s.ev.unit)
      ∧ exec .packageReset s = .next { State.reset with fresh := s.fresh, mgmt := { attIndex := s.mgmt.attIndex } })

/-! ### The whole machine -/

/-- Reset (R20, R56, R57, R68, R159, R402, R403, R405, R410 and log entries 1, 5 and 6): memory lists nothing, nothing is on
the agenda, every core is where its id says, every context is Free, every tag is invalid, the ports are Down, the islands of
the dies are off and boot is in phase 0. -/
def Obligations.ResetState : Prop :=
  MemOk State.reset ∧ AgendaOk State.reset ∧ State.reset.mem = []
  ∧ (∀ a, State.reset.readByte a = 0)
  ∧ (∀ id, coreExists id = true →
      State.reset.coreMapped id = true ∧ State.reset.coreHeld id = false
      ∧ entryPos (State.reset.tableEntry id) = id % 1024 ∧ (State.reset.core id).wdog = 0 ∧ (State.reset.core id).trapVec = 0
      ∧ ∀ n, ((State.reset.core id).tags.get {} n).word = 2)
  ∧ (∀ i : CtxId,
      let c := State.reset.ctxAt i
      c.st = .free ∧ (∀ k n, c.reg k n = if k = .p ∧ n = 0 then 0xFFFF else 0) ∧ c.inf = true ∧ c.rm = 0 ∧ c.fflags = 0
      ∧ c.schk = true ∧ c.fdepthLim = 4096 ∧ c.fspill = 0 ∧ c.gprog = 0 ∧ c.lmask = 0xFFFF ∧ c.act = {} ∧ c.trapCause = 0
      ∧ c.trapPc = 0 ∧ c.loops = [] ∧ c.frame = none)
  ∧ (∀ d, d < 8 → let x := State.reset.die d
      x.spmove = 0 ∧ x.space = 0 ∧ x.errLog = 0 ∧ x.shtOut = 0 ∧ x.shtEvt = 0 ∧ x.stopped = false
      ∧ State.reset.tokensOf d = (if isM d then 128 else 56) ∧ x.tokHeld = 0)
  ∧ (∀ n, let p := State.reset.port n
      p.state = .down ∧ p.tmo = 100 ∧ p.rthr = 64 ∧ p.replay = 0 ∧ p.cerr = false ∧ p.ovr = false)
  ∧ (∀ n, n < 32 → State.reset.island n = { freq := 2000, tlim := 105, state := if n < 28 then 0 else 1 })
  ∧ State.reset.mgmt.owner = 0 ∧ State.reset.mgmt.phase = 0 ∧ State.reset.mgmt.err = 0 ∧ State.reset.mgmt.fwver = 0
  ∧ State.reset.mgmt.vwin = 2000 ∧ State.reset.mgmt.pkg = 0

/-- Every step keeps memory in its canonical form and the agenda free of everything but event rows. -/
def Obligations.InvariantKept : Prop :=
  ∀ s t : State, MemOk s → AgendaOk s → step s = .next t → MemOk t ∧ AgendaOk t

/-- No instruction and no event ends a run: a step stops only on an agenda that holds what is no event, which no step
leaves there (InvariantKept). The model's own choice or reading, log entry 7, enters here. -/
def Obligations.StepsGoOn : Prop :=
  ∀ s : State,
    (∀ i : Instr, ∃ t, exec i s = .next t)
    ∧ (step s = .fault .agendaNotEvent ↔ ∃ x, isEvent x.row = false
        ∧ (s.nextDue = some x ∨ (s.nextDue = none ∧ s.nextIssue = none ∧ s.nextLate = some x)))
    ∧ (AgendaOk s → Goes s)

/-- R228 to R231, R242 to R248: the words of a well-formed instruction decode to it, with every operand at every value that
its encoding holds; and words that decode, but for those of HINT, whose unused fields are ignored, are the words of the
instruction that they decode to, which is well formed. -/
def Obligations.DecodingInvertsEncoding : Prop :=
  (∀ (i : Instr) (rest : List Byte), WellFormed i → decode (encodeBytes i ++ rest) = some (i, rest))
  ∧ ∀ (w0 w1 : Word32) (i : Instr), decodeWords w0 w1 = some i →
      WellFormed i ∧ (isHint i = false → encode i = if twoWords w0 then [w0, w1] else [w0])

/-- R228 to R230, R244 to R246: words written out from the opcode map decode to the instructions that they stand for. -/
def Obligations.OpcodeMapWords : Prop :=
  -- major 000001: END, YIELD, NOP; major 001000: ADD; stall 5, predicate p3
  decodeWords 0b000001_00_101_011_000000_000000_000000#32 0 = some (.endAct ⟨5, 3⟩)
  ∧ decodeWords 0b000001_01_000_000_000000_000000_000000#32 0 = some (.yield ⟨0, 0⟩)
  ∧ decodeWords 0b000010_00_000_000_111111_111111_111110#32 0 = some (.br ⟨0, 0⟩ (-2))
  ∧ decodeWords 0#32 0 = none

/-- R61, R228, R229, R242, R243, R248: with no event due, a step selects the next context that may issue and runs the
instruction that stands at its pc: in a code message the bytes of the payload, elsewhere the bytes of the frame that its
page translates to; inside a repeat frame, only while it captures. The model's own choice or reading, log entry 5,
enters here. -/
def Obligations.StepRunsTheDecodedInstruction : Prop :=
  ∀ (s : State) (i : CtxId), s.nextDue = none → s.nextIssue = some i →
    let u := s.select i
    let pc := u.ctx.pc.toNat
    let runs := fun (x : Instr) => WellFormed x
      ∧ (u.ctx.frame = none ∨ (∃ fr, u.ctx.frame = some fr ∧ fr.replay = 0 ∧ (capturable x = true ∨ frameBranch x = true)) →
          step s = exec x (u.modCtx fun c => { c with ir := some x }))
    let here := fun (a : Nat) (bs : List Byte) => (windowOf a).paged = true
      ∧ ∃ x, u.translate i.core a = .ok x ∧ permits x.pte .fetch = true ∧ x.held = none
        ∧ u.dieServes i.core x.pa = true ∧ u.poisoned x.pa = false
        ∧ (u.codeOf i).1 ≤ a ∧ a + 4 ≤ (u.codeOf i).1 + (u.codeOf i).2 ∧ bs = u.readBytes x.pa 4
    pc % 4 = 0 →
    (∀ len m x rest, u.codeLen i = some len → u.slotOf i = some m → m.ecc = [] →
      decode ((m.msg.payload.take len).drop pc) = some (x, rest) → runs x)
    ∧ (u.codeLen i = none →
      (∀ bs x, here pc bs → decode bs = some (x, []) → runs x)
      ∧ ∀ bs cs x, here pc bs → here (pc + 4) cs → decode (bs ++ cs) = some (x, []) → runs x)

/-- R78, R156, R224, R226, R242, R243: what a fetch ends in where no instruction stands at the pc: FETCH_ALIGN, the
translation causes, a page that migrates, a stopped die, CODE_BOUNDS, poisoned bits, ILLEGAL_INSTRUCTION; but for the
migrating page, for which it stalls without having issued, each traps the context that issues. The model's own choices
and readings, log entries 48 and 53, enter here. -/
def Obligations.FetchFaults : Prop :=
  (∀ s : State, exec .illegalInstruction s = .next (s.trap { code := 0x000 })
    ∧ exec .instructionFetchFault s = .next (s.trap { code := s.ev.num, acc := s.ev.unit, level := s.ev.sub, addr := s.ev.w0 }))
  ∧ ∀ (s : State) (i : CtxId), s.nextDue = none → s.nextIssue = some i →
    let u := s.select i
    let pc := u.ctx.pc.toNat
    let ends := fun (k : Cause) => ∃ ev, step s = .next ({ u with ev := ev }.trap k)
    (∀ fr, u.ctx.frame = some fr → fr.replay = 0) →
    (pc % 4 ≠ 0 → ends { code := 0x006 })
    ∧ (pc % 4 = 0 →
      (∀ len m, u.codeLen i = some len → u.slotOf i = some m →
        let w := fun (a : Nat) => BitVec.ofNat 32 (natOfBytes ((m.msg.payload.drop a).take 4))
        (len < pc + 4 → ends { code := 0x0C4 })
        ∧ (pc + 4 ≤ len → pc / 8 + 2 ∈ m.ecc → ends { code := 0x160, acc := 4, addr := BitVec.ofNat 64 (pc / 8 * 8) })
        ∧ (m.ecc = [] →
          (pc + 4 ≤ len → twoWords (w pc) = true → len < pc + 8 → ends { code := 0x0C4 })
          ∧ (pc + 4 ≤ len → twoWords (w pc) = false → decodeWords (w pc) 0 = none → ends { code := 0x000 })
          ∧ (pc + 8 ≤ len → twoWords (w pc) = true → decodeWords (w pc) (w (pc + 4)) = none → ends { code := 0x000 })))
      ∧ (u.codeLen i = none → (windowOf pc).paged = true →
        (∀ code level, u.translate i.core pc = .error (code, level) →
          ends { code, acc := 4, level, addr := BitVec.ofNat 64 pc })
        ∧ ∀ x, u.translate i.core pc = .ok x →
          (permits x.pte .fetch = false → ends { code := 0x047, acc := 4, level := x.level, addr := BitVec.ofNat 64 pc })
          ∧ (permits x.pte .fetch = true → ∀ frame, x.held = some frame →
              let st := Stall.migration frame (x.passage (spaceSid (u.coreSpace i.core)) pc)
              step s = .next { ((u.modCtx fun c => { c with st := .ready }).stallOn st) with issued := u.issued.erase i })
          ∧ (permits x.pte .fetch = true → x.held = none →
            let within := (u.codeOf i).1 ≤ pc ∧ pc + 4 ≤ (u.codeOf i).1 + (u.codeOf i).2
            (u.dieServes i.core x.pa = false → ends { code := 0x163, acc := 4 })
            ∧ (u.dieServes i.core x.pa = true → ¬ within → ends { code := 0x0C4 })
            ∧ (u.dieServes i.core x.pa = true → within → u.poisoned x.pa = true →
                ends { code := 0x160, acc := 4, addr := BitVec.ofNat 64 (pc / 8 * 8) }))))

/-- R56, R61, R82, R226, R410: a step carries out the first event that is due; those that follow the cycle's
instructions, and those over I3C, which those over PCIe precede, wait for them. With none due it lets a core issue that
has not issued in the cycle and whose die runs, from a context that may issue, round robin: first the one whose
instruction acts first. With no core left it carries out the events that have waited, the end of a drain last; then the
cycle ends, and every Running context is Ready. An event of a unit on a stopped die does not happen, nor, once boot has
failed, does a management request: of those only the read that R405 leaves is answered. The model's own choices and
readings, log entries 3, 7 and 56, enter here. -/
def Obligations.EventsAndCycles : Prop :=
  ∀ (s : State),
    let due := fun (y : Due) => y ∈ s.agenda ∧ y.at_ ≤ s.clock
    let carried := fun (x : Due) (late : Bool) => due x
      ∧ (s.stopped x = true → step s = .next { s with agenda := s.agenda.erase x, late })
      ∧ (s.stopped x = false → isEvent x.row = true →
        step s = exec x.row
          ({ s with agenda := s.agenda.erase x, ev := x.ev, asker := .event x.row x.ev, late } : State).beginErrand)
    (∀ x, s.nextDue = some x → carried x s.late ∧ lateRow x.row = false ∧ x.fromI3c = false)
    ∧ (s.nextDue = none ↔ ∀ y, due y → lateRow y.row = true ∨ y.fromI3c = true)
    ∧ (∀ i, s.nextIssue = some i →
      let r := (s.core i.core).rr
      s.late = false ∧ (∀ j ∈ s.issued, j.core ≠ i.core) ∧ i.ctx < 8 ∧ s.coreRuns i.core = true
      ∧ (s.ctxAt i).issuable s.clock = true
      ∧ (∀ m, m < 8 → (∀ k, k ≤ m → (r + 1 + k) % 8 ≠ i.ctx) →
          (s.ctxAt { core := i.core, ctx := (r + 1 + m) % 8 }).issuable s.clock = false)
      ∧ (∀ x ∈ s.cores, ∀ n, (∀ j ∈ s.issued, j.core ≠ x.1) → s.coreRuns x.1 = true → s.issuer x.1 = some n →
          s.issueRank i ≤ s.issueRank { core := x.1, ctx := n })
      ∧ let u := s.select i
        u.cur = i ∧ u.issued = i :: s.issued ∧ (u.ctxAt i).st = .running
        ∧ u.mem = s.mem ∧ ∀ k n, (u.ctxAt i).reg k n = (s.ctxAt i).reg k n)
    ∧ (s.nextDue = none → s.nextIssue = none →
      (∀ x, s.nextLate = some x → carried x true ∧ (x.row = .kernelDrainDone → ∀ y, due y → y.row = .kernelDrainDone)
        ∧ (x.row ≠ .kernelDrainDone → x.fromI3c = true → ∀ y, due y → y.row ≠ .kernelDrainDone → y.fromI3c = true))
      ∧ (s.nextLate = none → (∀ y, ¬ due y) ∧ ∃ t, step s = .next t ∧ t.clock = s.clock + 1 ∧ t.issued = [] ∧ t.late = false
        ∧ (∀ j, (t.ctxAt j).st ≠ .running)
        ∧ ∀ n i, s.cores.find? n ≠ none → s.issued.find? (fun j => j.core == n) = some i → (t.core n).rr = i.ctx))
end

