-- ==== Sys2Proof/Laws/Table.lean ====
section
/-!
SUPPORT. Sys2Proof/Laws/Table.lean: reading a table after a change of it, and that `set` keeps the canonical form.
-/

namespace Sys2Proof.Machine

variable {α : Type}

@[simp] theorem FMap.find?_nil (k : Nat) : FMap.find? ([] : FMap α) k = none := rfl

/-- What a key holds after `put`. -/
@[simp] theorem FMap.find?_put (m : FMap α) (k n : Nat) (v : α) :
    (m.put k v).find? n = if n = k then some v else m.find? n := by
  induction m with
  | nil => simp [FMap.put, FMap.find?]
  | cons e m ih =>
    obtain ⟨k', v'⟩ := e
    unfold FMap.put
    split
    · simp [FMap.find?]
    · split
      · subst k'; simp only [FMap.find?]; split <;> rfl
      · simp only [FMap.find?, ih]; split
        · next h1 h2 h => subst h; rw [if_neg (fun h => h2 h.symm)]
        · rfl

/-- What a key holds after `erase`. -/
@[simp] theorem FMap.find?_erase (m : FMap α) (k n : Nat) :
    (m.erase k).find? n = if n = k then none else m.find? n := by
  induction m with
  | nil => simp [FMap.erase]
  | cons e m ih =>
    obtain ⟨k', v'⟩ := e
    unfold FMap.erase at ih ⊢
    by_cases h : k' = k
    · subst h; simp only [bne_self_eq_false, Bool.false_eq_true, not_false_eq_true, List.filter_cons_of_neg, ih, FMap.find?]
      split <;> rfl
    · rw [List.filter_cons_of_pos (by simpa using h)]
      simp only [FMap.find?, ih]
      by_cases h' : n = k'
      · subst h'; simp [h]
      · simp [h']

/-- What a key reads as after `put`. -/
@[simp] theorem FMap.get_put (d : α) (m : FMap α) (k n : Nat) (v : α) :
    FMap.get d (m.put k v) n = if n = k then v else FMap.get d m n := by
  unfold FMap.get; rw [FMap.find?_put]; split <;> rfl

/-- What a key reads as after `set`. -/
@[simp] theorem FMap.get_set [DecidableEq α] (d : α) (m : FMap α) (k n : Nat) (v : α) :
    FMap.get d (m.set d k v) n = if n = k then v else FMap.get d m n := by
  unfold FMap.set; split
  · next h => subst h; unfold FMap.get; rw [FMap.find?_erase]; split <;> rfl
  · exact FMap.get_put ..

/-! ### The canonical form -/

/-- Keys above a bound, each above the one before. -/
theorem FMap.sortedFrom_iff (lo : Option Nat) (m : FMap α) :
    FMap.sortedFrom lo m = true ↔
      (m.map Prod.fst).Pairwise (· < ·) ∧ ∀ b, lo = some b → ∀ e ∈ m, b < e.1 := by
  induction m generalizing lo with
  | nil => simp [FMap.sortedFrom]
  | cons e m ih =>
    obtain ⟨k, v⟩ := e
    cases lo with
    | none => simp only [FMap.sortedFrom, ih, List.map_cons, List.pairwise_cons, List.mem_map]; aesop
    | some b =>
      simp only [FMap.sortedFrom, Bool.and_eq_true, decide_eq_true_eq, ih, List.map_cons, List.pairwise_cons, List.mem_map,
        List.mem_cons]
      constructor
      · rintro ⟨hb, hs, hk⟩
        refine ⟨⟨?_, hs⟩, ?_⟩
        · rintro _ ⟨e, he, rfl⟩; exact hk k rfl e he
        · rintro _ ⟨⟩ e (rfl | he)
          · exact hb
          · exact hb.trans (hk k rfl e he)
      · rintro ⟨⟨hk, hs⟩, hb⟩
        refine ⟨hb b rfl (k, v) (.inl rfl), hs, ?_⟩
        rintro _ ⟨⟩ e he; exact hk _ ⟨e, he, rfl⟩

theorem FMap.wf_iff [DecidableEq α] (d : α) (m : FMap α) :
    FMap.wf d m = true ↔ (m.map Prod.fst).Pairwise (· < ·) ∧ ∀ e ∈ m, e.2 ≠ d := by
  simp [FMap.wf, FMap.sortedFrom_iff]

theorem FMap.mem_put {m : FMap α} {k : Nat} {v : α} {e : Nat × α} (h : e ∈ m.put k v) : e = (k, v) ∨ e ∈ m := by
  induction m with
  | nil => simpa [FMap.put] using h
  | cons e' m ih =>
    obtain ⟨k', v'⟩ := e'
    unfold FMap.put at h
    split at h
    · simpa using h
    · split at h
      · rcases List.mem_cons.1 h with h | h
        · exact .inl h
        · exact .inr (.tail _ h)
      · rcases List.mem_cons.1 h with h | h
        · exact .inr (h ▸ .head _)
        · exact (ih h).imp_right (.tail _)

theorem FMap.pairwise_put {m : FMap α} (h : (m.map Prod.fst).Pairwise (· < ·)) (k : Nat) (v : α) :
    ((m.put k v).map Prod.fst).Pairwise (· < ·) := by
  induction m with
  | nil => simp [FMap.put]
  | cons e m ih =>
    obtain ⟨k', v'⟩ := e
    rw [List.map_cons, List.pairwise_cons] at h
    unfold FMap.put
    split
    · next hk =>
      simp only [List.map_cons, List.pairwise_cons, List.mem_cons, forall_eq_or_imp]
      exact ⟨⟨hk, fun a ha => hk.trans (h.1 a ha)⟩, h.1, h.2⟩
    · split
      · next hk => subst hk; simpa [List.pairwise_cons] using h
      · next h1 h2 =>
        rw [List.map_cons, List.pairwise_cons]
        refine ⟨?_, ih h.2⟩
        intro a ha
        obtain ⟨e, he, rfl⟩ := List.mem_map.1 ha
        rcases FMap.mem_put he with rfl | he
        · show k' < k; omega
        · exact h.1 _ (List.mem_map.2 ⟨e, he, rfl⟩)

/-- `set` keeps the canonical form. -/
theorem FMap.wf_set [DecidableEq α] {d : α} {m : FMap α} (h : FMap.wf d m = true) (k : Nat) (v : α) :
    FMap.wf d (m.set d k v) = true := by
  rw [FMap.wf_iff] at h ⊢
  unfold FMap.set; split
  · refine ⟨?_, fun e he => h.2 e (List.mem_filter.1 he).1⟩
    exact h.1.sublist (List.filter_sublist.map _)
  · next hv =>
    refine ⟨FMap.pairwise_put h.1 k v, fun e he => ?_⟩
    rcases FMap.mem_put he with rfl | he
    · exact hv
    · exact h.2 e he

end Sys2Proof.Machine
end

