-- ==== Sys2Proof/Laws/State.lean ====
section
/-!
SUPPORT. Sys2Proof/Laws/State.lean: what each update of the state, of a core and of a context leaves in each place: one lemma
per field per update.
-/

namespace Sys2Proof.Machine

open Sys2Proof

/-! ### Cores -/

@[simp] theorem State.core_setCore (s : State) (n m : Nat) (k : Core) :
    (s.setCore n k).core m = if m = n then k else s.core m := by
  simp [State.setCore, State.core]

@[simp] theorem State.setCore_clock (s : State) (n : Nat) (k : Core) : (s.setCore n k).clock = s.clock := rfl
@[simp] theorem State.setCore_asker (s : State) (n : Nat) (k : Core) : (s.setCore n k).asker = s.asker := rfl
@[simp] theorem State.setCore_issued (s : State) (n : Nat) (k : Core) : (s.setCore n k).issued = s.issued := rfl
@[simp] theorem State.setCore_late (s : State) (n : Nat) (k : Core) : (s.setCore n k).late = s.late := rfl
@[simp] theorem State.setCore_cur (s : State) (n : Nat) (k : Core) : (s.setCore n k).cur = s.cur := rfl
@[simp] theorem State.setCore_agenda (s : State) (n : Nat) (k : Core) : (s.setCore n k).agenda = s.agenda := rfl
@[simp] theorem State.setCore_ev (s : State) (n : Nat) (k : Core) : (s.setCore n k).ev = s.ev := rfl
@[simp] theorem State.setCore_fresh (s : State) (n : Nat) (k : Core) : (s.setCore n k).fresh = s.fresh := rfl
@[simp] theorem State.setCore_mem (s : State) (n : Nat) (k : Core) : (s.setCore n k).mem = s.mem := rfl
@[simp] theorem State.setCore_poison (s : State) (n : Nat) (k : Core) : (s.setCore n k).poison = s.poison := rfl
@[simp] theorem State.setCore_engines (s : State) (n : Nat) (k : Core) : (s.setCore n k).engines = s.engines := rfl
@[simp] theorem State.setCore_dies (s : State) (n : Nat) (k : Core) : (s.setCore n k).dies = s.dies := rfl
@[simp] theorem State.setCore_ports (s : State) (n : Nat) (k : Core) : (s.setCore n k).ports = s.ports := rfl
@[simp] theorem State.setCore_peers (s : State) (n : Nat) (k : Core) : (s.setCore n k).peers = s.peers := rfl
@[simp] theorem State.setCore_ats (s : State) (n : Nat) (k : Core) : (s.setCore n k).ats = s.ats := rfl
@[simp] theorem State.setCore_pris (s : State) (n : Nat) (k : Core) : (s.setCore n k).pris = s.pris := rfl
@[simp] theorem State.setCore_clusters (s : State) (n : Nat) (k : Core) : (s.setCore n k).clusters = s.clusters := rfl
@[simp] theorem State.setCore_frames (s : State) (n : Nat) (k : Core) : (s.setCore n k).frames = s.frames := rfl
@[simp] theorem State.setCore_pins (s : State) (n : Nat) (k : Core) : (s.setCore n k).pins = s.pins := rfl
@[simp] theorem State.setCore_lives (s : State) (n : Nat) (k : Core) : (s.setCore n k).lives = s.lives := rfl
@[simp] theorem State.setCore_kernels (s : State) (n : Nat) (k : Core) : (s.setCore n k).kernels = s.kernels := rfl
@[simp] theorem State.setCore_resident (s : State) (n : Nat) (k : Core) : (s.setCore n k).resident = s.resident := rfl
@[simp] theorem State.setCore_shadows (s : State) (n : Nat) (k : Core) : (s.setCore n k).shadows = s.shadows := rfl
@[simp] theorem State.setCore_nextKid (s : State) (n : Nat) (k : Core) : (s.setCore n k).nextKid = s.nextKid := rfl
@[simp] theorem State.setCore_mgmt (s : State) (n : Nat) (k : Core) : (s.setCore n k).mgmt = s.mgmt := rfl
@[simp] theorem State.setCore_out (s : State) (n : Nat) (k : Core) : (s.setCore n k).out = s.out := rfl

/-! ### Contexts -/

@[simp] theorem Core.ctx_setCtx (k : Core) (n m : Nat) (c : Context) :
    (k.setCtx n c).ctx m = if m = n then c else k.ctx m := by
  simp [Core.setCtx, Core.ctx]

@[simp] theorem State.ctxAt_setCtxAt (s : State) (i j : CtxId) (c : Context) :
    (s.setCtxAt i c).ctxAt j = if j = i then c else s.ctxAt j := by
  obtain ⟨a, b⟩ := i; obtain ⟨a', b'⟩ := j
  simp only [State.setCtxAt, State.modCore, State.ctxAt, State.core_setCore, CtxId.mk.injEq]
  by_cases h : a' = a <;> simp [h]

@[simp] theorem State.setCtxAt_cur (s : State) (i : CtxId) (c : Context) : (s.setCtxAt i c).cur = s.cur := rfl
@[simp] theorem State.setCtxAt_clock (s : State) (i : CtxId) (c : Context) : (s.setCtxAt i c).clock = s.clock := rfl
@[simp] theorem State.setCtxAt_mem (s : State) (i : CtxId) (c : Context) : (s.setCtxAt i c).mem = s.mem := rfl
@[simp] theorem State.setCtxAt_agenda (s : State) (i : CtxId) (c : Context) : (s.setCtxAt i c).agenda = s.agenda := rfl

@[simp] theorem State.ctx_setCtx (s : State) (c : Context) : (s.setCtx c).ctx = c := by
  simp [State.setCtx, State.ctx]

@[simp] theorem State.setCtx_cur (s : State) (c : Context) : (s.setCtx c).cur = s.cur := rfl
@[simp] theorem State.setCtx_clock (s : State) (c : Context) : (s.setCtx c).clock = s.clock := rfl
@[simp] theorem State.setCtx_mem (s : State) (c : Context) : (s.setCtx c).mem = s.mem := rfl
@[simp] theorem State.setCtx_agenda (s : State) (c : Context) : (s.setCtx c).agenda = s.agenda := rfl

/-! ### Tables of the package -/

@[simp] theorem State.die_setDie (s : State) (n m : Nat) (d : Die) :
    (s.setDie n d).die m = if m = n then d else s.die m := by
  simp [State.setDie, State.die]

@[simp] theorem State.engine_setEngine (s : State) (n m : Nat) (e : Engine) :
    (s.setEngine n e).engine m = if m = n then e else s.engine m := by
  simp [State.setEngine, State.engine]

@[simp] theorem State.port_setPort (s : State) (n m : Nat) (p : Port) :
    (s.setPort n p).port m = if m = n then p else s.port m := by
  simp [State.setPort, State.port]

@[simp] theorem State.setDie_mem (s : State) (n : Nat) (d : Die) : (s.setDie n d).mem = s.mem := rfl
@[simp] theorem State.setEngine_mem (s : State) (n : Nat) (e : Engine) : (s.setEngine n e).mem = s.mem := rfl
@[simp] theorem State.setPort_mem (s : State) (n : Nat) (p : Port) : (s.setPort n p).mem = s.mem := rfl

/-! ### The agenda -/

@[simp] theorem State.schedule_agenda (s : State) (t : Nat) (row : Instr) (ev : Ev) :
    (s.schedule t row ev).agenda = s.agenda ++ [{ at_ := t, row, ev }] := rfl
@[simp] theorem State.schedule_mem (s : State) (t : Nat) (row : Instr) (ev : Ev) : (s.schedule t row ev).mem = s.mem := rfl
@[simp] theorem State.schedule_cores (s : State) (t : Nat) (row : Instr) (ev : Ev) : (s.schedule t row ev).cores = s.cores := rfl
@[simp] theorem State.schedule_cur (s : State) (t : Nat) (row : Instr) (ev : Ev) : (s.schedule t row ev).cur = s.cur := rfl
@[simp] theorem State.schedule_clock (s : State) (t : Nat) (row : Instr) (ev : Ev) : (s.schedule t row ev).clock = s.clock := rfl
@[simp] theorem State.later_mem (s : State) (row : Instr) (ev : Ev) : (s.later row ev).mem = s.mem := rfl
@[simp] theorem State.nextCycle_mem (s : State) (row : Instr) (ev : Ev) : (s.nextCycle row ev).mem = s.mem := rfl
@[simp] theorem State.now_mem (s : State) (row : Instr) (ev : Ev) : (s.now row ev).mem = s.mem := rfl

/-! ### Traps -/

@[simp] theorem State.takeTrap_mem (s : State) (i : CtxId) (pc : Word) (k : Cause) : (s.takeTrap i pc k).mem = s.mem := rfl

/-- Everything that taking a trap does: the context is Trapped with its four trap registers, and the entry to trap mode is
on the agenda of the next cycle. -/
theorem State.takeTrap_ctxAt (s : State) (i j : CtxId) (pc : Word) (k : Cause) :
    (s.takeTrap i pc k).ctxAt j = if j = i then (s.ctxAt i).trapped pc k else s.ctxAt j :=
  State.ctxAt_setCtxAt s i j _

theorem State.takeTrap_agenda (s : State) (i : CtxId) (pc : Word) (k : Cause) :
    (s.takeTrap i pc k).agenda = s.agenda ++ [{ at_ := s.clock + 1, row := .trapModeEntry, ev := evCtx i }] := rfl

end Sys2Proof.Machine
end

