-- ==== Sys2Proof/Laws/Memory.lean ====
section
/-!
SUPPORT. Sys2Proof/Laws/Memory.lean: the laws of memory. Every operation that writes memory keeps its canonical form, and what a
byte reads as after each of them.
-/

namespace Sys2Proof.Machine

open Sys2Proof Sys2Proof.Safety

/-! ### One byte -/

@[simp] theorem State.readByte_writeByte (s : State) (a n : Nat) (b : Byte) :
    (s.writeByte a b).readByte n = if n = a then b else s.readByte n :=
  FMap.get_set ..

theorem State.memOk_writeByte {s : State} (h : MemOk s) (a : Nat) (b : Byte) : MemOk (s.writeByte a b) :=
  FMap.wf_set h a b

theorem memOk_reset : MemOk State.reset := rfl

/-! ### Ranges -/

theorem State.readByte_writeBytesRaw (s : State) (a n : Nat) (bs : List Byte) :
    (s.writeBytesRaw a bs).readByte n = if a ≤ n ∧ n < a + bs.length then bs.getD (n - a) 0 else s.readByte n := by
  induction bs generalizing s a with
  | nil => rw [if_neg (by simp)]; rfl
  | cons b bs ih =>
    show ((s.writeByte a b).writeBytesRaw (a + 1) bs).readByte n = _
    rw [ih, State.readByte_writeByte, List.length_cons]
    by_cases h : n = a
    · subst h; simp
    · by_cases h' : a + 1 ≤ n ∧ n < a + 1 + bs.length
      · rw [if_pos h', if_pos (by omega), show n - a = (n - (a + 1)) + 1 by omega]; rfl
      · rw [if_neg h', if_neg h, if_neg (by omega)]

@[simp] theorem State.readByte_writeBytes (s : State) (a n : Nat) (bs : List Byte) :
    (s.writeBytes a bs).readByte n = if a ≤ n ∧ n < a + bs.length then bs.getD (n - a) 0 else s.readByte n :=
  State.readByte_writeBytesRaw ..

theorem State.memOk_writeBytesRaw {s : State} (h : MemOk s) (a : Nat) (bs : List Byte) : MemOk (s.writeBytesRaw a bs) := by
  induction bs generalizing s a with
  | nil => exact h
  | cons b bs ih => exact ih (State.memOk_writeByte h a b) (a + 1)

theorem State.memOk_writeBytes {s : State} (h : MemOk s) (a : Nat) (bs : List Byte) : MemOk (s.writeBytes a bs) :=
  State.memOk_writeBytesRaw h a bs

theorem State.memOk_writeWord {s : State} (h : MemOk s) (a : Nat) (w : Word) : MemOk (s.writeWord a w) :=
  State.memOk_writeBytes h a _

theorem State.memOk_writeAll {s : State} (h : MemOk s) (l : List (Nat × Byte)) : MemOk (s.writeAll l) := by
  induction l generalizing s with
  | nil => exact h
  | cons e l ih => exact ih (State.memOk_writeByte h e.1 e.2)

/-- Writing a list of bytes at addresses of their own (R309, R313). -/
theorem State.memOk_writeAt {s : State} (h : MemOk s) (l : List (Nat × Byte)) : MemOk (s.writeAt l) :=
  State.memOk_writeAll h l

@[simp] theorem State.length_readBytes (s : State) (a n : Nat) : (s.readBytes a n).length = n := by
  induction n generalizing a with
  | zero => rfl
  | succ n ih => exact congrArg (· + 1) (ih (a + 1))

theorem State.getD_readBytes (s : State) (a n k : Nat) (h : k < n) : (s.readBytes a n).getD k 0 = s.readByte (a + k) := by
  induction n generalizing a k with
  | zero => omega
  | succ n ih =>
    cases k with
    | zero => rfl
    | succ k =>
      show (s.readBytes (a + 1) n).getD k 0 = _
      rw [ih _ _ (by omega)]; congr 1; omega

/-! ### Tables cut down to some of their keys -/

/-- A canonical table filtered by any test stays canonical. -/
theorem FMap.wf_filter {α : Type} [DecidableEq α] {d : α} {m : FMap α} (h : FMap.wf d m = true) (p : Nat × α → Bool) :
    FMap.wf d (List.filter p m) = true := by
  rw [FMap.wf_iff] at h ⊢
  refine ⟨?_, fun e he => h.2 e (List.mem_of_mem_filter he)⟩
  exact h.1.sublist ((List.filter_sublist (l := m)).map _)

theorem State.memOk_zeroRange {s : State} (h : MemOk s) (a n : Nat) : MemOk (s.zeroRange a n) :=
  FMap.wf_filter h _

/-- Setting many keys of a canonical table leaves it canonical. -/
theorem FMap.wf_foldl_set {α β : Type} [DecidableEq α] {d : α} (key : β → Nat) (val : β → α) (l : List β) {m : FMap α}
    (h : FMap.wf d m = true) : FMap.wf d (l.foldl (fun (m : FMap α) x => m.set d (key x) (val x)) m) = true := by
  induction l generalizing m with
  | nil => exact h
  | cons x l ih => exact ih (FMap.wf_set h _ _)

theorem State.memOk_applyMove {s : State} (h : MemOk s) (id : Nat) (m : Moved) : MemOk (s.applyMove id m) :=
  FMap.wf_foldl_set (fun x : Nat × Byte => spadBase id + x.1) (fun x => x.2) m.pad (FMap.wf_filter h _)

end Sys2Proof.Machine
end

