-- ==== Sys2Proof/Laws/Operands.lean ====
section
/-!
SUPPORT. Sys2Proof/Laws/Operands.lean: what writing a result and completing an instruction do to a context and to the state.
-/

namespace Sys2Proof.Machine

open Sys2Proof Sys2Proof.Safety

/-! ### Registers -/

/-- A register after a write of a register. -/
theorem Context.reg_setReg (c : Context) (k k' : Cls) (n m : Nat) (x : Vec) :
    (c.setReg k n x).reg k' m = if k' = k ∧ m = n ∧ drops k n = false then cut k x else c.reg k' m := by
  cases k <;> cases k' <;> simp only [Context.setReg, Context.cleanReg, Context.reg, drops, cut] <;>
    by_cases hn : n = 0 <;> by_cases hm : m = n <;> subst_vars <;> simp_all

theorem Context.reg_writeReg (c : Context) (lat : Lat) (k k' : Cls) (n m : Nat) (x : Vec) :
    (c.writeReg lat k n x).reg k' m = if k' = k ∧ m = n ∧ drops k n = false then cut k x else c.reg k' m := by
  rw [← Context.reg_setReg]
  unfold Context.writeReg
  cases lat with
  | fixed l => by_cases h : l ≤ 1 <;> simp only [h, if_true, if_false] <;> cases k' <;> rfl
  | variable_ => cases k' <;> rfl

theorem Context.reg_writeLanes (c : Context) (lat : Lat) (n m : Nat) (k : Cls) (a : Mask) (x : Vec) :
    (c.writeLanes lat n a x).reg k m = (c.writeReg (laneLat a lat) .v n x).reg k m := by
  cases k <;> rfl

@[simp] theorem Context.reg_push (c : Context) (x : Vec) (k : Cls) (n : Nat) : (c.push x).reg k n = c.reg k n := by
  cases k <;> rfl

@[simp] theorem cut_cut (k : Cls) (x : Vec) : cut k (cut k x) = cut k x := by
  cases k <;> simp [cut]

theorem cut_ofWord (w : Word) : cut .g (ofWord w) = ofWord w := by
  simp [cut, ofWord]

theorem cut_ofMask (m : Mask) : cut .p (ofMask m) = ofMask m := by
  simp [cut, ofMask]

theorem Context.reg_dst (c : Context) (lat : Lat) (k k' : Cls) (d : Fld) (m : Nat) (x : Vec) :
    (c.dst lat k d x).reg k' m = if k' = k ∧ m = d.toNat ∧ keeps k d = true then cut k x else c.reg k' m := by
  unfold Context.dst keeps
  by_cases h : 56 ≤ d.toNat
  · simp [h, Nat.not_lt.2 h]
  · by_cases h' : drops k d.toNat = true
    · simp [h, h']
    · simp [h, h', Context.reg_writeReg, Nat.lt_of_not_le h]

/-- The first cause of two readings together, where neither has one. -/
theorem cause_or (k u e p u' e' p' : Bool)
    (h : (if u = true then some 2 else if (k && e) = true then some 3 else if p = true then some 352 else none) = none)
    (h' : (if u' = true then some 2 else if (k && e') = true then some 3 else if p' = true then some 352 else none) = none) :
    (if (u || u') = true then some 2 else if (k && (e || e')) = true then some 3
      else if (p || p') = true then some 352 else (none : Option Nat)) = none := by
  revert h h'
  cases k <;> cases u <;> cases e <;> cases p <;> cases u' <;> cases e' <;> cases p' <;> decide

/-- Several fields can be read when each can be: no early read, no undefined distance and no poison among them. -/
theorem Context.readTrap_cons (c : Context) (x : Cls × Fld) (l : List (Cls × Fld)) (h : c.readTrap [x] = none)
    (hl : c.readTrap l = none) : c.readTrap (x :: l) = none := by
  unfold Context.readTrap Context.causeOf at *
  simp only [List.any_cons, List.any_nil, Bool.or_false] at *
  exact cause_or _ _ _ _ _ _ _ h hl

theorem Context.reg_entryEcc (c : Context) (l : List (Nat × Nat × Nat)) (k : Cls) (n : Nat) : (c.entryEcc l).reg k n = c.reg k n := by
  cases k <;> rfl

/-! ### The rest of a context -/

theorem Context.rest_setReg (c : Context) (k : Cls) (n : Nat) (x : Vec) : ContextRest c (c.setReg k n x) := by
  cases k
  · simp only [Context.setReg]; split <;> rfl
  · rfl
  · rfl
  · simp only [Context.setReg]; split <;> rfl

theorem contextRest_trans {a b c : Context} (h : ContextRest a b) (h' : ContextRest b c) : ContextRest a c := by
  unfold ContextRest at *; rw [h] at h'; exact h'

theorem Context.rest_writeReg (c : Context) (lat : Lat) (k : Cls) (n : Nat) (x : Vec) : ContextRest c (c.writeReg lat k n x) := by
  have h := Context.rest_setReg c k n x
  refine contextRest_trans h ?_
  unfold Context.writeReg
  cases lat with
  | fixed l => by_cases h : l ≤ 1 <;> simp only [h, if_true, if_false] <;> rfl
  | variable_ => rfl

theorem Context.rest_writeLanes (c : Context) (lat : Lat) (n : Nat) (m : Mask) (x : Vec) : ContextRest c (c.writeLanes lat n m x) :=
  contextRest_trans (Context.rest_writeReg c (laneLat m lat) .v n x) rfl

theorem Context.rest_dst (c : Context) (lat : Lat) (k : Cls) (d : Fld) (x : Vec) : ContextRest c (c.dst lat k d x) := by
  unfold Context.dst
  dsimp only
  split
  · rfl
  · split
    · rfl
    · exact contextRest_trans (Context.rest_writeReg ..) rfl

theorem Context.rest_passed (c : Context) (clock : Nat) (st : BitVec 3) : ContextRest c (c.passed clock st) := rfl

theorem Context.rest_fallTo (c : Context) (a n : Word) : ContextRest c (c.fallTo a n) := rfl

theorem Context.rest_sequel (c : Context) (len : Nat) : ContextRest c (c.sequel len) := by
  unfold Context.sequel
  dsimp only
  split
  · rfl
  · repeat' (first | rfl | split)

theorem Context.rest_complete (c : Context) (clock : Nat) (h : Hdr) (len : Nat) : ContextRest c (c.complete clock h len) :=
  contextRest_trans (Context.rest_passed c clock h.stall) (Context.rest_sequel _ len)

/-- What completing an instruction keeps of a context: registers, flags and history; and where it goes. -/
theorem Context.complete_keeps (c : Context) (clock : Nat) (h : Hdr) (len : Nat) :
    (∀ k n, (c.complete clock h len).reg k n = c.reg k n) ∧ (c.complete clock h len).fflags = c.fflags
    ∧ (c.complete clock h len).hist = c.hist ∧ (c.complete clock h len).notBefore = clock + 1 + h.stall.toNat
    ∧ (c.frame = none → c.loops = [] → (c.complete clock h len).pc = c.pc + BitVec.ofNat 64 len) := by
  unfold Context.complete
  have key : ∀ c' : Context,
      (∀ k n, (c'.sequel len).reg k n = c'.reg k n) ∧ (c'.sequel len).fflags = c'.fflags
      ∧ (c'.sequel len).hist = c'.hist ∧ (c'.sequel len).notBefore = c'.notBefore := by
    intro c'
    unfold Context.sequel Context.fallTo
    dsimp only
    repeat' (first | exact ⟨fun k n => by cases k <;> rfl, rfl, rfl, rfl⟩ | split)
  obtain ⟨h1, h2, h3, h4⟩ := key (c.passed clock h.stall)
  refine ⟨fun k n => by rw [h1]; cases k <;> rfl, by rw [h2]; rfl, by rw [h3]; rfl, by rw [h4]; rfl, fun hf hl => ?_⟩
  have : (c.passed clock h.stall).frame = none := hf
  unfold Context.sequel
  rw [this]
  show (loopCount c.loops c.pc _).2 = _
  rw [hl]; rfl

/-! ### The state -/

@[simp] theorem State.setCtx_setCtx (s : State) (c : Context) : s.setCtx (s.setCtx c).ctx = s.setCtx c := by
  rw [State.ctx_setCtx]

/-- Completing the issuing instruction changes the issuing context alone. -/
theorem State.done_only (s : State) (h : Hdr) (len : Nat) (f : Context → Context) : OnlyContext s (s.done h len f) := by
  unfold OnlyContext State.done; rw [State.ctx_setCtx]

theorem State.done_ctx (s : State) (h : Hdr) (len : Nat) (f : Context → Context) :
    (s.done h len f).ctx = (f s.ctx).complete s.clock h len := by
  unfold State.done; rw [State.ctx_setCtx]

theorem Context.dst_fields (c : Context) (lat : Lat) (k : Cls) (d : Fld) (x : Vec) :
    (c.dst lat k d x).fflags = c.fflags ∧ (c.dst lat k d x).frame = c.frame ∧ (c.dst lat k d x).loops = c.loops
    ∧ (c.dst lat k d x).pc = c.pc ∧ (dstOk k d = true →
      (c.dst lat k d x).hist = ((if k = .p ∧ d = 0 then 0xFFFF else cut k x) :: c.hist).take 8) := by
  have hs : ∀ n, (c.setReg k n (cut k x)).fflags = c.fflags ∧ (c.setReg k n (cut k x)).frame = c.frame
      ∧ (c.setReg k n (cut k x)).loops = c.loops ∧ (c.setReg k n (cut k x)).pc = c.pc
      ∧ (c.setReg k n (cut k x)).hist = c.hist := by
    intro n
    cases k
    · simp only [Context.setReg]; split <;> exact ⟨rfl, rfl, rfl, rfl, rfl⟩
    · exact ⟨rfl, rfl, rfl, rfl, rfl⟩
    · exact ⟨rfl, rfl, rfl, rfl, rfl⟩
    · simp only [Context.setReg]; split <;> exact ⟨rfl, rfl, rfl, rfl, rfl⟩
  have hw : ∀ n, (c.writeReg lat k n (cut k x)).fflags = c.fflags ∧ (c.writeReg lat k n (cut k x)).frame = c.frame
      ∧ (c.writeReg lat k n (cut k x)).loops = c.loops ∧ (c.writeReg lat k n (cut k x)).pc = c.pc
      ∧ (c.writeReg lat k n (cut k x)).hist = c.hist := by
    intro n; unfold Context.writeReg; cases lat with
    | fixed l => dsimp only; split <;> exact hs n
    | variable_ => exact hs n
  unfold Context.dst
  dsimp only
  split
  · next h => 
    refine ⟨rfl, rfl, rfl, rfl, fun _ => ?_⟩
    have : ¬ (k = .p ∧ d = 0) := by rintro ⟨-, rfl⟩; simp at h
    rw [if_neg this]; rfl
  · split
    · next h h' =>
      refine ⟨rfl, rfl, rfl, rfl, fun _ => ?_⟩
      simp only [drops, Bool.and_eq_true, beq_iff_eq, Bool.or_eq_true] at h'
      have hd : d = 0 := by have := h'.1; exact BitVec.eq_of_toNat_eq (by simpa using this)
      subst hd
      rcases h'.2 with rfl | rfl <;> rfl
    · next h h' =>
      refine ⟨(hw _).1, (hw _).2.1, (hw _).2.2.1, (hw _).2.2.2.1, fun _ => ?_⟩
      have : ¬ (k = .p ∧ d = 0) := by rintro ⟨rfl, rfl⟩; exact h' rfl
      rw [if_neg this]
      show (_ :: _).take 8 = _
      rw [(hw _).2.2.2.2]

/-- The law of the shape `scalar` (R273). -/
theorem State.scalar_wrote {s : State} {h : Hdr} {len : Nat} {lat : Lat} {k : Cls} {d : Fld} {srcs : List (Cls × Fld)}
    {f : Context → Vec} (hd : dstOk k d = true) (he : Enabled s h srcs) :
    Wrote s (s.scalar h len lat k d srcs f) h len k d (cut k (f s.ctx)) := by
  unfold State.scalar State.guarded State.guardedBy
  simp only [he.pred, he.lanes, he.reads, if_false]
  have hf := Context.dst_fields s.ctx lat k d (f s.ctx)
  have hc := Context.complete_keeps (s.ctx.dst lat k d (f s.ctx)) s.clock h len
  refine ⟨State.done_only .., ?_, ?_, fun k' n => ?_, ?_, ?_, ?_⟩
  · rw [State.done_ctx]; exact contextRest_trans (Context.rest_dst ..) (Context.rest_complete ..)
  · rw [State.done_ctx, hc.2.1, hf.1]; simp
  · rw [State.done_ctx, hc.1, Context.reg_dst]
  · rw [State.done_ctx, hc.2.2.1, hf.2.2.2.2 hd]
  · intro h1 h2; rw [State.done_ctx, hc.2.2.2.2 (by rw [hf.2.1, h1]) (by rw [hf.2.2.1, h2]), hf.2.2.2.1]
  · rw [State.done_ctx, hc.2.2.2.1]

end Sys2Proof.Machine
end

