-- ==== Sys2Proof/Laws/Vector.lean ====
section
/-!
SUPPORT. Sys2Proof/Laws/Vector.lean: lanes of a v register, the registers of a block, and the law of the per-lane shape.
-/

namespace Sys2Proof.Machine

open Sys2Proof Sys2Proof.Safety

/-! ### Lanes -/

theorem natOfLanes_lt (f : Nat → Word32) (n : Nat) : natOfLanes f n < 2 ^ (32 * n) := by
  induction n with
  | zero => simp [natOfLanes]
  | succ n ih =>
    have h : (f n).toNat < 2 ^ 32 := (f n).isLt
    have e : 2 ^ (32 * (n + 1)) = 2 ^ (32 * n) * 2 ^ 32 := by rw [← pow_add]; ring_nf
    unfold natOfLanes; rw [e]; nlinarith

/-- The lanes of a register built lane by lane. -/
theorem natOfLanes_div (f : Nat → Word32) (n l : Nat) (h : l < n) :
    natOfLanes f n / 2 ^ (32 * l) % 2 ^ 32 = (f l).toNat := by
  induction n with
  | zero => omega
  | succ n ih =>
    unfold natOfLanes
    rcases Nat.lt_succ_iff_lt_or_eq.1 h with h | rfl
    · have e : 2 ^ (32 * n) = 2 ^ (32 * l) * (2 ^ 32 * 2 ^ (32 * (n - l - 1))) := by
        rw [← pow_add, ← pow_add]; congr 1; omega
      have e' : (f n).toNat * 2 ^ (32 * n) = 2 ^ (32 * l) * (2 ^ 32 * ((f n).toNat * 2 ^ (32 * (n - l - 1)))) := by
        rw [e]; ring
      rw [e', Nat.add_mul_div_left _ _ (by positivity), Nat.add_mul_mod_self_left, ih h]
    · rw [Nat.add_mul_div_right _ _ (by positivity), Nat.div_eq_of_lt (natOfLanes_lt f l), zero_add,
        Nat.mod_eq_of_lt (f l).isLt]

theorem ofNat_natOfLanes_lane (f : Nat → Word32) {w n l : Nat} (hw : w = 32 * n) (h : l < n) :
    (BitVec.ofNat w (natOfLanes f n)).extractLsb' (32 * l) 32 = f l := by
  apply BitVec.eq_of_toNat_eq
  subst hw
  rw [BitVec.extractLsb'_toNat, BitVec.toNat_ofNat, Nat.mod_eq_of_lt (natOfLanes_lt f n), Nat.shiftRight_eq_div_pow]
  exact natOfLanes_div f n l h

@[simp] theorem lane_vecOf (f : Nat → Word32) (l : Nat) (h : l < 16) : lane (vecOf f) l = f l :=
  ofNat_natOfLanes_lane f (by decide) h

/-! ### Blocks -/

/-- Where the registers of a block stand: below 56, each in a place of its own. -/
theorem blockFld_toNat {bk : Block} {d : Fld} (hb : blockAt bk d = true) (hd : d.toNat < 56) {r : Nat}
    (hr : r < blockSize bk) :
    (blockFld bk d r).toNat
      = (d.toNat / 8 + r / (bk.cols1.toNat + 1)) * 8 + (d.toNat % 8 + r % (bk.cols1.toNat + 1))
    ∧ (blockFld bk d r).toNat < 56 := by
  have h : ¬ 56 ≤ d.toNat := by omega
  have hb' : d.toNat / 8 + bk.rows1.toNat < 7 ∧ d.toNat % 8 + bk.cols1.toNat < 8 := by
    simpa [blockAt, h] using hb
  have h1 : r / (bk.cols1.toNat + 1) ≤ bk.rows1.toNat := by
    have : r / (bk.cols1.toNat + 1) < bk.rows1.toNat + 1 := Nat.div_lt_of_lt_mul (by rw [Nat.mul_comm]; exact hr)
    omega
  have h2 : r % (bk.cols1.toNat + 1) ≤ bk.cols1.toNat := Nat.lt_succ_iff.1 (Nat.mod_lt _ (by omega))
  have e : (blockFld bk d r).toNat
      = (d.toNat / 8 + r / (bk.cols1.toNat + 1)) * 8 + (d.toNat % 8 + r % (bk.cols1.toNat + 1)) := by
    simp only [blockFld, if_neg h, BitVec.toNat_ofNat]
    exact Nat.mod_eq_of_lt (by omega)
  exact ⟨e, by omega⟩

theorem blockFld_inj {bk : Block} {d : Fld} (hb : blockAt bk d = true) (hd : d.toNat < 56) {r r' : Nat}
    (hr : r < blockSize bk) (hr' : r' < blockSize bk) (h : (blockFld bk d r).toNat = (blockFld bk d r').toNat) : r = r' := by
  have hn : ¬ 56 ≤ d.toNat := by omega
  have hb' : d.toNat / 8 + bk.rows1.toNat < 7 ∧ d.toNat % 8 + bk.cols1.toNat < 8 := by
    simpa [blockAt, hn] using hb
  rw [(blockFld_toNat hb hd hr).1, (blockFld_toNat hb hd hr').1] at h
  have h2 : r % (bk.cols1.toNat + 1) ≤ bk.cols1.toNat := Nat.lt_succ_iff.1 (Nat.mod_lt _ (by omega))
  have h2' : r' % (bk.cols1.toNat + 1) ≤ bk.cols1.toNat := Nat.lt_succ_iff.1 (Nat.mod_lt _ (by omega))
  have e1 : r / (bk.cols1.toNat + 1) = r' / (bk.cols1.toNat + 1) := by omega
  have e2 : r % (bk.cols1.toNat + 1) = r' % (bk.cols1.toNat + 1) := by omega
  rw [← Nat.div_add_mod r (bk.cols1.toNat + 1), ← Nat.div_add_mod r' (bk.cols1.toNat + 1), e1, e2]

/-! ### The law of `writeBlock` -/

/-- The parts of a context that a register write and a raised flag leave. -/
theorem Context.raise_rest (c : Context) (f : Flags) : ContextRest c (c.raise f) := rfl

/-- The pc, the loops and the repeat frame, which writing results does not touch. -/
def Context.flow (c : Context) : Word × List Loop × Option Frame :=
  (c.pc, c.loops, c.frame)

theorem Context.writeReg_fields (c : Context) (lat : Lat) (k : Cls) (n : Nat) (x : Vec) :
    (c.writeReg lat k n x).fflags = c.fflags ∧ (c.writeReg lat k n x).flow = c.flow
    ∧ (c.writeReg lat k n x).hist = c.hist := by
  have hs : (c.setReg k n x).fflags = c.fflags ∧ (c.setReg k n x).flow = c.flow ∧ (c.setReg k n x).hist = c.hist := by
    cases k
    · simp only [Context.setReg]; split <;> exact ⟨rfl, rfl, rfl⟩
    · exact ⟨rfl, rfl, rfl⟩
    · exact ⟨rfl, rfl, rfl⟩
    · simp only [Context.setReg]; split <;> exact ⟨rfl, rfl, rfl⟩
  unfold Context.writeReg
  cases lat with
  | fixed l => dsimp only; split <;> exact hs
  | variable_ => exact hs

@[simp] theorem cut_v (x : Vec) : cut .v x = x := rfl

/-- What the last `n` registers of a block leave, written one by one on a context `c`. -/
theorem Context.writeBlock_spec (c0 : Context) (m : Mask) (lat : Lat) {bk : Block} {d : Fld} (f : Nat → LaneFn)
    (hb : blockAt bk d = true) (n : Nat) (c : Context) (hn : n ≤ blockSize bk)
    (hf : c.fflags = c0.fflags ||| blockFlags m f (blockSize bk - n)) :
    let c' := Context.writeBlock c0 m lat bk d f n c
    ContextRest c c' ∧ c'.flow = c.flow ∧ c'.fflags = c0.fflags ||| blockFlags m f (blockSize bk)
    ∧ (d.toNat < 56 → ∀ r, blockSize bk - n ≤ r → r < blockSize bk →
        c'.reg .v (blockFld bk d r).toNat = c0.mergeV m (blockFld bk d r) (fun l => (f r l).1))
    ∧ (∀ k i, (k = .v → d.toNat < 56 → ∀ r, blockSize bk - n ≤ r → r < blockSize bk → i ≠ (blockFld bk d r).toNat) →
        c'.reg k i = c.reg k i) := by
  induction n generalizing c with
  | zero =>
    refine ⟨rfl, rfl, by simpa [Context.writeBlock] using hf, fun _ r h1 h2 => by omega, fun _ _ _ => rfl⟩
  | succ n ih =>
    let r := blockSize bk - (n + 1)
    let dr := blockFld bk d r
    let x := c0.mergeV m dr (fun l => (f r l).1)
    let c1 := c.raise (activeFlags m (f r))
    let c2 := if 56 ≤ dr.toNat then c1 else c1.writeLanes lat dr.toNat m x
    let l := if 56 ≤ dr.toNat then [] else c0.keptPieces dr.toNat m
    let c3 := if n = 0 then (c2.push x).entryEcc l else c2
    have hr : r < blockSize bk := by omega
    have h2 : ContextRest c c2 ∧ c2.flow = c.flow ∧ c2.fflags = c1.fflags
        ∧ ∀ k i, c2.reg k i = if k = .v ∧ i = dr.toNat ∧ ¬ 56 ≤ dr.toNat then x else c.reg k i := by
      by_cases h : 56 ≤ dr.toNat
      · have e : c2 = c1 := if_pos h
        rw [e]; exact ⟨rfl, rfl, rfl, fun k i => by simp [h]; cases k <;> rfl⟩
      · have e : c2 = c1.writeLanes lat dr.toNat m x := if_neg h
        have w := Context.writeReg_fields c1 (laneLat m lat) .v dr.toNat x
        rw [e]
        refine ⟨contextRest_trans (Context.raise_rest c _) (Context.rest_writeLanes ..), w.2.1, w.1, fun k i => ?_⟩
        rw [Context.reg_writeLanes, Context.reg_writeReg]
        simp only [h, drops, cut_v]
        have : c1.reg k i = c.reg k i := by cases k <;> rfl
        simp [this]
    have h3 : ContextRest c c3 ∧ c3.flow = c.flow ∧ c3.fflags = c1.fflags
        ∧ ∀ k i, c3.reg k i = if k = .v ∧ i = dr.toNat ∧ ¬ 56 ≤ dr.toNat then x else c.reg k i := by
      by_cases h : n = 0
      · have e : c3 = (c2.push x).entryEcc l := if_pos h
        rw [e]
        refine ⟨contextRest_trans h2.1 rfl, h2.2.1, h2.2.2.1, fun k i => ?_⟩
        rw [Context.reg_entryEcc, Context.reg_push]; exact h2.2.2.2 k i
      · have e : c3 = c2 := if_neg h
        rw [e]; exact h2
    have hf3 : c3.fflags = c0.fflags ||| blockFlags m f (blockSize bk - n) := by
      have e : blockSize bk - n = r + 1 := by omega
      rw [h3.2.2.1, e]
      show c.fflags ||| _ = c0.fflags ||| (blockFlags m f r ||| activeFlags m (f r))
      rw [hf, BitVec.or_assoc]
    obtain ⟨i1, i2, i3, i4, i5⟩ := ih c3 (by omega) hf3
    show _ ∧ _
    have ew : Context.writeBlock c0 m lat bk d f (n + 1) c = Context.writeBlock c0 m lat bk d f n c3 := rfl
    rw [ew]
    refine ⟨contextRest_trans h3.1 i1, i2.trans h3.2.1, i3, fun hd r' hr1 hr2 => ?_, fun k i hi => ?_⟩
    · rcases Nat.lt_or_ge r' (blockSize bk - n) with hlt | hge
      · have e : r' = r := by omega
        subst e
        rw [i5 .v _ (fun _ _ r'' h1 h2 heq => by
          have := blockFld_inj hb hd hr h2 heq; omega), h3.2.2.2]
        rw [if_pos ⟨rfl, rfl, Nat.not_le.2 (blockFld_toNat hb hd hr).2⟩]
      · exact i4 hd r' hge hr2
    · rw [i5 k i (fun hk hd r' h1 h2 => hi hk hd r' (by omega) h2), h3.2.2.2]
      rw [if_neg]
      rintro ⟨rfl, rfl, hlt⟩
      have hd : d.toNat < 56 := by
        by_contra hge
        exact hlt (by show 56 ≤ (blockFld bk d r).toNat; rw [blockFld, if_pos (by omega)]; omega)
      exact hi rfl hd r (by omega) hr rfl

/-- The law of the per-lane shape (R291). -/
theorem State.vlanes_wrote {s : State} {h : Hdr} {lat : Lat} {bk : Block} {d : Fld} {srcs : List (Cls × Fld)}
    {f : Context → Nat → LaneFn} (hb : blockAt bk d = true) (he : Readable s h srcs) :
    WroteLanes s (s.vlanes h lat bk d srcs f) h bk d (f s.ctx) := by
  unfold State.vlanes State.laneGuarded
  simp only [Context.readTrap_cons s.ctx _ srcs he.pred he.reads]
  have w := Context.writeBlock_spec s.ctx (s.ctx.active h) (blockLat lat bk) (f s.ctx) hb (blockSize bk) s.ctx le_rfl
    (by simp [blockFlags])
  obtain ⟨w1, w2, w3, w4, w5⟩ := w
  simp only [Nat.sub_self, Nat.zero_le, true_implies] at w4 w5
  have hc := Context.complete_keeps
    (Context.writeBlock s.ctx (s.ctx.active h) (blockLat lat bk) bk d (f s.ctx) (blockSize bk) s.ctx) s.clock h twoWord
  have e1 : _ = s.ctx.pc := congrArg (·.1) w2
  have e2 : _ = s.ctx.loops := congrArg (·.2.1) w2
  have e3 : _ = s.ctx.frame := congrArg (·.2.2) w2
  refine ⟨State.done_only .., ?_, ?_, fun hd r l hr hl => ?_, fun k n hk => ?_, ?_, ?_⟩
  · rw [State.done_ctx]; exact contextRest_trans w1 (Context.rest_complete ..)
  · rw [State.done_ctx, hc.2.1, w3]
  · rw [State.done_ctx, hc.1, w4 hd r hr]
    unfold Context.mergeV
    rw [lane_vecOf _ _ hl, if_neg (Nat.not_le.2 (blockFld_toNat hb hd hr).2)]
  · rw [State.done_ctx, hc.1, w5 k n hk]
  · intro h1 h2
    rw [State.done_ctx, hc.2.2.2.2 (e3.trans h1) (e2.trans h2)]
    exact congrArg (· + _) e1
  · rw [State.done_ctx, hc.2.2.2.1]

end Sys2Proof.Machine
end

