-- ==== Sys2Proof/Tests/Slice0.lean ====
section
/-!
SUPPORT. Sys2Proof/Tests/Slice0.lean: tests. Words from the spec's own encodings and worked examples decode to the instruction
that they stand for; WellFormed refuses a term that breaks each check; worked examples of the spec give the results that it
prints; and for the statements, states and operands that meet their hypotheses.
-/

namespace Sys2Proof.Tests

open Sys2Proof Sys2Proof.Machine Sys2Proof.Safety

-- one test after another: a thread for each of them at once would take the memory of the whole check
set_option Elab.async false

/-! ### Decoding: words from the opcode map and the examples of the reference chapters -/

/-- No stall count and p0. -/
abbrev h0 : Hdr := ⟨0, 0⟩

/-- What a one-word instruction decodes to. -/
abbrev dec (w0 : Word32) : Option Instr := decodeWords w0 0

-- bit by bit, from R229, R230 and R244 to R246: major, function, stall, predicate, then the layout's fields
theorem test_decode_end : dec 0b000001_00_101_011_000000_000000_000000#32 = some (.endAct ⟨5, 3⟩) := by decide
theorem test_decode_brp : dec 0b000100_01_000_000_000010_111111111100#32 = some (.brp h0 .all 2 (-4)) := by decide
theorem test_decode_loopi :
    decodeWords 0b111100_00_000_000_000000_000000_000000#32 0b000001_00000000001001_000000000101#32 = some (.loopi h0 9 5) := by
  decide
theorem test_decode_csrs :
    decodeWords 0b111100_10_000_000_000101_000110_000000#32 0b000000_00000000000000_000000001000#32 = some (.csrs h0 5 6 8) := by
  decide
theorem test_decode_sub : dec 0b001000_01_111_001_000001_000010_000011#32 = some (.sub ⟨7, 1⟩ 1 2 3) := by decide
theorem test_decode_sext : dec 0b001111_11_000_000_000101_000110_001011#32 = some (.sext h0 5 6 11) := by decide
theorem test_decode_vfma :
    decodeWords 0b111001_00_000_010_000100_000101_000110#32 0b000011_000000_10000_000_0_000_000_000_00#32
      = some (.vfma ⟨0, 2⟩ ⟨0, 0⟩ .rne 4 5 6) := by decide
theorem test_decode_ldu : dec 0b100001_01_000_000_000111_000100_111110#32 = some (.ldU h0 .h 7 4 62) := by decide
theorem test_decode_amomin :
    decodeWords 0b111010_11_000_000_000111_000100_000110#32 0b000111_000000_00000_000_0_100_000_000_01#32
      = some (.amoMin h0 true true .pod .acq 7 4 6) := by decide
theorem test_decode_hld : dec 0b101000_00_000_000_000011_000100_001000#32 = some (.hld h0 3 4 8) := by decide
theorem test_decode_forcenb : dec 0b101011_11_000_000_000101_000100_000010#32 = some (.forcenb h0 5 4 2) := by decide
theorem test_decode_sendnb : dec 0b101101_01_000_000_000010_001001_001010#32 = some (.sendnb h0 2 9 10) := by decide
theorem test_decode_gbarv : dec 0b110011_11_000_000_001000_000000_000010#32 = some (.gbarv h0 .pkg 8 2) := by decide
theorem test_decode_mjob : dec 0b110101_00_000_000_001000_010100_000000#32 = some (.mjob h0 8 20) := by decide
theorem test_decode_halo : dec 0b110111_00_000_000_000111_010100_000000#32 = some (.halo h0 7 20) := by decide

-- words that the reference chapters print
theorem test_words_control :
    decodeWords 0xF0000000 0x08000103 = some (.rpt h0 0 1 3) ∧ dec 0x0C007003 = some (.brz h0 7 3)
    ∧ dec 0x0803FFFB = some (.br h0 (-5)) ∧ dec 0x06000000 = some .nop ∧ dec 0x1F000005 = some (.trap h0 5)
    ∧ decodeWords 0xF0E3F000 0xC7FFFFFF = some (.hint 7 1 0x3FFFFFF) := by decide
theorem test_words_refused :
    dec 0 = none ∧ dec 0x0B000000 = none ∧ dec 0x1F000028 = none ∧ decodeWords 0xE7045040 0x200A0000 = none
    ∧ decodeWords 0xE4000000 0xA0000000 = none := by decide
theorem test_words_scalar :
    dec 0x20005187 = some (.add h0 5 6 7) ∧ dec 0x42002146 = some (.cmp h0 .lt 2 5 6)
    ∧ decodeWords 0xF4008042 0x000003E8 = some (.lop3 h0 8 1 2 3 0xE8) ∧ decodeWords 0xE000A2CC 0x00D00000 = some (.fshl h0 10 11 12 13)
    ∧ decodeWords 0xF40040C0 0x080001CC = some (.extr h0 4 3 12 7) ∧ decodeWords 0xFC009000 0x12345678 = some (.movi h0 9 0x12345678)
    ∧ decodeWords 0xFC009241 0xAB = some (.li64 h0 9 9 0xAB) := by decide
theorem test_words_vector :
    decodeWords 0xE4084146 0x0C080000 = some (.vfma ⟨0, 2⟩ ⟨0, 0⟩ .rne 4 5 6)
    ∧ decodeWords 0xE4045040 0x200A0000 = some (.vred ⟨0, 1⟩ .add .i32 .rne 5 1)
    ∧ decodeWords 0xE6201001 0x100A0000 = some (.vcmp ⟨1, 0⟩ .lt .i32 1 0 1)
    ∧ decodeWords 0xF4009042 0x04000396 = some (.vlop3 h0 9 1 2 3 0x96)
    ∧ decodeWords 0xE4004041 0x7C200000 = some (.vfshl h0 ⟨0, 0⟩ 4 1 1 2)
    ∧ decodeWords 0xE4003080 0x89020800 = some (.vcvt h0 ⟨0, 0⟩ .rne true 0x04 0x10 3 2)
    ∧ decodeWords 0xE400A047 0x94B80000 = some (.vsmax h0 .rne 10 1 7 11) := by decide
theorem test_words_memory :
    dec 0x82007108 = some (.ld h0 .w 7 4 8) ∧ dec 0x8A006100 = some (.st h0 .w 6 4 0)
    ∧ decodeWords 0xFB007100 0x00001000 = some (.ldXi h0 .d 7 4 0x1000) ∧ dec 0x94003100 = some (.vld h0 3 4 0)
    ∧ decodeWords 0xEA007140 0x00000300 = some (.lda h0 .w .pkg 7 5) ∧ decodeWords 0xEA006140 0x04000300 = some (.strel h0 .w .pkg 6 5)
    ∧ decodeWords 0xE8000000 0x08000303 = some (.fence h0 .pkg .ar)
    ∧ decodeWords 0xE8007106 0x28800300 = some (.amocas h0 false .pkg .none 7 4 6 8)
    ∧ decodeWords 0xE8005102 0x38000000 = some (.vgath h0 5 4 2) ∧ dec 0x98000182 = some (.wdset h0 6 2)
    ∧ dec 0x99007002 = some (.wdget h0 7 2) := by decide
theorem test_words_heap :
    dec 0xA1003108 = some (.hst h0 3 4 8) ∧ dec 0xA20080D0 = some (.hrd h0 8 3 16) ∧ dec 0xA8001105 = some (.alloc h0 1 4 5)
    ∧ dec 0xAB001042 = some (.heq h0 1 1 2) ∧ dec 0xAE0040C0 = some (.force h0 4 3) ∧ dec 0xB1000100 = some (.spark h0 4)
    ∧ dec 0xB3003105 = some (.evac h0 3 4 5)
    ∧ decodeWords 0xEC003041 0x00080011 = some (.susp h0 .add 3 1 1 0 0x10 .rne false 0 4) := by decide
theorem test_words_messages :
    dec 0xB400024A = some (.send h0 9 10) ∧ decodeWords 0xEC00124A 0x08018000 = some (.sendc h0 1 9 10 3)
    ∧ dec 0x97008002 = some (.msgld h0 8 0 2) ∧ dec 0xB0000141 = some (.done h0 true 5) ∧ dec 0xB8003105 = some (.rktop h0 3 4 5)
    ∧ dec 0xBC00C503 = some (.pmtsnd h0 12 20 3) ∧ dec 0xBE008001 = some (.admitTok h0 8 1) ∧ dec 0xBF008241 = some (.refuse h0 8 9 1)
    ∧ dec 0xC1008241 = some (.kvhLoc h0 8 9 1) ∧ dec 0xC5007005 = some (.bararv h0 7 5) ∧ dec 0xC8000005 = some (.bararvw h0 5) := by
  decide
theorem test_words_engines :
    decodeWords 0xFC001003 0x01008401 = some (.mrset h0 1 0x01008401) ∧ dec 0xD0002140 = some (.mrpush h0 2 5)
    ∧ dec 0xD3009200 = some (.mwait h0 9 8) ∧ dec 0xD8007500 = some (.cpy h0 7 20) ∧ dec 0xDB0091C0 = some (.cpwait h0 9 7) := by
  decide
theorem test_table_word : decodeTableWord 32 0x20005187 = some (.add h0 5 6 7)
    ∧ decodeTableWord 64 0x000000AB_FC009241 = some (.li64 h0 9 9 0xAB) := by decide

/-! ### WellFormed: one ill-formed term for each check -/

theorem test_form_dst_g : ¬ WellFormed (.add h0 56 1 2) ∧ ¬ WellFormed (.movi h0 62 0) ∧ WellFormed (.add h0 63 1 2) := by decide
theorem test_form_dst_p : ¬ WellFormed (.cmp h0 .eq 8 1 2) ∧ ¬ WellFormed (.mrpush h0 62 1) := by decide
theorem test_form_dst_v : ¬ WellFormed (.vld h0 60 1 0) ∧ ¬ WellFormed (.vlop3 h0 56 1 2 3 0) := by decide
theorem test_form_dst_h : ¬ WellFormed (.hld h0 16 1 0) ∧ ¬ WellFormed (.alloc h0 56 1 2) := by decide
theorem test_form_src_p : ¬ WellFormed (.sel h0 1 2 3 8) ∧ WellFormed (.sel h0 1 2 3 56) ∧ ¬ WellFormed (.fork h0 55 0) := by decide
theorem test_form_src_h : ¬ WellFormed (.hmov h0 1 16) ∧ ¬ WellFormed (.upd h0 1 55) := by decide
theorem test_form_field_width : ¬ WellFormed (.extr h0 1 2 60 4) ∧ ¬ WellFormed (.ins h0 63 2 0 0) ∧ ¬ WellFormed (.ins h0 1 2 63 1) := by
  decide
theorem test_form_block : ¬ WellFormed (.vmov h0 ⟨7, 0⟩ 0 0) ∧ ¬ WellFormed (.vmov h0 ⟨1, 0⟩ 48 0) ∧ ¬ WellFormed (.vmov h0 ⟨0, 1⟩ 7 0)
    ∧ ¬ WellFormed (.vadd h0 ⟨0, 1⟩ .rne 0 0 15) := by decide
theorem test_form_rnd : ¬ WellFormed (.vred h0 .add .i32 .rup 1 2) := by decide
theorem test_form_vcvt : ¬ WellFormed (.vcvt h0 ⟨0, 0⟩ .rne false 0x10 0x10 1 2) ∧ ¬ WellFormed (.vcvt h0 ⟨0, 0⟩ .rne false 0x08 0x10 1 2)
    ∧ ¬ WellFormed (.vcvt h0 ⟨0, 0⟩ .rne false 0x10 0 1 2) := by decide
theorem test_form_vpack : ¬ WellFormed (.vpack h0 ⟨0, 0⟩ .rne false 0x10 0 1 2) ∧ ¬ WellFormed (.vunpk h0 ⟨0, 0⟩ 0x11 2 1 2) := by decide
theorem test_form_softmax : ¬ WellFormed (.vsmax h0 .rne 1 2 3 56) ∧ ¬ WellFormed (.vsmrg h0 .rne 1 2 3 1) := by decide
theorem test_form_runs : ¬ WellFormed (.mjob h0 1 53) ∧ ¬ WellFormed (.pmtsnd h0 1 55 1) ∧ ¬ WellFormed (.suspc h0 1 2 1 14 0 3 0 0) := by
  decide
theorem test_form_susp : ¬ WellFormed (.susp h0 .add 1 16 1 0 0x10 .rne false 0 0) ∧ ¬ WellFormed (.susp h0 .red 56 2 1 0 0x10 .rne false 0 0) := by
  decide
theorem test_form_event : ¬ WellFormed .packageReset ∧ ¬ WellFormed .wake := by decide

/-! ### A small state: core 0, context 0, running a code message of 64 zero bytes -/

/-- Core 0, context 0, issuing. -/
def base : State :=
  (State.reset.withCode (List.replicate 64 0)).select { core := 0, ctx := 0 }

/-- A state with g registers of the issuing context set. -/
def withG (s : State) (l : List (Nat × Word)) : State :=
  s.modCtx fun c => l.foldl (fun c e => c.setReg .g e.1 (ofWord e.2)) c

/-- A state with v registers set, every lane the same. -/
def withV (s : State) (l : List (Nat × Word32)) : State :=
  s.modCtx fun c => l.foldl (fun c e => c.setReg .v e.1 (vecOf fun _ => e.2)) c

/-- A state with words of memory set. -/
def withWords (s : State) (l : List (Nat × Word)) : State :=
  l.foldl (fun s e => s.writeWord e.1 e.2) s

/-- The state after an instruction. -/
def run (i : Instr) (s : State) : State :=
  match exec i s with
  | .next t => t
  | .fault _ => s
  | .refused _ => s

/-- A g register after an instruction. -/
def gAfter (i : Instr) (s : State) (n : Nat) : Word :=
  ((run i s).ctx.reg .g n).truncate 64

/-- Lane 0 of a v register after an instruction. -/
def vAfter (i : Instr) (s : State) (n : Nat) : Word32 :=
  lane ((run i s).ctx.reg .v n) 0

/-! ### Results that the spec prints -/

-- R276, R277, R280, R282 to R284, R287: the examples of chapter 21
theorem test_mulh : gAfter (.mulh h0 true 5 6 7) (withG base [(6, 0x8000000000000000), (7, 4)]) 5 = 2
    ∧ gAfter (.mulh h0 false 5 6 7) (withG base [(6, 0x8000000000000000), (7, 4)]) 5 = 0xFFFFFFFFFFFFFFFE := by decide +kernel
theorem test_div : gAfter (.div h0 false 5 6 7) (withG base [(6, -7), (7, 2)]) 5 = -3
    ∧ gAfter (.div h0 true 5 6 7) (withG base [(6, -7), (7, 2)]) 5 = 0x7FFFFFFFFFFFFFFC := by decide +kernel
theorem test_rem : gAfter (.rem h0 false 5 6 7) (withG base [(6, -7), (7, 2)]) 5 = -1
    ∧ gAfter (.rem h0 false 5 6 7) (withG base [(6, 5)]) 5 = 5 := by decide +kernel
theorem test_lop3 : gAfter (.lop3 h0 8 1 2 3 0xE8) (withG base [(1, 12), (2, 10), (3, 6)]) 8 = 14 := by decide +kernel
theorem test_fshl : gAfter (.fshl h0 10 11 12 13) (withG base [(11, 0x0123456789ABCDEF), (12, 0xFEDCBA9876543210), (13, 8)]) 10
    = 0x23456789ABCDEFFE := by decide +kernel
theorem test_fshr : gAfter (.fshr h0 10 11 12 13) (withG base [(11, 0x0123456789ABCDEF), (12, 0xFEDCBA9876543210), (13, 8)]) 10
    = 0xEFFEDCBA98765432 := by decide +kernel
theorem test_counts : gAfter (.popc h0 5 6) (withG base [(6, 0xF00)]) 5 = 4 ∧ gAfter (.clz h0 5 6) (withG base [(6, 0xF00)]) 5 = 52
    ∧ gAfter (.ctz h0 5 6) (withG base [(6, 0xF00)]) 5 = 8 ∧ gAfter (.sext h0 5 6 11) (withG base [(6, 0xF00)]) 5 = 0xFFFFFFFFFFFFFF00 := by
  decide +kernel
theorem test_extr : gAfter (.extr h0 4 3 12 7) (withG base [(3, 0xABCDE123)]) 4 = 0xDE := by decide +kernel
theorem test_ins : gAfter (.ins h0 3 0 12 7) (withG base [(3, 0xABCDE123)]) 3 = 0xABC00123 := by decide +kernel
theorem test_li64 : gAfter (.li64 h0 9 9 0xAB) (withG base [(9, 0x12345678)]) 9 = 0x000000AB12345678 := by decide +kernel
theorem test_g0_discards : gAfter (.movi h0 0 1) base 0 = 0
    ∧ (run (.movi h0 0 1) base).ctx.hist = [ofWord 1] := by decide +kernel

-- R296, R303, R306: the examples of chapter 22
theorem test_vexp2 : vAfter (.vexp2 h0 ⟨0, 0⟩ .rne 3 2) (withV base [(2, 0xC0400000)]) 3 = 0x3E000000
    ∧ (run (.vexp2 h0 ⟨0, 0⟩ .rne 3 2) (withV base [(2, 0xC0400000)])).ctx.fflags = 0 := by decide +kernel
theorem test_vcvt_ties : vAfter (.vcvt h0 ⟨0, 0⟩ .rne true 0x04 0x10 3 2) (withV base [(2, 0x43680000)]) 3 = 0x7E
    ∧ vAfter (.vcvt h0 ⟨0, 0⟩ .rne true 0x04 0x10 3 2) (withV base [(2, 0xC3960000)]) 3 = 0xFE := by decide +kernel
theorem test_vsmax :
    let s := withG (withV base [(10, 0x3F800000), (11, 0), (1, 0x40000000)]) [(7, 0x3F800000)]
    let s := s.modCtx fun c => c.setReg .v 11 (vecOf fun l => if l = 0 then 0x40400000 else if l = 1 then 0x3F800000 else 0)
    vAfter (.vsmax h0 .rne 10 1 7 11) s 10 = 0x3FC00000 ∧ lane ((run (.vsmax h0 .rne 10 1 7 11) s).ctx.reg .v 11) 1 = 0x3FA00000 := by
  decide +kernel
theorem test_vrot : lane ((run (.vrot h0 ⟨0, 0⟩ 3 1 8)
      (withG (base.modCtx fun c => c.setReg .v 1 (vecOf fun l => if l = 0 then 1 else if l = 1 then 0x80000000 else 0)) [(8, 1)])).ctx.reg .v 3) 2
    = 0x80000000 := by decide +kernel
theorem test_vred : gAfter (.vred ⟨0, 0⟩ .add .i32 .rne 5 1) (withV base [(1, 4)]) 5 = 64 := by decide +kernel

-- R323: the example of AMOFADD (R237 of chapter 23's table): 1.0 + 2^-24 keeps 1.0 under RNE
theorem test_amofadd :
    let s := withG (withWords base [(0x10000000000, 0x3F800000)]) [(4, 0x100000000), (6, 0x33800000)]
    (run (.amofadd h0 .rup .co .none 7 4 6) s).readWord 0x10000000000 = 0x3F800001
    ∧ gAfter (.amofadd h0 .rup .co .none 7 4 6) s 7 = 0x3F800000 := by decide +kernel

-- R4, R309, R313: the lowest address holds the lowest byte
theorem test_store_bytes :
    let s := run (.st h0 .w 6 4 4) (withG base [(4, 0x100000000), (6, 0x11223344)])
    s.readByte 0x10000000004 = 0x44 ∧ s.readByte 0x10000000007 = 0x11 ∧ s.readByte 0x10000000008 = 0 := by decide +kernel
theorem test_load_sign :
    gAfter (.ld h0 .b 7 4 0) (withG (withWords base [(0x10000000000, 0x80)]) [(4, 0x100000000)]) 7 = 0xFFFFFFFFFFFFFF80 := by
  decide +kernel

-- R216 to R218, R267: a trap, the entry to trap mode, a Resume
theorem test_trap :
    let s := base.modCore 0 fun k => { k with trapVec := 0x1000000010001 }
    let t := run .trapModeEntry { run (.trap h0 31) s with ev := evCtx { core := 0, ctx := 0 } }
    t.ctx.trapMode = true ∧ t.ctx.pc = 0x1000000010000 ∧ t.ctx.trapPc = 4 ∧ field t.ctx.causeReg 8 0 = 0x3F
    ∧ (run (.eret h0 .resume) t).ctx.pc = 4 ∧ (run (.eret h0 .resume) t).ctx.trapMode = false := by decide +kernel

-- R243 and the fetch: the first instruction after reset
theorem test_step_add :
    (match step (State.reset.withFetchWord 32 0x20005187) with
      | .next t => t.ctx.pc
      | .fault _ => 0
      | .refused _ => 0) = 4 := by decide +kernel
theorem test_step_zero_word :
    (match step (State.reset.withFetchWord 32 0) with
      | .next t => t.ctx.st
      | .fault _ => .free
      | .refused _ => .free) = .trapped := by decide +kernel
theorem test_loop :
    (run (.loopi h0 2 5) base).ctx.loops = [{ start := 8, exit := 20, rem := 3 }] := by decide +kernel

/-! ### Witnesses: for each statement, states and operands that meet its hypotheses -/

/-- Whether what an enabled instruction needs holds. -/
def enabledB (s : State) (h : Hdr) (l : List (Cls × Fld)) : Bool :=
  decide (s.ctx.predTrap h = none) && decide (s.ctx.active h ≠ 0) && decide (s.ctx.readTrap l = none)

theorem enabled_of {s : State} {h : Hdr} {l : List (Cls × Fld)} (e : enabledB s h l = true) : Enabled s h l := by
  simp only [enabledB, Bool.and_eq_true, decide_eq_true_eq] at e
  exact ⟨e.1.1, e.1.2, e.2⟩

theorem readable_of {s : State} {h : Hdr} {l : List (Cls × Fld)} (e : enabledB s h l = true) : Readable s h l :=
  ⟨(enabled_of e).pred, (enabled_of e).reads⟩

/-- Whether an access finds its bytes at these addresses of the package. -/
def hereB (s : State) (e : Elem) (pas : List Nat) : Bool :=
  match s.access s.cur.core e with
  | .ok (.here p _) => decide (p = pas) && decide pas.Nodup && decide (pas.length = e.offs.length)
  | .ok (.away _ _) => false
  | .error _ => false

theorem here_of {s : State} {e : Elem} {pas : List Nat} (h : hereB s e pas = true) : Here s e pas := by
  unfold hereB at h
  split at h
  · rename_i p w hp
    simp only [Bool.and_eq_true, decide_eq_true_eq] at h
    exact ⟨⟨w, by rw [hp, h.1.1]⟩, h.1.2, h.2⟩
  · exact absurd h (by decide)
  · exact absurd h (by decide)

/-- Whether a computation ends well, or with this. -/
def okB {ε α : Type} : Except ε α → Bool
  | .ok _ => true
  | .error _ => false

theorem ok_of {ε α : Type} {x : Except ε α} (h : okB x = true) : ∃ y, x = .ok y := by
  cases x with
  | ok y => exact ⟨y, rfl⟩
  | error e => exact absurd h Bool.false_ne_true

def trapsB {α : Type} : Except Stop α → Bool
  | .error (.trap _) => true
  | .error (.hold _) => false
  | .error (.claim _ _ _) => false
  | .error (.ship _ _) => false
  | .error (.ats _ _) => false
  | .error (.ask _ _ _) => false
  | .ok _ => false

theorem traps_of {α : Type} {x : Except Stop α} (h : trapsB x = true) : ∃ k, x = .error (.trap k) := by
  cases x with
  | ok y => exact absurd h Bool.false_ne_true
  | error e =>
    cases e with
    | trap k => exact ⟨k, rfl⟩
    | hold st => exact absurd h Bool.false_ne_true
    | claim r g => exact absurd h Bool.false_ne_true
    | ship n k => exact absurd h Bool.false_ne_true
    | ats va w => exact absurd h Bool.false_ne_true
    | ask p a o => exact absurd h Bool.false_ne_true

/-- A leaf of a 64 KiB page at level 1 of the HBM window. -/
def pageState : State :=
  (withWords base [(0x10000 + 8 * 32, 0x8000000000012000), (0x12000, 0x8000000000013000), (0x13000, 0x8000000000014000),
    (0x14000, 0xF810000000500000)]).modDie 0 fun d => { d with space := at_ 48 1 ||| 0x10001 }

/-- No die has stopped. -/
def diesRun (s : State) : Bool :=
  List.all s.dies fun e => !e.2.stopped

theorem diesRun_die {s : State} (h : diesRun s = true) (n : Nat) : (s.die n).stopped = false := by
  have run : ∀ (l : FMap Die), List.all l (fun e => !e.2.stopped) = true → (FMap.get {} l n).stopped = false := by
    intro l
    induction l with
    | nil => intro _; rfl
    | cons e l ih =>
      intro h
      simp only [List.all_cons, Bool.and_eq_true, Bool.not_eq_true'] at h
      by_cases hk : n = e.1
      · simpa [FMap.get, FMap.find?, hk] using h.1
      · simpa [FMap.get, FMap.find?, hk] using ih h.2
  exact run s.dies h

/-- A walk looks at an address through its table indices and its window only. -/
theorem walkFrom_congr (s : State) (d va va' : Nat) (hw : windowOf va = windowOf va') : ∀ (n table : Nat),
    (∀ l, 0 < l → l ≤ n → tableIndex l va = tableIndex l va') → s.walkFrom d va n table = s.walkFrom d va' n table
  | 0, _, _ => rfl
  | n + 1, table, h => by
    have hb (w : Word) : pteBad (n + 1) va w = pteBad (n + 1) va' w := by unfold pteBad; rw [hw]
    simp only [State.walkFrom, h (n + 1) (by omega) (Nat.le_refl _), hb,
      walkFrom_congr s d va va' hw n _ fun l h0 hl => h l h0 (by omega)]

theorem windowOf_hbmPage (off : Nat) (h : off < 0x10000) : windowOf (0x1000000000000 + off) = .hbm := by
  unfold windowOf
  repeat (first | rw [if_neg (by omega)] | rw [if_pos (by omega)])

theorem walk_hbmPage (s : State) (d : Nat) (space : Word) (off : Nat) (h : off < 0x10000) :
    s.walk d space (0x1000000000000 + off) = s.walk d space 0x1000000000000 := by
  have hi : ∀ l, 0 < l → l ≤ 4 → tableIndex l (0x1000000000000 + off) = tableIndex l 0x1000000000000 := by
    intro l h0 hl
    obtain rfl | rfl | rfl | rfl : l = 1 ∨ l = 2 ∨ l = 3 ∨ l = 4 := by omega
    all_goals (unfold tableIndex; omega)
  simp only [State.walk, walkFrom_congr s _ _ _ ((windowOf_hbmPage off h).trans (windowOf_hbmPage 0 (by decide)).symm) 4 _ hi]

/-- The first 64 KiB of the HBM window, when one leaf of them is found and no page moves. -/
theorem imagePa_hbmPage {s : State} {d : Nat} {pte : Word} {k : Kind} (hf : s.frames = []) (hr : s.redirs = [])
    (hd : diesRun s = true)
    (hl : (match s.walk d (s.die d).space 0x1000000000000 with
      | .ok l => decide (l.pte = pte ∧ l.bits = 16)
      | .error _ => false) = true) (hk : permits pte k = true) (off : Nat) (h : off < 0x10000) :
    s.imagePa d (0x1000000000000 + off) true k = some (pteAddr pte + off) := by
  split at hl
  · rename_i l hw
    obtain ⟨hp, hb⟩ := of_decide_eq_true hl
    have ho : (0x1000000000000 + off) % 2 ^ 16 = off := by omega
    have hn (a : Nat) : s.redirect a = a := by
      rw [State.redirect, hr]; show a / 0x10000 * 0x10000 + a % 0x10000 = a; omega
    simp only [State.imagePa, State.translateIn, State.turnFor, hf, List.findSome?_nil, walk_hbmPage s _ _ off h, hw, State.landed,
      hp, hb, hn, ho, hk, diesRun_die hd, true_and, Bool.not_false, or_true, if_true]
  · exact absurd hl (by decide)

theorem readImage_of {s : State} {d : Nat} {v : Bool} {pa : Nat} (hp : s.poison = []) : ∀ (n a o : Nat),
    (∀ k, k < n → s.imagePa d (a + k) v .load = some (pa + o + k)) → s.readImage d v a n = some (s.readBytes (pa + o) n)
  | 0, _, _, _ => rfl
  | n + 1, a, o, h => by
    have hq : s.poisoned (pa + o) = false := by rw [State.poisoned, hp]; rfl
    have ih := readImage_of (pa := pa) hp n (a + 1) (o + 1) fun k hk => by
      have := h (k + 1) (by omega)
      rw [show a + 1 + k = a + (k + 1) by omega, this]; congr 1; omega
    have h0 := h 0 (by omega)
    simp only [Nat.add_zero] at h0
    simp only [State.readImage, h0, ih, hq, State.readBytes]
    rfl

/-- The image at the start of that page. -/
theorem readImage_page (s : State) (hf : s.frames = []) (hr : s.redirs = []) (hp : s.poison = [])
    (hd : diesRun s = true)
    (hl : (match s.walk 0 (s.die 0).space 0x1000000000000 with
      | .ok l => decide (l.pte = 0xF810000000500000 ∧ l.bits = 16)
      | .error _ => false) = true) : s.readImage 0 true 0x1000000000000 6144 = some (s.readBytes 0x500000 6144) :=
  readImage_of hp 6144 0x1000000000000 0 fun k hk => imagePa_hbmPage hf hr hd hl (by decide) k (by omega)

-- a register destination and a discard, p0 and another predicate
theorem witness_ScalarTwoSourceResults :
    dstOk .g 55 = true ∧ dstOk .g 63 = true ∧ Enabled base h0 [gs 1, gs 55]
    ∧ Enabled (withG base [(1, 7)]) ⟨7, 0⟩ [gs 1, gs 0] := by
  refine ⟨?_, ?_, enabled_of ?_, enabled_of ?_⟩ <;> decide +kernel

-- the counts of leading and trailing zeros at 0 and at 64, a field that ends at bit 63
theorem witness_ScalarOneSourceAndComparisons :
    Enabled (withG base [(1, 1)]) h0 [gs 1] ∧ Enabled base h0 [] ∧ Enabled base h0 [gs 1, gs 2] ∧ dstOk .p 0 = true
    ∧ (∀ m, m < 64 → (0 : Word).getLsbD (63 - m) = false) ∧ (1 : Word).getLsbD 0 = true
    ∧ (63 : BitVec 6).toNat + (0 : BitVec 6).toNat + 1 ≤ 64 := by
  refine ⟨enabled_of ?_, enabled_of ?_, enabled_of ?_, ?_⟩ <;> decide +kernel

-- a base in a window with a result in it, a result beyond it, a base in no window
theorem witness_ScalarThreeSourceResults :
    let s := withG base [(1, 0x1000FFFFF), (2, 1), (3, 0)]
    Enabled s h0 [gs 1, gs 2, gs 3] ∧ srcOk .p 0 = true ∧ Enabled s h0 [gs 1, gs 2, (.p, 0)] ∧ Enabled s h0 [gs 1, gs 2]
    ∧ windowOf (s.ctx.srcG 1).toNat = .local_ 0 ∧ windowOf 0x100100000 = .local_ 1 ∧ windowOf (s.ctx.srcG 3).toNat = .none := by
  refine ⟨enabled_of ?_, ?_, enabled_of ?_, enabled_of ?_, ?_⟩ <;> decide +kernel

-- one register, and a block of four that ends at v55
theorem witness_VectorFloatResults :
    vBlk3 block1 55 0 1 = true ∧ vBlk3 ⟨3, 0⟩ 31 0 1 = true
    ∧ Readable base h0 ([31, 0, 1].flatMap (blockSrcs ⟨3, 0⟩)) := by
  refine ⟨?_, ?_, readable_of ?_⟩ <;> decide +kernel

theorem witness_VectorIntegerResults :
    vBlk3 ⟨2, 0⟩ 39 0 1 = true ∧ blockAt ⟨2, 0⟩ 2 = true ∧ Readable base h0 ([0, 1, 2].flatMap (blockSrcs ⟨2, 0⟩)) := by
  refine ⟨?_, ?_, readable_of ?_⟩ <;> decide +kernel

theorem witness_VectorSelectAndReduce :
    vBlk2 ⟨1, 0⟩ 47 0 = true ∧ blockAt ⟨1, 0⟩ 2 = true ∧ srcOk .p 7 = true
    ∧ Readable base h0 (blockSrcs ⟨1, 0⟩ 0 ++ blockSrcs ⟨1, 0⟩ 2 ++ [(.p, 7)]) ∧ Readable base h0 (blockSrcs ⟨1, 0⟩ 0 ++ [gs 2])
    ∧ laneRndOk .f32 .rup = true ∧ laneRndOk .i32 .rne = true ∧ Readable base h0 [(.v, 1), (.v, 2)]
    ∧ Enabled base h0 [(.v, 1), gs 2] := by
  refine ⟨?_, ?_, ?_, readable_of ?_, readable_of ?_, ?_, ?_, readable_of ?_, enabled_of ?_⟩ <;> decide +kernel

theorem witness_VectorConversionResults :
    vBlk2 block1 3 2 = true ∧ Readable base h0 (blockSrcs block1 2 ++ blockSrcs block1 3)
    ∧ cvtFmtOk 0x10 = true ∧ cvtFmtOk 0x04 = true ∧ packFmtOk 0x11 = true ∧ fmt16 0x11 = true := by
  refine ⟨?_, readable_of ?_, ?_⟩ <;> decide +kernel

-- two rows that hold something, and an empty second one
theorem witness_SoftmaxRows :
    let s := withV base [(1, 0x3F800000), (2, 0x3F800000), (3, 0x3F800000)]
    Enabled s h0 [(.v, 1), (.v, 2), gs 4, (.v, 3)] ∧ Enabled s h0 [(.v, 1), (.v, 2), (.v, 4), (.v, 3)]
    ∧ (softMerge (s.ctx.mode .rne) 0x3F800000 0x3F800000 0x3F800000 0x3F800000 (fun _ => 0) (fun _ => 0)).isSome = true
    ∧ (softMerge (s.ctx.mode .rne) 0 0 0xFF800000 0 (fun _ => 0) (fun _ => 0)).isNone = true := by
  refine ⟨enabled_of ?_, enabled_of ?_, ?_⟩ <;> decide +kernel

-- the last instruction of the payload, its end, and an address that is no multiple of four
theorem witness_TransfersOfControl :
    let s := withG base [(1, 60), (2, 64), (3, 2)]
    s.ctx.capturing = false ∧ Enabled s h0 [gs 1] ∧ Enabled s h0 [(.p, 0)] ∧ s.codeLen s.cur = some 64
    ∧ offsetTarget s.ctx (15 : BitVec 12) = 60 ∧ offsetTarget s.ctx (16 : BitVec 18) = 64
    ∧ indirectTarget (s.ctx.srcG 1) = 60 ∧ indirectTarget (s.ctx.srcG 2) = 64 ∧ indirectTarget (s.ctx.srcG 3) = 2
    ∧ s.ctx.endsClosure 60 = false := by
  refine ⟨?_, enabled_of ?_, enabled_of ?_, ?_⟩ <;> decide +kernel

/-- A state whose issuing context is about to run `code` inside a repeat frame of stride 1 that captured `caps`. -/
def inFrame (code : List Byte) (caps : List (Word × Instr)) (replay count : Nat) (loops : List Loop := []) : State :=
  (State.reset.withCode code).modCore 0 fun k => k.setCtx 0 { k.ctx 0 with
    frame := some { count, stride := 1, len := 1, caps, replay, pos := 0 }, loops, pc := 4 }

/-- Whether a step of a state replays or ends the capture of this frame. -/
def framedB (s : State) : Bool :=
  decide (s.nextDue = none) && decide (s.nextIssue = some { core := 0, ctx := 0 }) && (s.select { core := 0, ctx := 0 }).ctx.frame.isSome

/-- Whether what a state fetches for its context is this instruction of one word. -/
def fetchesB (s : State) (y : Instr) : Bool :=
  match (s.select { core := 0, ctx := 0 }).fetch { core := 0, ctx := 0 } with
  | .instr x len => decide (x = y) && decide (len = 4)
  | .illegal _ _ | .fault _ | .stall _ => false

-- an exit after the body and one in it, a count of zero with and without a loop that ends there, four loops
theorem witness_LoopsAndRepeatFrames :
    let loop : Loop := { start := 0, exit := 12, rem := 3 }
    let inner := base.modCtx fun c => { c with loops := [loop] }
    let four := base.modCtx fun c => { c with loops := [loop, loop, loop, loop] }
    let exit := offsetTarget base.ctx (2 : BitVec 12)
    Enabled (withG base [(1, 3)]) h0 [gs 1] ∧ Enabled base h0 [gs 9] ∧ base.ctx.capturing = false ∧ base.ctx.loops = []
    ∧ (2 : BitVec 12).toInt = 2 ∧ (1 : BitVec 12).toInt < 2 ∧ (base.ctx.pc + 4).toNat < exit.toNat
    ∧ (base.ctx.srcG 9).toNat % 2 ^ 32 = 0 ∧ ((withG base [(1, 3)]).ctx.srcG 1).toNat % 2 ^ 32 = 3
    ∧ exit.toNat ≤ loop.exit.toNat ∧ exit ≠ loop.exit ∧ ¬ (offsetTarget base.ctx (4 : BitVec 12)).toNat ≤ loop.exit.toNat
    ∧ offsetTarget base.ctx (3 : BitVec 12) = loop.exit ∧ inner.ctx.loops.length < 4 ∧ 4 ≤ four.ctx.loops.length
    ∧ (inFrame [] [(0, .add h0 1 2 3)] 0 4).ctx.capturing = true
    ∧ (let far := base.modCtx fun c => { c with pc := 0xFFFFFFFFFFFFC }
      (offsetTarget far.ctx (2 : BitVec 12)).toNat ≤ (far.ctx.pc + 4).toNat) := by
  refine ⟨enabled_of ?_, enabled_of ?_, ?_⟩ <;> decide +kernel

-- a replay whose fields step, leave the file, and make a block that leaves it
theorem witness_LoopsAndRepeatFrames_replay :
    let s := inFrame [] [(0, .add h0 1 2 3)] 2 4
    let t := inFrame [] [(0, .add h0 55 2 3)] 1 4
    let u := inFrame [] [(0, .vadd h0 ⟨1, 0⟩ .rne 54 0 2)] 1 4
    framedB s = true ∧ stepped (2 * 1) (.add h0 1 2 3) = some (.add h0 3 4 5) ∧ formOk (.add h0 3 4 5) = true
    ∧ framedB t = true ∧ stepped (1 * 1) (.add h0 55 2 3) = none
    ∧ framedB u = true ∧ stepped (1 * 1) (.vadd h0 ⟨1, 0⟩ .rne 54 0 2) = some (.vadd h0 ⟨1, 0⟩ .rne 55 1 3)
    ∧ formOk (.vadd h0 ⟨1, 0⟩ .rne 55 1 3) = false := by decide +kernel

-- an instruction that is not captured: after no capture, with no replay left inside and at the end of a loop, and with replays left
theorem witness_LoopsAndRepeatFrames_end :
    let code : List Byte := [0, 0, 0, 0, 0, 0, 0, 0x06]
    let loop : Loop := { start := 0, exit := 4, rem := 3 }
    let add : Instr := .add h0 1 2 3
    let last := inFrame code [(0, add)] 0 1 [loop]
    capturable .nop = false ∧ frameBranch .nop = false
    ∧ (∀ s ∈ [inFrame code [] 0 4, inFrame code [(0, add)] 0 1, last, inFrame code [(0, add)] 0 2, inFrame code [(0, .add h0 55 2 3)] 0 2],
        framedB s = true ∧ fetchesB s .nop = true)
    ∧ loopCount [] 0 4 = ([], 4) ∧ loopCount last.ctx.loops 0 4 = ([{ loop with rem := 2 }], 0)
    ∧ stepped 1 add = some (.add h0 2 3 4) ∧ formOk (.add h0 2 3 4) = true ∧ stepped 1 (.add h0 55 2 3) = none := by decide +kernel

-- an active lane, no active lane, and a predicate that is pending
theorem witness_PassingAndSleeping :
    let s := withG base [(1, 5)]
    let t := base.modCtx fun c => c.setReg .p 3 0
    let u := base.modCtx fun c => { c with pend := [{ cls := Cls.num .p, idx := 3, readyAt := 9, old := 0 }] }
    Enabled s h0 [gs 1] ∧ s.ctx.srcG 1 ≠ 0 ∧ s.ctx.srcG 2 = 0
    ∧ t.ctx.predTrap ⟨0, 3⟩ = none ∧ t.ctx.active ⟨0, 3⟩ = 0 ∧ u.ctx.predTrap ⟨0, 3⟩ = some 0x003 := by
  refine ⟨enabled_of ?_, ?_⟩ <;> decide +kernel

/-- Core 0, context 0, in trap mode. -/
def handler : State :=
  base.modCtx fun c => { c with trapMode := true, aside := some { hist := [1], loops := [], frame := none } }

theorem witness_TrapsAndTrapMode :
    let t := (base.trap { code := 0x1FF, acc := 15, level := 7, objk := 3 })
    let s := { t with ev := evCtx { core := 0, ctx := 0 } }
    (s.ctxAt s.evId).st = .trapped ∧ (s.ctxAt s.evId).trapMode = false
    ∧ ((s.modCore 0 fun k => { k with trapVec := 1 }).core s.evId.core).trapVec.getLsbD 0 = true := by decide +kernel

theorem witness_TrapModeIsLeft :
    handler.ctx.trapMode = true ∧ handler.ctx.aside = some { hist := [1], loops := [], frame := none } ∧ handler.ctx.heldReqs = []
    ∧ handler.ctx.capturing = false ∧ Enabled handler h0 [] ∧ Enabled base h0 [] ∧ base.ctx.trapMode = false
    ∧ base.ctx.aside = none := by
  refine ⟨?_, ?_, ?_, ?_, enabled_of ?_, enabled_of ?_, ?_⟩ <;> decide +kernel

theorem witness_ActivationsEndOrRestart :
    base.ctx.capturing = false ∧ Enabled base h0 [] ∧ base.ctx.heldReqs = [] ∧ base.ctx.chain = [] ∧ base.ctx.trapMode = false
    ∧ Enabled handler h0 [] ∧ handler.ctx.chain = [] ∧ handler.ctx.forkChild = false ∧ handler.ctx.continued = false
    ∧ (handler.modCtx fun c => { c with forkChild := true }).ctx.forkChild = true := by
  refine ⟨?_, enabled_of ?_, ?_, ?_, ?_, enabled_of ?_, ?_⟩ <;> decide +kernel

-- no lane, every lane, one lane with a Dormant context of the kernel; a join word with one part left, and with two
theorem witness_ForkAndJoin :
    let s := base.modCtx fun c => (c.setReg .p 1 1).setReg .p 2 0
    let t := s.setCtxAt { core := 0, ctx := 3 } { kernel := s.ctx.kernel, st := .dormant }
    let u := withG (withWords base [(spadBase 0 + 8, 1), (spadBase 0 + 16, 0x0000000300000002)]) [(1, 0x100000008), (2, 0x100000010)]
    Enabled s h0 [(.p, 0)] ∧ s.ctx.st = .running ∧ s.ctx.srcP 2 &&& s.ctx.active h0 = 0 ∧ s.ctx.srcP 0 &&& s.ctx.active h0 = s.ctx.lmask
    ∧ s.ctx.srcP 1 &&& s.ctx.active h0 = 1 ∧ t.ctx.kernel.bind t.me.dormantOf = some 3
    ∧ (offsetTarget s.ctx (1 : BitVec 12)) = 4
    ∧ Enabled u h0 [gs 1] ∧ u.joinOffset (u.ctx.srcG 1).toNat = some 8 ∧ field (u.readWord (spadBase 0 + 8)) 15 0 = 1
    ∧ u.joinOffset (u.ctx.srcG 2).toNat = some 16 ∧ field (u.readWord (spadBase 0 + 16)) 15 0 = 2 ∧ u.poisoned (spadBase 0 + 8) = false := by
  refine ⟨enabled_of ?_, ?_, ?_, ?_, ?_, ?_, ?_, enabled_of ?_, ?_⟩ <;> decide +kernel

-- a register with RW bits, one that does not exist; an entry of the kernel and one of another
theorem witness_ControlRegistersAndTagEnables :
    let s := base.modCore 0 fun k => { k with
      tags := (k.tags.put 0 { word := bitAt 63 true, kernel := 0, en := true }).put 63 { word := bitAt 63 true, kernel := 1, en := true } }
    (base.csr 0).isSome = true ∧ base.csr 0xFFF = none ∧ Enabled base h0 [gs 1] ∧ Enabled s h0 []
    ∧ (s.me.tag 0).v = true ∧ some (s.me.tag 0).kernel = s.ctx.kernel ∧ some (s.me.tag 63).kernel ≠ s.ctx.kernel ∧ (s.me.tag 5).v = false := by
  refine ⟨?_, ?_, enabled_of ?_, enabled_of ?_, ?_⟩ <;> decide +kernel

-- a target in each state, one of every wait, one in trap mode, the issuing context itself, a misaligned image, a core that is not there
theorem witness_SaveAndRestoreRequests :
    let s := withG handler [(1, 0x2000), (2, 0x1000), (3, 0x3FF), (4, 0), (5, 0x1001)]
    let t := CtxId.mk 0 1
    let put := fun (c : Context) => s.setCtxAt t c
    let wait := fun (k : WaitKind) => put { st := .waiting, wait := some { kind := k, since := 0, h := h0 } }
    Enabled (put { st := .ready }) h0 [gs 1, gs 2] ∧ (put { st := .ready }).ctx.trapMode = true ∧ (s.ctx.srcG 2).toNat % 64 = 0
    ∧ (s.ctx.srcG 5).toNat % 64 ≠ 0 ∧ CtxId.mk (field (s.ctx.srcG 4) 12 0) (field (s.ctx.srcG 4) 15 13) = s.cur
    ∧ CtxId.mk (field (s.ctx.srcG 1) 12 0) (field (s.ctx.srcG 1) 15 13) = t ∧ t ≠ s.cur ∧ s.coreMapped 0 = true
    ∧ (∀ st ∈ [CtxState.ready, .running, .trapped, .saving, .saved, .restoring, .free, .dormant],
      ((put { st := st }).ctxAt t).st = st ∧ (put { st := st }).holdsSave t = false)
    ∧ ((put { st := .dormant, reserved := true }).ctxAt t).st = .dormant
    ∧ (∀ k ∈ [WaitKind.barrier 0 0, .kbarrier 0 0, .job 1 2, .copy 1 2, .sleep 9 2, .force 0],
      ((wait k).ctxAt t).wait = some { kind := k, since := 0, h := h0 } ∧ (wait k).holdsSave t = false)
    ∧ (put { st := .ready, trapMode := true }).holdsSave t = true
    ∧ s.coreMapped (field (s.ctx.srcG 3) 12 0) = false ∧ s.readImage 0 true 0x1000 6144 = none ∧ s.imageHold 0 0x1000 6144 true = none := by
  refine ⟨enabled_of ?_, ?_⟩ <;> decide +kernel

/-- Core 0 in a handler, with an image in the first page of the HBM window: g1 names context 1, g2 the image, g3 a core of die 1. -/
def crestState (w0 : Word) : State :=
  let s := withWords pageState [(0x500000, w0)]
  (withG (s.modCtx fun c => { c with trapMode := true }) [(1, 0x2000), (2, 0x1000000000000), (3, 0x400)]).setCtxAt { core := 0, ctx := 1 }
    { st := .dormant, kernel := some 0 }

-- an image that passes R64 and fits, one of a format that is none, one of another kernel, a page that migrates, a die that has stopped
theorem witness_SaveAndRestoreRequests_image :
    let s := crestState 1
    let t := CtxId.mk 0 1
    let other := s.setCtxAt t { st := .saved, kernel := some 1 }
    let frames : FMap FrameHold := [(0x50, { dest := 0x60, streaming := true, queue := [] })]
    let moves := { withWords s [(0x14000, 0xF810000000500000 ||| bitAt 57 true)] with frames }
    let tripped := s.modDie 1 fun d => { d with stopped := true }
    let fits := fun (s : State) (b : Bool) => match s.imageFits t 0x1000000000000 (s.readBytes 0x500000 6144) with
      | .ok x => x == b
      | .error _ => false
    s.readImage 0 true 0x1000000000000 6144 = some (s.readBytes 0x500000 6144) ∧ imageOk (s.readBytes 0x500000 6144) = true
    ∧ fits s true = true ∧ fits other false = true
    ∧ imageOk ((crestState 2).readBytes 0x500000 6144) = false
    ∧ (Enabled s h0 [gs 1, gs 2] ∧ s.ctx.trapMode = true ∧ (s.ctx.srcG 2).toNat = 0x1000000000000 ∧ s.imageHold 0 0x1000000000000 6144 true = none
      ∧ (s.ctxAt t).st = .dormant ∧ (other.ctxAt t).st = .saved ∧ (moves.imageHold 0 0x1000000000000 6144 true).isSome = true)
    ∧ tripped.coreMapped (field (tripped.ctx.srcG 3) 12 0) = true ∧ (tripped.die (coreDie (field (tripped.ctx.srcG 3) 12 0))).stopped = true
    ∧ coreDie (field (tripped.ctx.srcG 3) 12 0) ≠ coreDie tripped.cur.core := by
  refine ⟨readImage_page _ ?_ ?_ ?_ ?_ ?_, ?_, ?_, ?_, ?_, ⟨enabled_of ?_, ?_⟩, ?_⟩ <;> decide +kernel

/-! Memory: raw scratchpad accesses of core 0 through its first local window, and a format window of FP8 elements. -/

/-- g1 at the start of the window, g2 with a value, g3 one element further, g4 in no window, g5 at the window's last byte. -/
def padState : State :=
  withG (withWords base [(spadBase 0, 0x1122334455667788)]) [(1, 0x100000000), (2, 0x55), (3, 1), (4, 0), (5, 0x1000FFFFF), (6, 0x1000FFFF8)]

/-- The physical addresses of `n` bytes of the scratchpad of core 0. -/
def padAt (off n : Nat) : List Nat :=
  (List.range n).map (spadBase 0 + off + ·)

theorem witness_ScalarLoadsAndStores :
    Enabled padState h0 [gs 1] ∧ Enabled padState h0 [gs 1, gs 3] ∧ Enabled padState h0 [gs 2, gs 1, gs 3]
    ∧ Here padState (padState.ctx.elem .load 0x100000000 8) (padAt 0 8) ∧ Here padState (padState.ctx.elem .store 0x100000008 8) (padAt 8 8)
    ∧ (∃ k, padState.access 0 (padState.ctx.elem .load 0 8) = .error (.trap k))
    ∧ ∃ k, padState.access 0 (padState.ctx.elem .store 0x100000004 8) = .error (.trap k) := by
  refine ⟨enabled_of ?_, enabled_of ?_, enabled_of ?_, here_of ?_, here_of ?_, traps_of ?_, traps_of ?_⟩ <;> decide +kernel

theorem witness_AccessChecksAndScratchpads :
    let s := padState
    Enabled s h0 [gs 1] ∧ s.ctx.wd 0 = none ∧ windowOf 0 = .none ∧ windowOf 0xFFFFFFFF = .none
    ∧ windowOf 0x100000001 = .local_ 0 ∧ 0x100000001 % 2 ≠ 0 ∧ s.ctx.wd 0x100000001 = none
    ∧ windowOf 0x1000FFFFF = .local_ 0 ∧ windowOf (0x1000FFFFF + 1) ≠ windowOf 0x1000FFFFF ∧ s.ctx.wd 0x1000FFFFF = none
    ∧ 0x1000FFFF8 % 8 = 0 ∧ ¬ (0x1000FFFF8 % 0x100000 + 0 < spadBytes (coreDie 0)) ∧ s.coreMapped 0 = true
    ∧ Enabled s h0 [gs 2, gs 1] ∧ 0x100000000 % 0x100000 + Size.bytes .d ≤ spadBytes (coreDie s.cur.core)
    ∧ (∀ k, k < 8 → s.poisoned (spadBase 0 + 0 + k) = false) ∧ Enabled (run (.st h0 .d 2 1 0) s) h0 [gs 1]
    ∧ (run (.st h0 .d 2 1 0) s).ctx.srcG 1 + (0 : BitVec 6).signExtend 64 = 0x100000000 := by
  refine ⟨enabled_of ?_, ?_, ?_, ?_, ?_, ?_, ?_, ?_, ?_, ?_, ?_, ?_, ?_, enabled_of ?_, ?_, ?_, enabled_of ?_,
    ?_⟩ <;> decide +kernel

theorem witness_VectorLoadsAndStores :
    padState.ctx.parts = none ∧ Enabled padState h0 [gs 1] ∧ Enabled padState h0 [(.v, 1), gs 1]
    ∧ Here padState (padState.ctx.vecElem .load 0x100000000 0xFFFF) (padAt 0 64)
    ∧ Here padState (padState.ctx.vecElem .store 0x100000000 0x0001) (padAt 0 4)
    ∧ padState.ctx.active h0 = 0xFFFF := by
  refine ⟨?_, enabled_of ?_, enabled_of ?_, here_of ?_, here_of ?_, ?_⟩ <;> decide +kernel

/-- What holds of where the elements of a strided block of `padState` lie. -/
def stridedB (s : State) (kind : Kind) (p : List Placed → Bool) : Bool :=
  match s.placeStrided s.ctx kind (s.ctx.srcG 1) (s.ctx.srcG 7) 4 (stridedElems 0xFFFF ⟨1, 0⟩) with
  | .ok l => p l
  | .error _ => false

/-- The bytes of an element that lies in the package. -/
def pasOf (p : Placed) : List Nat :=
  match p.place with
  | .here pas _ => pas
  | .away _ _ => []

-- 32 elements in the package, no byte of them twice
theorem witness_StridedBlocks :
    let s := withG padState [(7, 4)]
    Enabled s h0 [gs 1, gs 7] ∧ Enabled s h0 (blockSrcs ⟨1, 0⟩ 2 ++ [gs 1, gs 7]) ∧ s.ctx.parts = none
    ∧ blkOk ⟨1, 0⟩ = true ∧ blockAt ⟨1, 0⟩ 2 = true
    ∧ ∀ kind ∈ [Kind.load, .store],
        stridedB s kind (fun l => decide (l.length = 32) && l.all fun p => (pasOf p).length == 4) = true
        ∧ stridedB s kind (fun l => decide (l.flatMap pasOf).Nodup) = true := by
  refine ⟨enabled_of ?_, enabled_of ?_, ?_⟩ <;> decide +kernel

-- every lane, one lane of the predicate p1, and no lane of p2
theorem witness_GatherAndScatter :
    let s := padState.modCtx fun c => ((c.setReg .v 2 (vecOf fun l => BitVec.ofNat 32 (4 * l))).setReg .p 1 0x8000).setReg .p 2 0
    Enabled s h0 [gs 1, (.v, 2)] ∧ (s.ctx.gprog = 0 ∧ s.ctx.replies = [] ∧ s.coreMapped s.cur.core = true)
    ∧ Enabled s h0 [(.v, 1), gs 1, (.v, 2)]
    ∧ (∀ l, l < 16 → (s.ctx.srcG 1 + (lane (s.ctx.srcV 2) l).signExtend 64).toNat = 0x100000000 + 4 * l)
    ∧ Here s (s.ctx.elem .gather 0x100000000 4) (padAt 0 4) ∧ Here s (s.ctx.elem .gather 0x10000003C 4) (padAt 60 4)
    ∧ Enabled s ⟨0, 1⟩ [(.v, 1), gs 1, (.v, 2)] ∧ s.ctx.active ⟨0, 1⟩ = 0x8000
    ∧ Here s (s.ctx.elem .scatter 0x10000003C 4) (padAt 60 4) ∧ s.ctx.predTrap ⟨0, 2⟩ = none ∧ s.ctx.active ⟨0, 2⟩ = 0 := by
  refine ⟨enabled_of ?_, ?_, enabled_of ?_, ?_, here_of ?_, here_of ?_, enabled_of ?_, ?_, here_of ?_, ?_⟩ <;> decide +kernel

/-- The element of an atomic of g1, and whether its window takes the operation. -/
def atomElem (s : State) (op : Amo) (n : Nat) : Elem :=
  let e := { s.ctx.elem .atomic (s.ctx.srcG 1).toNat n with scales := [] }
  { e with atomicOk := op.allowed (windowOf e.va) && (windowOf e.va != .heap || s.insidePinned s.cur.core e) }

-- through the scratchpad; to the host, to a peer, to a heap window with no pinned object, and through a format window
theorem witness_AtomicResults :
    let host := withG padState [(1, 0x9000000000000)]
    let peer := withG padState [(1, 0xC000000000000)]
    let heap := withG padState [(1, 0x8000000000000)]
    let format := padState.modCtx fun c => { c with win := c.win.put 0 0x10 }
    Enabled padState h0 [gs 1, gs 2] ∧ padState.ctx.wd 0x100000000 = none ∧ Enabled padState h0 [gs 1, gs 2, gs 3]
    ∧ Here padState (atomElem padState .cas 8) (padAt 0 8) ∧ Here padState (atomElem padState .fadd 4) (padAt 0 4)
    ∧ (∀ s ∈ [host, peer, heap], (s.ctx.srcG 1).toNat % 8 = 0
      ∧ ∀ k, k < 8 → windowOf ((s.ctx.srcG 1).toNat + k) = windowOf (s.ctx.srcG 1).toNat)
    ∧ windowOf (host.ctx.srcG 1).toNat = .host ∧ windowOf (peer.ctx.srcG 1).toNat = .link 0 ∧ windowOf (heap.ctx.srcG 1).toNat = .heap
    ∧ heap.pinnedAt (.core heap.cur.core) (heap.ctx.srcG 1).toNat = none ∧ Enabled host h0 [gs 1, gs 2]
    ∧ format.ctx.wd 0x100000000 ≠ none ∧ 0x100000000 % 8 = 0 ∧ format.coreMapped 0 = true ∧ 0x100000000 % 0x100000 + 8 ≤ spadBytes 0 := by
  refine ⟨enabled_of ?_, ?_, enabled_of ?_, here_of ?_, here_of ?_, ?_, ?_, ?_, ?_, ?_, enabled_of ?_, ?_⟩ <;> decide +kernel

theorem witness_FencesWindowsAndInvalidation :
    let s := withG handler [(1, 0), (2, 0xFFFFFFFFFFFFFFFF)]
    Enabled s h0 [] ∧ Enabled s h0 [gs 1] ∧ wdBad (s.ctx.srcG 1) = false ∧ wdBad (s.ctx.srcG 2) = true ∧ s.ctx.trapMode = true
    ∧ Enabled s h0 [gs 3, gs 1, gs 2]
    ∧ ((s.modCtx fun c => { c with stall := some .tlbinv }).ctxAt s.evId).stall = some .tlbinv := by
  refine ⟨enabled_of ?_, enabled_of ?_, ?_, ?_, ?_, enabled_of ?_, ?_⟩ <;> decide +kernel

/-! A heap: one leaf maps the heap windows of die 0 to the bottom of the package's memory; region 1 is Active with color 1. -/

/-- A space of die 0 whose page table stands at 0x10000, the region table at heap offset 0x20000. -/
def heapState : State :=
  (withWords base
    [(0x10000 + 8 * 256, 0x8000000000011000), (0x11000, 0xFC10000000000000),
     -- region 1: color 1, Active, evacuation allowed, home die 0, TOP after the six objects
     (0x20040, 0x4C00000000000000), (0x20048, 0x0010000000000180), (0x20058, BitVec.ofNat 64 (heapBase + 0x28000)),
     -- a VALUE of 1 by 1 FP32 elements, a THUNK of the built-in ADD, two BLACKHOLEs, a FAILED thunk, a BYTES object with a pin
     (0x40000000, 0x0040000000000040), (0x40000010, 0x3F800000),
     (0x40000040, 0x2040000000000040),
     (0x40000080, 0x4040000000000040), (0x40000088, holeWord { core := 0, ctx := 0 } none),
     (0x400000C0, 0x4040000000000040), (0x400000C8, holeWord { core := 5, ctx := 1 } none),
     (0x40000100, 0x8040000000000040), (0x40000108, failedWord 0x0C0 { core := 1, ctx := 0 }),
     (0x40000140, 0xA002010000000040)]).modDie 0
    fun d => { d with space := at_ 48 1 ||| 0x10001, rtbase := BitVec.ofNat 64 (heapBase + 0x20000) }

/-- The handle of the object at an offset of region 1, color 1. -/
def obj (off : Nat) : Word :=
  mkHandle 1 (2 ^ 26 + off / 16)

/-- The heap with h1 to h7 naming the objects, g2 the region, g3 and g4 templates. -/
def heapRun : State :=
  (withG heapState [(2, 1), (3, 0x0040000000000000), (4, 0xA000000000000040), (5, 0x3F800000)]).modCtx
    fun c => [(1, obj 0), (2, obj 0x40), (3, obj 0x80), (4, obj 0xC0), (5, obj 0x100), (6, obj 0x140), (7, obj 0x40)].foldl
      (fun c e => c.setReg .h e.1 (ofWord e.2)) c

/-- The object a handle names, through the read barrier. -/
def kindB (s : State) (o : Word) (k : Nat) : Bool :=
  match s.barrier (.core 0) o with
  | .ok t => decide (hdrKind t.hdr = k)
  | .error _ => false

/-- What holds of the object a handle names. -/
def targetB (s : State) (o : Word) (p : Target → Bool) : Bool :=
  match s.barrier (.core 0) o with
  | .ok t => p t
  | .error _ => false

/-- What holds of the word that a read gives. -/
def wordB (x : Except Stop Word) (p : Word → Bool) : Bool :=
  match x with
  | .ok w => p w
  | .error _ => false

/-- An answer of the barrier that is the trap of a code. -/
def trapsWithB (r : Except Stop Target) (code : Nat) : Bool :=
  match r with
  | .error (.trap k) => k.code == code
  | _ => false

theorem witness_HandleFormsAndReadBarriers :
    Enabled heapRun h0 [hs 1, hs 2] ∧ kindB heapRun (heapRun.ctx.srcH 1) 0 = true ∧ kindB heapRun (heapRun.ctx.srcH 2) 1 = true
    ∧ (∃ k, heapRun.barrier (.core 0) (heapRun.ctx.srcH 8) = .error (.trap k)) ∧ Enabled heapRun h0 [hs 8]
    -- a reserved bit, color zero, a free region, another color
    ∧ field (obj 0 ||| 1) 2 0 ≠ 0 ∧ hColor (mkHandle 0 (2 ^ 26)) = 0
    ∧ wordB (heapRun.regionWord (.core 0) 2 0) (fun w => decide (rgState w = 0)) = true
    ∧ wordB (heapRun.regionWord (.core 0) 1 0) (fun w => decide (rgState w = 1 ∧ rgColor w = 1 ∧ hColor (mkHandle 2 (2 ^ 26)) ≠ rgColor w)) = true
    ∧ wordB (heapRun.vread (.core 0) (hAddr (obj 0))) (fun w => decide (hdrKind w = 0 ∧ field w 37 32 = 0)) = true
    ∧ wordB (heapRun.vread (.core 0) (hAddr (obj 0) + 8)) (fun w => decide (w = 0)) = true
    -- an evacuated region with TOP 0x180, whose previous color is 1, and a VALUE whose word 1 is not zero
    ∧ (let gone := withWords heapRun [(0x20040, 0xA000000000000000), (0x20048, 0x180)]
       trapsWithB (gone.barrier (.core 0) (obj 0x180)) 0x084 = true)
    ∧ (let marked := withWords heapRun [(0x40000008, 1)]
       trapsWithB (marked.barrier (.core 0) (obj 0)) 0x08B = true) := by
  refine ⟨enabled_of ?_, ?_, ?_, traps_of ?_, enabled_of ?_, ?_⟩ <;> decide +kernel

/-- The heap with the handle of the VALUE in the scratchpad slot that g1 names. -/
def slotRun : State :=
  withG (withWords heapRun [(spadBase 0 + 64, obj 0)]) [(1, 0x100000040)]

theorem witness_HandleSlotsAndAllocation :
    let s := slotRun
    let slot := (s.ctx.srcG 1 + (0 : BitVec 6).signExtend 64).toNat
    Enabled s h0 [gs 1] ∧ Here s (s.ctx.slotElem .load slot) (padAt 64 8) ∧ kindB s (obj 0) 0 = true
    ∧ BitVec.ofNat 64 (natOfBytes ((padAt 64 8).map s.readByte)) = obj 0
    ∧ Enabled s h0 [hs 1, gs 1] ∧ Here s (s.ctx.slotElem .store slot) (padAt 64 8) ∧ s.ctx.parts = none
    ∧ Enabled s h0 [gs 2, gs 4] ∧ field (s.ctx.srcG 2) 17 0 = 1 ∧ templateOk (s.ctx.srcG 4) = true ∧ templateOk (s.ctx.srcG 1) = false
    ∧ okB (s.allocate 0 1 0x40 (setField (s.ctx.srcG 4) 31 0 0x40) 0 (freshWord (s.ctx.srcG 4))) = true
    ∧ wordB (s.regionWord (.core 0) 2 0) (fun w => decide (rgState w = 0)) = true
    ∧ Enabled s h0 [hs 1] ∧ okB (s.vaddr (.core 0) .heapCas (hAddr (obj 0))) = true
    ∧ targetB s (obj 0) (fun t => hdrPcnt t.hdr == 0) = true ∧ targetB s (obj 0x140) (fun t => hdrPcnt t.hdr == 1) = true := by
  refine ⟨enabled_of ?_, here_of ?_, ?_, ?_, enabled_of ?_, here_of ?_, ?_, enabled_of ?_, ?_, ?_, ?_, ?_, ?_, enabled_of ?_, ?_⟩ <;> decide +kernel

-- an atomic inside the pinned BYTES object of the heap window
theorem witness_AtomicResults_pinned :
    let s := withG ({ heapRun with pins := [(1, 2 ^ 26 + 0x14, 0x40)] } : State) [(1, BitVec.ofNat 64 (hAddr (obj 0x150)))]
    Enabled s h0 [gs 1, gs 2] ∧ windowOf (s.ctx.srcG 1).toNat = .heap
    ∧ Here s (atomElem s .add 8) ((List.range 8).map (0x40000150 + ·)) := by
  refine ⟨enabled_of ?_, ?_, here_of ?_⟩ <;> decide +kernel

-- the first element of the VALUE and of the BYTES object, an element past the end, and an object that holds no data
theorem witness_HeapDataAccess :
    let s := heapRun
    let elemB := fun (o : Word) (store : Bool) (n : Nat) (off : Int) => targetB s o fun t => okB (s.dataElem 0 o t store n 0 off)
    Enabled s h0 [hs 1] ∧ Enabled s h0 [gs 5, hs 6] ∧ Enabled s h0 [(.v, 1), hs 6]
    ∧ targetB s (obj 0) (fun t => dataSize t 8 == some 4) = true ∧ targetB s (obj 0x140) (fun t => dataSize t 8 == some 8) = true
    ∧ elemB (obj 0) false 4 0 = true ∧ elemB (obj 0x140) true 8 0 = true
    ∧ targetB s (obj 0x140) (fun t => okB (s.dataElems 0 (obj 0x140) t true 4 0 [0, 1])) = true
    ∧ targetB s (obj 0x40) (fun t => dataSize t 8 == none) = true
    ∧ targetB s (obj 0) (fun t => decide (hdrSize t.hdr < 16 + 48 + 4)) = true := by
  refine ⟨enabled_of ?_, enabled_of ?_, enabled_of ?_, ?_⟩ <;> decide +kernel

theorem witness_ForceSparksAndUpdates :
    let s := heapRun
    Enabled s h0 [hs 1] ∧ s.ctx.resuming = false ∧ s.ctx.trapMode = false ∧ s.ctx.fdepth < s.ctx.fdepthLim.toNat
    ∧ kindB s (obj 0) 0 = true ∧ kindB s (obj 0x40) 1 = true ∧ kindB s (obj 0x80) 2 = true ∧ kindB s (obj 0x100) 4 = true
    ∧ okB (do
        let s1 ← s.spill s.ctx (obj 0x40)
        let s2 ← s1.vwrite (.core 0) (hAddr (obj 0x40) + 8) (holeWord s.cur none)
        let s3 ← s2.vwrite (.core 0) (hAddr (obj 0x40)) (hdrKindTo 0x2040000000000040 2)
        s3.modSusp (.core 0) 1 fun n => n - 0x40) = true
    ∧ wordB (s.objWord (.core 0) (obj 0x80) 1) (fun w => decide (holeEv w = s.cur)) = true
    ∧ wordB (s.objWord (.core 0) (obj 0xC0) 1) (fun w => decide (holeEv w ≠ s.cur) && okB (s.vwrite (.core 0) (hAddr (obj 0xC0) + 8) 0)) = true
    ∧ Enabled s h0 [hs 2] ∧ s.me.sparge.length < 64 ∧ okB (s.vaddr (.core 0) .heapCas (hAddr (obj 0x40))) = true
    ∧ Enabled s h0 [hs 3, hs 1] ∧ targetB s (obj 0) (fun r => hdrKind r.hdr == 0 && hdrSize r.hdr == 0x40 && okB (do
        let ws ← s.objWords (.core 0) r.handle 2 6
        let s1 ← s.vfill (.core 0) (hAddr (obj 0x80) + 16) (fun i => ws.getD i 0) 6
        s1.endHeader (.core 0) (obj 0x80) (valueHeader r.hdr 0x40) 0)) = true
    ∧ okB (s.endHeader (.core 0) (obj 0x80) (hdrKindTo 0x4040000000000040 3) (obj 0x140)) = true
    ∧ targetB s (obj 0x140) (fun r => hdrKind r.hdr == 5) = true
    ∧ (s.modCtx fun c => { c with fdepthLim := 0 }).ctx.fdepthLim.toNat ≤ s.ctx.fdepth := by
  refine ⟨enabled_of ?_, ?_, ?_, ?_, ?_, ?_, ?_, ?_, ?_, ?_, ?_, enabled_of ?_, ?_, ?_, enabled_of ?_, ?_⟩ <;> decide +kernel

-- a sum of two VALUEs of one shape in a region that has room; a closure with one argument; operands of another shape
theorem witness_SuspensionsMakeThunks :
    let s := heapRun.modCtx fun c => c.setReg .h 2 (ofWord (obj 0))
    Enabled s h0 [hs 1, hs 2, gs 0] ∧ (match s.targets [1, 2] with
        | .ok ts => suspFormOk (suspCode .add).1 0 1 1 0 0x10 (ts.map (·.2.hdr)) && !suspFormOk (suspCode .add).1 0 2 1 0 0x10 (ts.map (·.2.hdr))
        | .error _ => false) = true
    ∧ (match s.regionWord (.core 0) 1 1, s.regionWord (.core 0) 1 4 with
        | .ok w1, .ok w4 => decide (rgUsed w4 + 48 ≤ rgQuota w1)
        | _, _ => false) = true
    ∧ (let full := withWords s [(0x20060, 0x0010000000000000)]
      match full.regionWord (.core 0) 1 1, full.regionWord (.core 0) 1 4 with
        | .ok w1, .ok w4 => decide (rgQuota w1 < rgUsed w4 + 48)
        | _, _ => false) = true
    ∧ okB (s.allocate 0 1 48 0 0 (fun _ => 0)) = true ∧ okB (s.modSusp (.core 0) 1 (· + 48)) = true
    ∧ Enabled s h0 [gs 2, hs 1] ∧ field (s.ctx.srcG 5) 1 0 = 0 ∧ field (s.ctx.srcG 2) 1 0 ≠ 0 ∧ s.ctx.resuming = false := by
  refine ⟨enabled_of ?_, ?_, ?_, ?_, ?_, ?_, enabled_of ?_, ?_⟩ <;> decide +kernel

/-! Messages: core 0 offers to itself; entry 0 takes tag 5, entry 1 is a ranked one. -/

def tagWord (tag kind : Nat) : Word :=
  bitAt 63 true ||| at_ 57 kind ||| at_ 32 tag ||| bitAt 1 true

/-- g1 and g2: a data message of 16 bytes to core 0; g3 a length that no kind has. -/
def sendState : State :=
  (withG padState [(1, at_ 20 16), (2, 0), (3, at_ 20 511), (4, 12), (5, 61)]).modCore 0 fun k =>
    { k with caps := k.caps.put 3 7 }

theorem witness_MessagesAreSentAndRead :
    let s := sendState
    let op : SendOp := { kind := 0, nb := true }
    let full := s.modCore 0 fun k => { k with inbox := (List.range 64).foldl (fun m i => m.put i { msg := codeMsg [], arrival := 0, level := 0, since := 0, entry := 0, kernel := 0, bound := true }) [] }
    Enabled s h0 [gs 1, gs 2] ∧ s.sendTrap op (s.ctx.srcG 1) (s.ctx.srcG 2) = none ∧ (s.sendTrap op (s.ctx.srcG 3) (s.ctx.srcG 2)).isSome = true
    ∧ (s.ctx.srcG 2).getLsbD 63 = false ∧ s.isRequest op (s.ctx.srcG 1) (s.ctx.srcG 2) = false
    ∧ (s.accept (s.sentMsg op (s.ctx.srcG 1) (s.ctx.srcG 2) [])).isSome = true
    ∧ (full.accept (s.sentMsg op (s.ctx.srcG 1) (s.ctx.srcG 2) [])).isNone = true
    -- a payload that can be read, and one that is poisoned
    ∧ (let len := field (s.ctx.srcG 1) 28 20
       okB (s.padRead 0 (field (s.ctx.srcG 2) 51 32) len) = true
       ∧ trapsB (({ s with poison := s.poison.put ((spadBase 0 + field (s.ctx.srcG 2) 51 32) / 8) true } : State).padRead 0
           (field (s.ctx.srcG 2) 51 32) len) = true)
    -- the payload of 64 bytes: its last eight bytes, and one word more
    ∧ (match s.slotOf s.cur with | some m => decide (m.msg.len = 64) | none => false) = true ∧ Enabled s h0 [gs 4]
    ∧ (s.ctx.srcG 4).toNat + 4 * (11 : BitVec 6).toNat + 8 = 64 ∧ (s.ctx.srcG 4).toNat + 4 * (12 : BitVec 6).toNat % 4 = 12
    ∧ (∀ l, l < 16 → (s.ctx.active h0).getLsbD l = true → 0 + 4 * l + 4 ≤ 64) := by
  refine ⟨enabled_of ?_, ?_, ?_, ?_, ?_, ?_, ?_, ?_, ?_, enabled_of ?_, ?_⟩ <;> decide +kernel

-- a message to a core of peer 5, whose port is Up, and a management request of a handler
theorem witness_MessagesAreSentAndRead_outside :
    let s := withG ({ sendState with peers := [(5, bitAt 63 true ||| at_ 59 1)] } : State) [(2, bitAt 63 true ||| at_ 52 5)]
    let s := s.setPort 1 { state := .up }
    let m := (withG sendState [(1, at_ 32 0xFFF ||| at_ 20 16)]).modCtx fun c => { c with trapMode := true }
    let op : SendOp := { kind := 0, nb := true }
    Enabled s h0 [gs 1, gs 2] ∧ s.sendTrap op (s.ctx.srcG 1) (s.ctx.srcG 2) = none ∧ (s.ctx.srcG 2).getLsbD 63 = true
    ∧ s.peerPort (field (s.ctx.srcG 2) 61 52) = some 1
    ∧ okB (s.padRead 0 (field (s.ctx.srcG 2) 51 32) (field (s.ctx.srcG 1) 28 20)) = true
    ∧ Enabled m h0 [gs 1, gs 2] ∧ m.sendTrap op (m.ctx.srcG 1) (m.ctx.srcG 2) = none ∧ m.isRequest op (m.ctx.srcG 1) (m.ctx.srcG 2) = true
    ∧ okB (m.padRead 0 (field (m.ctx.srcG 2) 51 32) (field (m.ctx.srcG 1) 28 20)) = true := by
  refine ⟨enabled_of ?_, ?_, ?_, ?_, ?_, enabled_of ?_, ?_⟩ <;> decide +kernel

-- a slot with poison in its last payload word, and in none
theorem witness_MessagesAreSentAndRead_poison :
    let s := sendState
    let bad := s.modCore 0 fun k => { k with inbox := k.inbox.map fun x => (x.1, { x.2 with ecc := [9] }) }
    (match s.slotOf s.cur with | some m => decide (m.ecc = []) | none => false) = true
    ∧ (match bad.slotOf bad.cur with | some m => m.ecc.contains ((56 + 7) / 8 + 2) && !m.ecc.contains (48 / 8 + 2) | none => false) = true
    ∧ Enabled bad h0 [gs 4]
    -- the lanes of MSGVLD from the payload's start: lane 15 reads the poisoned word
    ∧ (∀ l, l < 16 → (bad.ctx.active h0).getLsbD l = true → 0 + 4 * l + 4 ≤ 64) ∧ (0 + 4 * 15) / 8 + 2 = 9
    ∧ ({ bad with cores := [] } : State).slotOf bad.cur = none ∧ ((bad.ctx.srcG 5).toNat + 4 * (0 : BitVec 6).toNat) % 4 ≠ 0 := by
  refine ⟨?_, ?_, enabled_of ?_, ?_⟩ <;> decide +kernel

-- ranked mailboxes: one of the kernel, one of another
theorem witness_MessagesAreSentAndRead_ranked :
    let s := sendState.modCore 0 fun k => { k with
      tags := (k.tags.put 0 { word := tagWord 5 1, kernel := 0 }).put 1 { word := tagWord 5 1, kernel := 1 } }
    (s.me.tag 1).v = true ∧ s.ctx.kernel ≠ some (s.me.tag 1).kernel ∧ (s.me.tag 0).v = true ∧ s.ctx.kernel = some (s.me.tag 0).kernel ∧ (s.me.tag 0).kind = 1
    ∧ Enabled s h0 [gs 1, gs 2] := by
  refine ⟨?_, ?_, ?_, ?_, ?_, enabled_of ?_⟩ <;> decide +kernel

-- slots 0 and 7, a block of one line, and a length of zero; a key below, between and above the points of a ring of two
theorem witness_ShuttlePermitsAndKeyHoming :
    let s := (withG base [(1, 7), (2, 0), (4, 0x100000000), (5, 64), (6, 0)]).modDie 0 fun d =>
      { d with shtOut := at_ 60 8 ||| at_ 55 6, shtHeld := 0x80, shtFull := 0x80, ring := [(0x40000000, 5), (0xC0000000, 9)] }
    let p := field (kvMix 7) 63 32
    Enabled s h0 [] ∧ Enabled s h0 [gs 1] ∧ (s.die 0).shtFull.getLsbD (field (s.ctx.srcG 1) 2 0) = true
    ∧ (s.die 0).shtFull.getLsbD (field (s.ctx.srcG 2) 2 0) = false
    ∧ runOk .g 2 4 = true ∧ Enabled s h0 [gs 4, gs 5] ∧ (s.die 0).shtHeld.getLsbD 7 = true ∧ (∀ n, n < 7 → (s.die 0).shtHeld.getLsbD n = false)
    ∧ (s.die (pairDie 0)).stopped = false ∧ ((s.modDie 4 fun d => { d with stopped := true }).die (pairDie 0)).stopped = true
    ∧ s.me.copies.length < 16 ∧ shtNslot (s.die 0).shtOut ≠ 0 ∧ field (s.ctx.srcG 5) 31 0 ≤ 2 ^ shtLsz (s.die 0).shtOut
    ∧ (s.die 0).ringLoad = none ∧ (s.die 0).ring ≠ [] ∧ (p ≤ 0x40000000 ∨ (0x40000000 < p ∧ p ≤ 0xC0000000) ∨ 0xC0000000 < p)
    ∧ (base.die 0).ring = [] := by
  refine ⟨enabled_of ?_, enabled_of ?_, ?_, ?_, ?_, enabled_of ?_, ?_⟩ <;> decide +kernel

-- the probe of a table on an M die: core 4096 is on die 4; its table is empty
theorem witness_ShuttlePermitsAndKeyHoming_probe :
    let s := ({ base with cur := { core := 4096, ctx := 0 } }).modCore 4096 fun k => { k with htbase := 1 }
    Enabled s h0 [gs 1] ∧ s.me.htbase.getLsbD 0 = true ∧ isM (coreDie s.cur.core) = true
    ∧ okB (s.kvProbe 4096 (field s.me.htbase 19 6 * 64) 7 16 (field (kvMix 7) 8 0)) = true ∧ isM (coreDie base.cur.core) = false := by
  refine ⟨enabled_of ?_, ?_⟩ <;> decide +kernel

/-- A context whose activation has a token of layer 1, expert 3, and an expert's descriptor at offset 0 of the scratchpad with
a capacity of 2 and `count` rows, its table at 0x1000, its buffer at 0x2000. -/
def tokenState (layer count : Nat) : State :=
  let s := withWords base [(spadBase 0, at_ 52 3 ||| at_ 44 layer ||| at_ 32 7 ||| at_ 16 2 ||| at_ 0 count),
    (spadBase 0 + 8, at_ 50 128 ||| at_ 36 64 ||| at_ 32 4)]
  s.modCore 0 fun k => { k with
    expBase := 0x10
    inbox := k.inbox.put 0 { msg := { payload := bytesOfWord (at_ 56 1 ||| at_ 36 3) ++ List.replicate 8 0, w0 := at_ 20 16, w1 := 0 }
                             arrival := 0, level := 0, since := 0, entry := 0, kernel := 0, bound := true } }

theorem witness_AdmissionAndDone :
    (match (tokenState 1 0).ownToken with
      | .ok (_, t) => match (tokenState 1 0).findExpert 0 (tokExpert t) with
        | some e => expertOk 0 e && decide ((tokenState 1 0).probeToken 0 e t = .place (some 0)) && decide (e.count ≠ e.cap)
            && decide ((tokenState 0 0).probeToken 0 { e with w0 := at_ 44 0 } t = .early)
            && decide ((tokenState 1 0).probeToken 0 { e with w0 := at_ 44 2 } t = .duplicate)
        | none => false
      | .error _ => false) = true
    -- no poison, and a poisoned word of the descriptor
    ∧ (match (tokenState 1 0).ownToken with
      | .ok (_, t) => ((tokenState 1 0).tokenPoison 0 t).isNone
          && (({ tokenState 1 0 with poison := FMap.put [] (spadBase 0 / 8) true } : State).tokenPoison 0 t).isSome
      | .error _ => false) = true
    ∧ (∀ k, k < 16 → (tokenState 1 0).payloadPoisoned k = false)
    ∧ Enabled (tokenState 1 0) h0 [] ∧ (tokenState 1 0).findExpert 0 9 = none
    ∧ (match (tokenState 1 2).findExpert 0 3 with | some e => decide (e.count = e.cap) | none => false) = true := by
  refine ⟨?_, ?_, ?_, enabled_of ?_, ?_⟩ <;> decide +kernel

/-- Core 0 with one kernel of two cores that runs there. -/
def twoCores (st : KState) : State :=
  { base with kernels := base.kernels.put 0 { placedKernel with cores := [{ core := 0, ovf := 0, nctx := 1 }, { core := 1, ovf := 0, nctx := 1 }], state := st } }

theorem witness_AdmissionAndDone_done :
    let s := twoCores .running
    Enabled s h0 [gs 1] ∧ s.ctx.kernel = some 0
    ∧ (match s.kernels.find? 0 with
      | some k => decide (k.recOf 0 = some 0) && decide ((k.tree.get {} 0).own = none) && decide (k.state ≠ .completing) && decide (k.state ≠ .preempted)
      | none => false) = true := by
  refine ⟨enabled_of ?_, ?_⟩ <;> decide +kernel

-- counts of 1 and 65,535, of 0 and 65,536; an armed barrier of the kernel, one arrival before the last and the last
theorem witness_Barriers :
    let s := (withG (twoCores .running) [(1, 1), (2, 65535), (3, 65536), (4, 0)]).modCore 0 fun k =>
      { k with bars := (k.bars.put 0 { expect := 2, arr := 0, gen := 0, state := bARMED, kernel := some 0 }).put 1
                 { expect := 2, arr := 1, gen := 5, state := bARRIVING, kernel := some 0 } }
    Enabled s h0 [gs 1] ∧ Enabled s h0 [gs 2] ∧ (s.ctx.srcG 2).toNat ≤ 65535 ∧ 65535 < (s.ctx.srcG 3).toNat
    ∧ (s.me.bar 63).state = bIDLE ∧ (s.me.bar 0).state ≠ bIDLE ∧ (s.me.bar 0).state ≠ bFAULTED ∧ (s.me.bar 0).kernel = s.ctx.kernel
    ∧ (s.me.bar 0).arr + 1 ≠ (s.me.bar 0).expect ∧ (s.me.bar 1).arr + 1 = (s.me.bar 1).expect
    ∧ (s.me.bar 0).gen = (s.ctx.srcG 4).truncate 16 ∧ (s.me.bar 1).gen ≠ (s.ctx.srcG 4).truncate 16
    ∧ s.ctx.kernel = some 0 ∧ (match s.kernels.find? 0 with
      | some k => decide ((k.bars.get ({} : KBar) 3).fault = false) && decide (s.gbarLvl 0 k 0 3 = 0) && decide (k.members 3 0 = [0, 1])
      | none => false) = true
    ∧ (s.gbarAt 0 0 3).arv = false ∧ (s.gbarAt 0 0 3).gen = (s.ctx.srcG 4).truncate 16 := by
  refine ⟨enabled_of ?_, enabled_of ?_, ?_⟩ <;> decide +kernel

-- arrivals that meet: the first and the last of two; a release in a running and in a preempted kernel, a waiter that is saved
theorem witness_Barriers_kernel :
    let b : KBar := { arrived := [(3, [1])] }
    let k : Kernel := { placedKernel with cores := [{ core := 0, ovf := 0, nctx := 1 }, { core := 1, ovf := 0, nctx := 1 }], bars := [(3, b)] }
    let w : Wait := { kind := .kbarrier 3 0, since := 0, h := h0 }
    let s := ({ base with kernels := [(0, k)], ev := { unit := 0, sub := 3, num := 0 } } : State).modCore 0 fun c =>
      { c with views := [(0, { gbar := [(3, { arv := true, lvl := 3 })] })] }
    let u := s.setCtxAt { core := 0, ctx := 1 } { kernel := some 0, st := .saved, wait := some w }
    let key := 4 * (k.members 3 0).headD 0 + 3
    s.kernels.find? 0 = some k ∧ (s.gbarAt 0 0 3).lvl = 3 ∧ key = 3 ∧ (k.members 3 0).length ≤ (0 :: b.arrived.get [] key).length
    ∧ (0 :: ({} : KBar).arrived.get [] key).length < (k.members 3 0).length ∧ b.fault = false ∧ ({ b with fault := true } : KBar).fault = true
    ∧ k.state ≠ .preempted ∧ ({ k with state := .preempted } : Kernel).state = .preempted
    ∧ (u.ctxAt { core := 0, ctx := 1 }).st = .saved ∧ (u.ctxAt { core := 0, ctx := 1 }).wait = some w
    ∧ (u.ctxAt { core := 0, ctx := 1 }).kernel = some 0 := by decide +kernel

-- a context that waits at a named barrier, or at one of its kernel, for one that is in a handler: its probe, the same probe come
-- home, one that is two hops old, and the victim, beside another waiter
theorem witness_WaitChainProbes :
    let i : CtxId := { core := 0, ctx := 0 }
    let w : Wait := { kind := .barrier 0 0, since := 0, h := h0 }
    let v : Wait := { kind := .kbarrier 3 0, since := 0, h := h0 }
    let s := (twoCores .running).modCore 0 fun k => { k with bars := k.bars.put 0 { expect := 2, arr := 1, amask := 1, gen := 0, state := bARRIVING, kernel := some 0 } }
    let put := fun (w : Wait) => { ((s.setCtxAt i { s.ctx with st := .waiting, wait := some w }).setCtxAt { core := 0, ctx := 1 }
      { s.ctx with st := .waiting, wait := some w }) with clock := 4096, ev := { evCtx i with num := 1 } }
    (∀ x ∈ [w, v], ((put x).ctxAt (put x).evId).wait = some x ∧ ((put x).ctxAt (put x).evId).st = .waiting
      ∧ (put x).ev.num = x.since + 1 ∧ 4096 ≤ (put x).clock - x.since ∧ (put x).waitMark i = 1
      ∧ ((put x).ctxAt { core := 0, ctx := 1 }).wait = some x)
    ∧ ((put w).edges i).isSome = true ∧ (s.setCtxAt i { s.ctx with st := .waiting, wait := some w }).clock - w.since < 4096
    ∧ ((put v).ctxAt i).kernel = some 0 ∧ ((put v).kernels.find? 0).isSome = true := by decide +kernel

/-! An engine with two rings of one FP8 tile of 512 bytes: 16 rows of 32 elements each. -/

/-- The words of a job of 16 by 16 over one tile pair of rings 0 and 1, without and with a completion event. -/
def jobWords (evt : Bool) : List Word :=
  [at_ 56 1 ||| at_ 40 15 ||| at_ 32 15 ||| at_ 27 4 ||| at_ 22 4 ||| at_ 12 1, bitAt 63 evt, 0, 0]

def engineState (queue : List EngCmd) (done : FMap Word) : State :=
  let w := jobWords false
  let v := jobWords true
  (withG padState [(8, w.getD 0 0), (12, v.getD 0 0), (13, v.getD 1 0), (20, 0), (21, 1), (22, 2), (23, 0x100000002)]).setEngine 0
    { rings := [(0, { desc := 1, count := 1 }), (1, { desc := 0x201, count := 1 }), (2, { desc := 1 })]
      queue, done, lastId := 65535 }

def theJob (started : Bool) : EngCmd :=
  { kind := .job, words := jobWords false, cmd := 0, id := 7, src := { core := 0, ctx := 0 }, inf := true, remote := false, started, since := 0, flags := 0, fault := 0 }

/-- The activation of a data message whose entry lets it block. -/
def taskState (s : State) : State :=
  (s.modCtx fun c => { c with act := { c.act with kind := 0, entry := 9 } }).modCore 0 fun k => { k with tags := k.tags.put 9 { word := bitAt 60 true } }

theorem witness_MatrixRingsAndJobs :
    let s := engineState [] []
    let full := engineState (List.replicate 32 (theJob false)) []
    let held := (engineState [] [(7, bitAt 63 true)]).modCtx fun c => { c with jobs := [7, 8] }
    Enabled s h0 [] ∧ Enabled s h0 [gs 20] ∧ ((s.engine 0).ring 0).v = true ∧ ((s.engine 0).ring 0).count = ((s.engine 0).ring 0).tiles
    ∧ ((s.engine 0).ring 2).count ≠ ((s.engine 0).ring 2).tiles ∧ ((s.engine 0).ring 3).v = false
    ∧ Enabled s h0 (quadFlds 8) ∧ jobTrap 0 (s.engine 0) (s.ctx.quad 8) = none ∧ s.engineRoom = true ∧ full.engineRoom = false
    ∧ (taskState s).isHandler s.cur = false ∧ (handler.isHandler handler.cur) = true ∧ jobWordsOk (accDim 0) (s.ctx.quad 20) = false
    ∧ Enabled s h0 [gs 1, gs 20] ∧ (s.ctx.srcG 1).toNat % 4 = 0 ∧ field (s.ctx.srcG 20) 15 8 < accDim 0 ∧ (s.ctx.srcG 23).toNat % 4 ≠ 0
    ∧ Enabled s h0 (quadFlds 12 ++ [gs 20]) ∧ jobEvt ((s.ctx.quad 12).getD 1 0) = true ∧ jobWordsOk (accDim 0) (s.ctx.quad 12) = true
    ∧ ((s.modCore 0 fun k => { k with caps := k.caps.put 31 9 }).me.caps.get 0 31) ≠ 0
    ∧ held.ctx.jobs.contains 7 = true ∧ (held.engine 0).done.find? 7 ≠ none ∧ (held.engine 0).done.find? 8 = none := by
  refine ⟨enabled_of ?_, enabled_of ?_, ?_, ?_, ?_, ?_, enabled_of ?_, ?_, ?_, ?_, ?_, ?_, ?_, enabled_of ?_, ?_, ?_, ?_,
    enabled_of ?_, ?_⟩ <;> decide +kernel

-- a push of the tile that the running job lacks, and a job for an engine of another die: it runs, has stopped, has no room
theorem witness_MatrixRingsAndJobs_remote :
    let s := engineState [theJob true] []
    let lacks := s.setEngine 0 { s.engine 0 with rings := [(0, { desc := 1 }), (1, { desc := 0x201, count := 1 })] }
    let far := withG (s.setEngine 128 (s.engine 0)) [(20, 1024)]
    let room := (far.setEngine 128 { (s.engine 0) with queue := [] }).modCore 0 fun k => { k with caps := k.caps.put 31 9 }
    let full := far.setEngine 128 { (s.engine 0) with queue := List.replicate 32 (theJob false) }
    (lacks.engine 0).pairs ((theJob true).w 0) = 0 ∧ ((lacks.engine 0).ring 0).count ≠ ((lacks.engine 0).ring 0).tiles
    ∧ Enabled room h0 (quadFlds 12 ++ [gs 20]) ∧ coreExists 1024 = true ∧ coreEngine 1024 = 128 ∧ room.me.caps.get 0 31 ≠ 0
    ∧ room.answersNot 1 = false ∧ (room.modDie 1 fun d => { d with stopped := true }).answersNot 1 = true
    ∧ jobTrap 128 (room.engine 128) (room.ctx.quad 12) = none ∧ jobTrap 128 ({} : Engine) (room.ctx.quad 12) = some 0x102
    ∧ (room.engine 128).queue.length + room.mcmdsTo 128 < 32 ∧ 32 ≤ (full.engine 128).queue.length := by
  refine ⟨?_, ?_, enabled_of ?_, ?_⟩ <;> decide +kernel

theorem witness_MatrixJobsRun :
    let s := engineState [theJob true] []
    ((engineState [theJob false] []).engine 0).queue = [theJob false] ∧ ((engineState [] []).die 0).tokHeld < (engineState [] []).tokensOf 0
    ∧ (s.engine 0).pairs ((theJob true).w 0) = jobNk ((theJob true).w 0) ∧ jobOut ((theJob true).w 0) = false
    ∧ jobM ((theJob true).w 0) ≤ accDim 0 ∧ s.ringPoison 0 0 ((s.engine 0).ring 0) 1 = false ∧ s.ringPoison 0 1 ((s.engine 0).ring 1) 1 = false
    ∧ (s.setEngine 0 { s.engine 0 with rings := [] }).engine 0 ≠ s.engine 0 := by decide +kernel

-- a job that writes its block, one that lacks its tile for 2^20 cycles, an arrival with each answer, and a product for a thunk
theorem witness_MatrixJobsRun_more :
    let w := (jobWords true).set 0 ((jobWords true).getD 0 0 ||| 0x200)
    let out : EngCmd := { theJob true with words := w.set 2 (at_ 59 0x10 ||| BitVec.ofNat 64 (ownSlotVa 0 0x1000)) }
    let s := engineState [out] []
    let starved := { (engineState [theJob true] []).setEngine 0 { (engineState [theJob true] []).engine 0 with rings := [(0, { desc := 1 }), (1, { desc := 0x201, count := 1 })] } with
      clock := 2 ^ 20 }
    let product : EngCmd := { theJob true with kind := .matmul }
    let t := (engineState [product] []).modCtx fun c => { c with stall := some .eval }
    jobOut (out.w 0) = true ∧ jobEvt (out.w 1) = true ∧ jobM (out.w 0) ≤ accDim 0 ∧ (s.engine 0).pairs (out.w 0) = jobNk (out.w 0)
    ∧ s.ringPoison 0 0 ((s.engine 0).ring 0) 1 = false
    ∧ (match (s.setEngine 0 { s.engine 0 with acc := [] }).writeCodes 0 (field (out.w 2) 51 0) 4 (List.replicate 256 0) with
      | (_, none) => true
      | (_, some _) => false) = true
    ∧ (starved.engine 0).pairs ((theJob true).w 0) ≠ jobNk ((theJob true).w 0) ∧ (theJob true).since + 2 ^ 20 ≤ starved.clock
    ∧ (s.engine 0).mxcap = 0 ∧ jobTrap 0 (s.engine 0) (jobWords true) = none ∧ jobTrap 0 ({} : Engine) (jobWords true) = some 0x102
    ∧ (s.engine 0).queue.length < 32 ∧ ((engineState (List.replicate 32 out) []).engine 0).queue.length = 32
    ∧ (t.engine (coreEngine t.evId.core)).queue = [product] ∧ product.src = t.evId ∧ (t.ctxAt t.evId).stall = some .eval := by
  decide +kernel

/-- g24 to g27: a copy of 64 bytes within the scratchpad; g28: the descriptor of a fabric command at the HBM window. -/
def copyState (l : List CopyReq) : State :=
  (withG padState [(24, 0x100000000), (25, 0x100000100), (26, 64), (27, 0), (28, 0x100000200), (29, at_ 16 1)]).modCore 0
    fun k => { k with copies := l, copySeq := 2, copyLog := [{ id := 2, ctx := 0, free := some 1, vis := none }] }

def theCopy (stage : Nat) : CopyReq :=
  { kind := .cpy, words := [BitVec.ofNat 64 (ownSlotVa 0 0), BitVec.ofNat 64 (ownSlotVa 0 256), 64, 0], id := 2, ctx := 0, inf := true, par := [], status := 0, stage, runs := 0 }

theorem witness_CopiesAreQueued :
    let s := copyState []
    let full := copyState (List.replicate 16 (theCopy 0))
    Enabled s h0 (quadFlds 24) ∧ copyFormOk (s.ctx.quad 24) = true ∧ copyFormOk (s.ctx.quad 20) = false ∧ s.me.copies.length < 16
    ∧ ¬ full.me.copies.length < 16 ∧ (taskState s).isHandler s.cur = false ∧ haloFormOk 0 [at_ 16 1, 0, 0, 0] = true ∧ haloFormOk 0 (s.ctx.quad 24) = false
    ∧ s.xferOk (xferId 0 2).toNat = true ∧ s.xferOk (xferId 0 3).toNat = false ∧ (s.xferStatus (xferId 0 1).toNat).isSome = true
    ∧ (s.xferStatus ((xferId 0 2).toNat + 65536)).isNone = true ∧ Enabled s h0 [gs 29] := by
  refine ⟨enabled_of ?_, ?_, ?_, ?_, ?_, ?_, ?_, ?_, ?_, ?_, ?_, ?_, enabled_of ?_⟩ <;> decide +kernel

theorem witness_CopiesRun :
    let s := copyState [theCopy 1, theCopy 0]
    (s.core 0).copies = [theCopy 1, theCopy 0] ∧ (theCopy 0).stage = 0 ∧ field ((theCopy 0).words.getD 3 0) 51 6 * 64 = 0
    ∧ (match s.copyElems 0 0 1 1 (copyCode 0 0 true (modeOf 0) false) 64 (ownSlotVa 0 0) (ownSlotVa 0 256) 0 with
      | (_, _, none) => true
      | (_, _, some _) => false) = true
    ∧ ((s.modDie 0 fun d => { d with shtInfl := d.shtInfl.put 7 { aux := 0, core := 0, len := 64, inf := true, ctx := 0 } }).die 0).shtInfl.find? 7 ≠ none := by
  decide +kernel

-- a parameter block that is read, one in no window, a copy at its VISIBLE, and one of a halo with two runs left
theorem witness_CopiesRun_more :
    let s := copyState [theCopy 2]
    let read : Nat → Bool := fun va => match s.exRead 0 va 64 with
      | (_, .ok _) => true
      | (_, .error _) => false
    let fault : Nat → Bool := fun va => match s.exRead 0 va 64 with
      | (_, .ok _) => false
      | (_, .error e) => trapsB (α := Unit) (.error e)
    read (ownSlotVa 0 512) = true ∧ fault 64 = true ∧ (theCopy 2).stage = 2 ∧ (theCopy 2).runs = 0
    ∧ ({ theCopy 1 with kind := .halo, runs := 2 } : CopyReq).runs ≠ 0 ∧ (theCopy 1).status = 0 ∧ (theCopy 1).kind = .cpy
    ∧ (s.core 0).copies = [theCopy 2] := by decide +kernel

theorem witness_FabricCommands :
    let s := withWords (copyState []) [(spadBase 0 + 0x200, 0x100000000), (spadBase 0 + 0x208, 0x100000400), (spadBase 0 + 0x210, at_ 32 1 ||| 16)]
    Enabled s h0 [gs 28] ∧ ownAddr 0 (s.ctx.srcG 28).toNat % 64 = 0
    ∧ (match s.exRead 0 (ownAddr 0 (s.ctx.srcG 28).toNat) 64 with
      | (_, .ok bytes) => fabFormOk false bytes && !fabFormOk true bytes
      | (_, .error _) => false) = true
    ∧ (s.die 0).fabQ = [] := by
  refine ⟨enabled_of ?_, ?_⟩ <;> decide +kernel

/-- Whether a computation of a unit ends well. -/
def doneB {α : Type} (x : State × Option α) : Bool :=
  x.2.isNone

-- rows and blocks that are moved and answered, a queue that is full, a descriptor in no window, one whose page migrates, one at a peer and
-- one at the host; an answer that has come
theorem witness_FabricCommands_run :
    let s := withWords (copyState []) [(spadBase 0 + 0x200, 0x100000000), (spadBase 0 + 0x208, 0x100000400), (spadBase 0 + 0x210, at_ 32 1 ||| 16)]
    let c : FabCmd := { desc := ownAddr 0 0x100000200, a2a := false, seq := 1, src := { core := 0, ctx := 0 }, inf := true }
    let reads := fun (s : State) (va : Nat) => (s.exRead 0 va 64).2
    let list := withWords s [(spadBase 0 + 0x600, 0x100000400), (spadBase 0 + 0x608, 0x100000500), (spadBase 0 + 0x610, 0x100000440), (spadBase 0 + 0x618, 0x100000540)]
    let own := fun (x : Nat) => ownAddr 0 (0x100000000 + x)
    okB (reads s c.desc) = true ∧ doneB (s.fabRows 0 (own 0) (own 0x400) 0 0 16 (List.range 1)) = true
    ∧ okB ((list.exRead 0 (own 0x600) 32).2) = true
    ∧ (match list.fabBlocks 0 16 (fun i => (own (0x400 + 64 * i), own (0x500 + 64 * i))) none (blockElems 2 2) with
      | (_, none, none) => true
      | _ => false) = true
    ∧ okB ((s.exWrite 0 (c.desc + 56) (bytesOfWord (doneStatus 0 0))).2) = true
    ∧ 64 ≤ ((s.modDie 0 fun d => { d with fabQ := List.replicate 64 c }).die 0).fabQ.length
    ∧ trapsB (reads s 64) = true
    ∧ (match reads ({ pageState with frames := [(0x50, { dest := 0x60, streaming := true, queue := [], turn := none })] } : State) 0x1000000000000 with
      | .error (.hold _) => true
      | _ => false) = true
    ∧ (match reads ({ s.setPort 1 { state := .up } with peers := [(5, bitAt 63 true ||| at_ 59 1)] } : State) 0xC050000000000 with
      | .error (.ask port _ _) => port == 1
      | _ => false) = true
    ∧ (match reads (s.setPort 8 { state := .up }) 0x9000000000000 with
      | .error (.ats _ _) => true
      | _ => false) = true
    ∧ (s.modCtx fun c => { c with replies := [List.replicate 64 0] }).ctx.replies.head? = some (List.replicate 64 0)
    ∧ s.ctx.replies = [] := by decide +kernel

/-! Messages and contexts that events move. -/

/-- A kernel with two contexts on core 0, one of them Dormant, whose entry 3 takes tag 5. -/
def inboxState (l : FMap Slot) : State :=
  (base.setCtxAt { core := 0, ctx := 2 } { kernel := some 0, st := .dormant }).modCore 0 fun k =>
    { k with tags := k.tags.put 3 { word := tagWord 5 0, kernel := 0, en := true, pend := true }, inbox := l }

theorem witness_MessagesAreAcceptedAndBound :
    let slot : Slot := { msg := codeMsg [], arrival := 0, level := 0, since := 0, entry := 3, kernel := 0, bound := false }
    let s := inboxState [(4, slot)]
    s.coreMapped 0 = true ∧ s.coreHeld 0 = false ∧ (s.core 0).freeSlot = some 0
    ∧ (match s.candidates 0 with
      | [x] => decide (x.slot = some 4) && decide ((s.core 0).dormantOf x.kernel = some 2)
      | _ => false) = true
    ∧ (s.core 0).inbox.find? 4 = some slot := by decide +kernel

/-- A message of this kind to tag 5 of core 0, that `w0` says more of. -/
def toTag5 (kind : Nat) (w0 : Word) : Msg :=
  { w0 := headerWord 0 5 true kind 0 0 0 ||| w0, w1 := headerWord1 0 0, payload := [] }

-- a message for the entry, one of another kind, one with no code capability, ranked ones with either INF, and one for no entry
theorem witness_MessagesAreAcceptedAndBound_arrivals :
    let s := inboxState []
    let ranked := s.modCore 0 fun k => { k with tags := k.tags.put 3 { word := tagWord 5 1, kernel := 0, en := true } }
    let code := s.modCore 0 fun k => { k with tags := k.tags.put 3 { word := tagWord 5 2, kernel := 0, en := true } }
    (∀ m ∈ [toTag5 0 0, toTag5 1 0, toTag5 2 0], m.dst = 0 ∧ m.launch = none ∧ m.own = false ∧ m.tag = 5)
    ∧ ((s.core 0).tag 3).v = true ∧ ((s.core 0).tag 3).tag = 5 ∧ (∀ j, j < 3 → ¬ (((s.core 0).tag j).v = true ∧ ((s.core 0).tag j).tag = 5))
    ∧ (s.core 0).inbox.find? 0 = none ∧ (s.core 0).hold = [] ∧ (toTag5 0 0).kind = ((s.core 0).tag 3).kind
    ∧ (toTag5 1 0).kind ≠ ((s.core 0).tag 3).kind ∧ (toTag5 2 0).kind = ((code.core 0).tag 3).kind ∧ (code.core 0).ccap = 0
    ∧ (toTag5 1 0).kind = ((ranked.core 0).tag 3).kind ∧ (toTag5 1 0).inf = ((ranked.core 0).tag 3).infr
    ∧ ({ toTag5 1 0 with w0 := headerWord 0 5 false 1 0 0 0 } : Msg).inf ≠ ((ranked.core 0).tag 3).infr
    ∧ (∀ j, j < 64 → ¬ (((s.core 0).tag j).v = true ∧ ((s.core 0).tag j).tag = 6)) ∧ ({ toTag5 0 0 with own := true } : Msg).own = true := by
  decide +kernel

-- a core that is held, with a message in its ingress queue, the same let go, one with no slot, and a ranked entry that has fired
theorem witness_MessagesAreAcceptedAndBound_held :
    let s := (inboxState []).modCore 0 fun k => { k with hold := [toTag5 0 0] }
    let held := s.modDie 0 fun d => { d with table := d.table.put 0 (s.tableEntry 0 ||| 0x40000000) }
    let full := (inboxState []).modCore 0 fun k => { k with inbox := (List.range 64).foldl (fun m i => m.put i
      { msg := codeMsg [], arrival := 0, level := 0, since := 0, entry := 0, kernel := 0, bound := true }) [] }
    let fired := (inboxState []).modCore 0 fun k => { k with tags := k.tags.put 3 { word := tagWord 5 1, kernel := 0, en := true, pend := true } }
    held.coreHeld 0 = true ∧ (held.core 0).hold.length < 64 ∧ s.coreHeld 0 = false ∧ (s.core 0).hold = [toTag5 0 0]
    ∧ full.accept (toTag5 0 0) = none ∧ full.coreMapped 0 = true
    ∧ (match fired.candidates 0 with
      | [x] => decide (x.slot = none) && decide ((fired.core 0).dormantOf x.kernel = some 2)
      | _ => false) = true := by decide +kernel

theorem witness_WaitsAndTimersEnd :
    let wait : WaitKind → Wait := fun k => { kind := k, since := 4, h := h0 }
    let s : WaitKind → State := fun k =>
      { (engineState [] [(7, 9)]).setCtxAt { core := 0, ctx := 0 } { st := .waiting, wait := some (wait k) } with ev := { evCtx { core := 0, ctx := 0 } with num := 5 } }
    (∀ k ∈ [WaitKind.barrier 0 0, .kbarrier 3 0, .sleep 9 1, .job 7 1, .force 0, .copy 0 2],
      ((s k).ctxAt (s k).evId).st = .waiting ∧ ((s k).ctxAt (s k).evId).wait = some (wait k) ∧ (s k).ev.num = (wait k).since + 1)
    ∧ ((s (.job 7 1)).engine 0).done.find? 7 = some 9
    ∧ (base.ctxAt base.evId).st = .running ∧ ((base.modCore 0 fun k => { k with wdog := 10 }).core 0).wdog.toNat ≠ 0
    ∧ (let t := (pageState.setCtxAt { core := 0, ctx := 0 } { st := .saved, image := some (0x1000000000000, true) })
      t.evId = { core := 0, ctx := 0 } ∧ t.imagePa 0 0x1000000000000 true .store = some 0x500000
      ∧ ((t.setCtxAt { core := 0, ctx := 0 } { st := .saving }).ctxAt t.evId).st = .saving)
    ∧ ((base.modCore 0 fun k => { k with copyLog := [{ id := 2, ctx := 0, free := some 1, vis := some 3 }] }).core 0).copyStatus 2 = some 1
    ∧ 2 ^ 10 < ({ base.ctx with busy := 1025 } : Context).busy
    ∧ (base.modCore 0 fun k => { k with deque := [{ ctx := 1, join := false }] }).me.deque = [{ ctx := 1, join := false }] := by
  decide +kernel

theorem writeImage_hbm (d : Nat) : ∀ (l : List Byte) (s : State) (a : Nat), diesRun s = true →
    a + l.length ≤ 0x10000000000 → (s.writeImage d false a l).isSome = true
  | [], s, a, _, _ => rfl
  | b :: l, s, a, hd, h => by
    have : isHbm a = true := by simp [isHbm] at *; omega
    simp only [State.writeImage, State.imagePa, this, diesRun_die hd, Bool.not_false, or_true, and_self, if_true, Bool.false_eq_true, if_false]
    exact writeImage_hbm d l _ _ (by split <;> exact hd) (by simp at h; omega)

theorem readImage_hbm (s : State) (d : Nat) (hp : s.poison = []) (hd : diesRun s = true) : ∀ (n a : Nat), a + n ≤ 0x10000000000 →
    s.readImage d false a n = some (s.readBytes a n)
  | 0, _, _ => rfl
  | n + 1, a, h => by
    have : isHbm a = true := by simp [isHbm]; omega
    have hq : s.poisoned a = false := by rw [State.poisoned, hp]; rfl
    simp [State.readImage, State.imagePa, this, diesRun_die hd, readImage_hbm s d hp hd n (a + 1) (by omega), hq, State.readBytes]

-- an image that can be written, one that cannot, and a register that holds poison; an image to restore; the owner
theorem witness_ContextsAreSavedAndDisposed :
    let i : CtxId := { core := 0, ctx := 1 }
    let r : SaveReq := { image := 0x100000, asker := some { core := 0, ctx := 0 } }
    let asked := heapState.modCtx fun c => { c with stall := some (.save h0 5) }
    let s := { asked.setCtxAt i { kernel := some 0, st := .saving, saveReq := some r } with ev := evCtx i }
    let u := withWords (s.setCtxAt i { kernel := some 0, st := .restoring, saveReq := some r }) [(0x100000, at_ 16 2)]
    let ships : SaveReq := { image := 0x100000, asker := none, ship := some { core := 1, ctx := 0 } }
    (s.writeImage 0 r.virt r.image ((s.ctxAt i).imageBytes i r.prior)).isSome = true
    ∧ (∃ bytes, u.readImage 0 r.virt 0x100000 6144 = some bytes)
    ∧ ((s.ctxAt s.evId).st = .saving ∧ (s.ctxAt s.evId).saveReq = some r ∧ r.ship = none ∧ (s.ctxAt i).kernel = some 0
      ∧ (s.kernels.find? 0).map (·.save) = some none ∧ (s.ctxAt { core := 0, ctx := 0 }).stall = some (.save h0 5)
      ∧ ships.ship ≠ some i ∧ s.imageHold 0 ships.image 6144 ships.virt = none ∧ (s.die (coreDie 1)).stopped = false
      ∧ (s.ctxAt i).heldReqs = [] ∧ (s.ctxAt i).ecc = [] ∧ (s.ctxAt i).histEcc = [] ∧ s.imageHold 0 r.image 6144 r.virt = none ∧ (s.ctxAt i).pendingWake = false)
    ∧ (s.writeImage 0 true 0 [0]).isNone = true ∧ ({ (s.ctxAt i) with ecc := [(0, 5, 0)] } : Context).ecc ≠ []
    ∧ (u.ctxAt u.evId).st = .restoring ∧ (u.ctxAt u.evId).saveReq = some r ∧ r.asker ≠ some i ∧ u.imageHold 0 r.image 6144 r.virt = none
    ∧ field (imageWord (u.readBytes 0x100000 6144) 0) 19 16 = 2 :=
  ⟨writeImage_hbm 0 _ _ _ (by decide +kernel) (by decide +kernel), ⟨_, readImage_hbm _ 0 (by decide +kernel) (by decide +kernel) 6144 0x100000 (by decide)⟩, by decide +kernel⟩

-- the owner and another master; a trap of an instruction, an asynchronous one, a probe's victim, and one in trap mode
theorem witness_ContextsAreSavedAndDisposed_trapped :
    let i : CtxId := { core := 0, ctx := 0 }
    let s := ({ base with ev := { evCtx i with who := .outside 1 }, mgmt := { base.mgmt with owner := 1 } } : State)
    let own := base.ctx.trapped 0 { code := 0x040 }
    let async := base.ctx.trapped 0 { code := 0x162, async := true }
    let victim := base.ctx.trapped 0 { code := 0x0C5, async := true }
    s.evId = i ∧ s.ownedBy (.outside 1) = true ∧ s.ownedBy (.outside 2) = false ∧ coreExists i.core = true ∧ (s.ctxAt i).st ≠ .trapped
    ∧ (∀ c ∈ [own, async, victim], c.st = .trapped ∧ c.heldReqs = [] ∧ c.chain = [] ∧ c.forkChild = false ∧ c.continued = false
      ∧ c.trapMode = false)
    ∧ own.trapCause.getLsbD 58 = false ∧ async.trapCause.getLsbD 58 = true ∧ async.victim = false ∧ victim.victim = true
    ∧ (own.enterTrapMode 0).trapMode = true := by decide +kernel

/-! The owner is master 1; partition 0 is valid, its event core is 0. -/

/-- An event of the owner. -/
def byOwner (s : State) (e : Ev) : State :=
  { s with ev := { e with who := .outside 1 }, mgmt := { s.mgmt with owner := 1, parts := [(0, bitAt 63 true ||| at_ 12 0x123)] } }

theorem witness_LinksAndTheirRequests :
    let s := byOwner base { unit := 9 }
    let w : Waiter := { h := h0, len := 4, d := 5, acc := 1, ans := .scalar 8 false }
    let i : CtxId := { core := 0, ctx := 0 }
    let r : LinkReq := { id := 3, src := .ctx i, addr := 0, op := .read 8, since := 0, due := 2 ^ 40 }
    let t := { (s.setPort 9 { state := .up, tmo := 1, reqs := [r] }).modCtx fun c => { c with stall := some (.link 9 3 w) } with
      ev := { unit := 9, sub := 3 } }
    let u := ((s.setPort 8 { state := .up, reqs := [{ r with op := .read 0 }] }).modCtx fun c => { c with stall := some (.pri 3 1) })
    s.ownedBy (.outside 1) = true ∧ s.ownedBy (.outside 0) = false ∧ s.ev.unit < 10 ∧ (s.port 9).state = .down
    ∧ ((s.setPort 9 { state := .training }).port 9).state = .training ∧ portLanes 9 = 8 ∧ 2 ^ log2Of 8 = 8
    ∧ (t.port t.ev.unit).state = .up ∧ ((t.port 9).reqs.find? fun x => x.id == t.ev.sub) = some r
    ∧ (∀ a ∈ [w.ans, .nothing, .sent true, .sent false, .element, .progress 1],
        ((t.modCtx fun c => { c with stall := some (.link 9 3 { w with ans := a }) }).ctxAt i).stall = some (.link 9 3 { w with ans := a }))
    ∧ (t.port 9).reqs = [r] ∧ r.id = t.ev.sub ∧ r.due ≤ ({ t with clock := 2 ^ 40 } : State).clock ∧ t.agenda = []
    ∧ r.src = .ctx i ∧ (t.ctxAt i).stall = some (.link 9 r.id w)
    ∧ ((t.modCtx fun c => { c with stall := some (.result w [1, 2]) }).ctxAt t.evId).stall = none
    ∧ ((t.modCtx fun c => { c with stall := some (.result w [1, 2]) }).ctxAt { core := 0, ctx := 0 }).stall = some (.result w [1, 2])
    ∧ ((u.port 8).reqs.find? fun x => x.id == 3) = some { r with op := .read 0 } ∧ (u.ctxAt { core := 0, ctx := 0 }).stall = some (.pri 3 1)
    ∧ u.pris = [] := by decide +kernel

-- replays below and above RTHR; an overrun of a write that names its request, and of one that names its peer, whose bound stands or not
theorem witness_LinksAndTheirRequests_port :
    let r : LinkReq := { id := 3, src := .ctx { core := 0, ctx := 0 }, addr := 5 * 2 ^ 40, op := .write [0], since := 0, due := 100 }
    let p : Port := { state := .up, reqs := [r] }
    let s := ({ base with ev := { unit := 1, sub := 3, num := 65 } } : State).setPort 1 p
    (s.port 1).state = .up ∧ p.rthr.toNat < s.ev.num ∧ ¬ p.rthr.toNat < 64 ∧ s.ev.flag = false ∧ 65 = s.ev.num % 1024
    ∧ ((s.port 1).reqs.find? fun r => r.id == s.ev.sub) = some r ∧ 5 = r.addr / 2 ^ 40 % 1024 ∧ 5 ∉ p.lifted
    ∧ 5 ∈ ({ p with lifted := [5] } : Port).lifted := by decide +kernel

-- the answer to the request of an event that waits for it, and an error; a clock offset on each side of W/4
theorem witness_LinksAndTheirRequests_event :
    let src : Asker := .event .i3cTransfer { num := 3 }
    let r : LinkReq := { id := 3, src, addr := 0x80000000, op := .read 8, since := 0, due := 100 }
    let x : Errand := { asker := src, req := some (9, 3) }
    let s := ({ base with ev := { unit := 9, sub := 3, data := [1] }, errands := [x] } : State).setPort 9 { state := .quiesced, reqs := [r] }
    (((s.port 9).reqs.find? fun y => y.id == s.ev.sub) = some r ∧ r.src = .event .i3cTransfer { num := 3 } ∧ s.errands = [x]
      ∧ x.req = some (9, r.id) ∧ (s.port 9).state = .quiesced)
    ∧ s.mgmt.vwin.toNat < 4 * 501 ∧ 4 * 500 ≤ s.mgmt.vwin.toNat := by decide +kernel

-- a window of one page: its last byte, and the first one beyond; the host's window; a device message of no payload
theorem witness_RequestsFromOutside :
    let s := heapState.setPort 0 { state := .up, inBase := 0x1000000000000, inLim := 0x1000 }
    let read : State → Nat → Nat → Bool := fun s a n => match s.exRead (portDie 0) a n with
      | (_, .ok _) => true
      | (_, .error _) => false
    (s.port 0).state = .up ∧ 0xFFF < 0xFF00000000 ∧ (s.port 0).inLim.toNat ≤ 0x1000 ∧ ¬ (s.port 0).inLim.toNat ≤ 0xFFF
    ∧ portDie 0 = 4 ∧ read s 0x1000000000FFF 1 = false ∧ read s (ownSlotVa 0 0) 8 = true ∧ (s.port 9).state ≠ .up
    ∧ (s.port 0).waiting = [] ∧ 0xFF00000200 % 512 = 0
    ∧ (∀ k ∈ [1, 256], 1 ≤ k ∧ k ≤ 256 ∧ 0 / 256 = (0 + k - 1) / 256) ∧ ¬ (255 / 256 = (255 + 2 - 1) / 256)
    ∧ Amo.ofNum 0 = some .add ∧ Amo.ofNum 0xFF = none ∧ coreDie 1 ≠ portDie 0 ∧ ownSlotVa 0 0 % 8 = 0
    ∧ (match s.spots (portDie 0) .atomic (ownSlotVa 0 0) 8 with
      | .ok l => decide (s.spotPoison l = none) && decide (portOf l = none)
      | .error _ => false) = true
    ∧ ((s.setPort 8 { state := .up }).port 8).state = .up ∧ ((s.setPort 8 { waiting := [(0, { op := .read 1, addr := 0 })] }).port 8).waiting ≠ []
    ∧ s.coreMapped ((0xFF00000200 - 0xFF00000000) / 512) = true
    ∧ (peerMessage 1 (List.replicate 16 0)).isSome = true
    ∧ (s.accept { w0 := 0, w1 := headerWord1 1 0, payload := [] }).isSome = true := by decide +kernel

/-! An object with a code segment of one word and a placement table of one core and one launch record, at 0x200000; a leaf maps
the HBM window to the bottom of memory. -/

def objectState : State :=
  withWords heapState
    [(0x10000 + 8 * 32, 0x8000000000012000), (0x12000, 0xF810000000000000),
     (0x200000, 0x000200014B584F31), (0x200040, 1), (0x200048, 256), (0x200050, 4), (0x200060, 2), (0x200068, 512), (0x200070, 56),
     (0x200100, 0x06000000), (0x200200, at_ 48 1 ||| at_ 40 1 ||| at_ 27 1), (0x200220, at_ 34 1),
     (0x200228, bitAt 63 true ||| at_ 32 5), (0x200230, at_ 38 1)]

theorem witness_KernelCommands :
    let load : Cmd4 := ⟨at_ 8 7 ||| 1, 0x200000, 0x1000000400000, 0⟩
    let s := byOwner objectState { cmd := load }
    s.ownedBy (.outside 1) = true ∧ partV (s.part 0) = true ∧ partV (s.part 1) = false ∧ kcmdFormOk 1 load = true ∧ kcmdFormOk 2 load = false
    ∧ s.kernelOf 0 7 = none ∧ kcmdFormOk 3 ⟨3, 0, 0, 0⟩ = true ∧ kcmdFormOk 2 ⟨2, 0, 0, at_ 32 5⟩ = true
    ∧ (s.kernelOf 0 0).isSome = true ∧ s.imageOf 0x200000 2 0 = none
    ∧ (match s.imageOf 0x200000 0x1000000400000 0 with
      | some im => decide (s.placementFails im.place = none) && decide (im.place.recs.length = 1) && decide (im.data = none)
          && (match s.writeSegment 0 (im.code.length + 1) 0x1000000400000 im.code with
            | (_, .ok _) => true
            | (_, .error _) => false)
      | none => false) = true := by decide +kernel

-- a kernel whose launch record has tag 5, whose other record is none; a payload that is there, and one that is poisoned; a deque
-- that names a context of the kernel; a region image
theorem witness_KernelCommands_launch :
    let k : Kernel := { placedKernel with state := .loaded, tags := [{ w0 := bitAt 63 true ||| at_ 32 5, w1 := at_ 38 1 }, { w0 := at_ 32 6, w1 := at_ 38 1 }] }
    let s := ({ byOwner objectState { cmd := ⟨2, 0, 0x300000, at_ 32 5 ||| 16⟩ } with kernels := [(0, k)] } : State)
    let bad := ({ s with poison := [(0x300000 / 8, true)] } : State)
    let busy := s.modCore 0 fun c => { c with deque := [{ ctx := 0, join := false }] }
    let image := withWords s [(0x200000, 0x000300014B584F31), (0x200080, 3), (0x200088, 768), (0x200090, 64), (0x200210, at_ 20 64)]
    s.kernelOf 0 0 = some (0, k) ∧ kcmdFormOk 2 s.ev.cmd = true ∧ k.state = .loaded ∧ placedKernel.state ≠ .loaded
    ∧ ((k.tags.find? fun r => r.tag == 5).map (·.launch)) = some true ∧ ((k.tags.find? fun r => r.tag == 6).map (·.launch)) = some false
    ∧ (k.tags.find? fun r => r.tag == 7) = none ∧ s.rawOk 0x300000 16 = true ∧ bad.rawOk 0x300000 16 = false
    ∧ s.dequeBusy 0 k = false ∧ busy.dequeBusy 0 k = true
    ∧ (match image.imageOf 0x200000 0x1000000400000 0 with
      | some im => im.image.isSome && decide (image.placementFails im.place = none)
      | none => false) = true := by decide +kernel

theorem accBytes_length (e : Engine) (n : Nat) : (e.accBytes n).length = accDim n * accDim n * 4 := by
  have h : ∀ (k x : Nat), (bytesOfNat k x).length = k := by
    intro k
    induction k with
    | zero => intro x; rfl
    | succ k ih => intro x; simp [bytesOfNat, ih]
  have c : ∀ m : Nat, ((List.range m).map fun _ => 4).sum = m * 4 := by
    intro m
    induction m with
    | zero => rfl
    | succ m ih => simp [List.range_succ, ih, Nat.succ_mul]
  simp [Engine.accBytes, List.length_flatMap, h, c]

/-- A kernel whose PREEMPTK has every image, and its state. -/
def saving : KSave :=
  { area := 0x200000, notice := [], started := true }

def savedKernel (v : Option KSave) : Kernel :=
  { placedKernel with save := v }

def savingState (v : Option KSave) : State :=
  { (byOwner base { cmd := ⟨4, 0x200000, 100, 0⟩, flag := true }) with kernels := [(0, savedKernel v)] }

-- a block of a kernel that can be written
theorem witness_KernelProgress_block :
    ((savingState (some saving)).writeImage 0 false saving.area ((savingState (some saving)).kernelBlock 0 (savedKernel (some saving)))).isSome = true := by
  refine writeImage_hbm 0 _ _ _ (by decide +kernel) ?_
  have e : (savedKernel (some saving)).engines = [0] := by decide +kernel
  have l : (savedKernel (some saving)).blockHeader.length
      + ((savedKernel (some saving)).cores.flatMap fun r => (savingState (some saving)).coreBlock 0 (savedKernel (some saving)) r.core).length
      + ((savingState (some saving)).ringState 0 0).length ≤ 0x10000 := by decide +kernel
  have d : accDim 0 * accDim 0 * 4 = 65536 := by decide
  have a : saving.area = 0x200000 := rfl
  simp only [State.kernelBlock, e, List.flatMap_cons, List.flatMap_nil, List.append_nil, List.length_append, accBytes_length]
  omega

-- a PREEMPTK of a kernel that is not saved, the start of its saving, its end, and a kernel that has drained
theorem witness_KernelProgress :
    let s := savingState none
    let t := savingState (some saving)
    let k := savedKernel (some saving)
    let begins : KSave := { saving with started := false }
    let done : Kernel := { placedKernel with state := .completing }
    s.kernelOf 0 0 = some (0, savedKernel none) ∧ (savedKernel none).state = .running ∧ s.dequeBusy 0 (savedKernel none) = false
    ∧ kcmdFormOk 4 s.ev.cmd = true ∧ kcmdFormOk 5 ⟨5, 0x200000, 0, 0⟩ = true ∧ k.save ≠ none
    ∧ (savingState (some begins)).noticesAnswered begins = true
    ∧ t.saveEnding 0 k = true ∧ saving.taken = [] ∧ saving.failed = false ∧ k.nodeOut 0 = none
    ∧ (({ s with kernels := [(0, done)] }.setCtx { kernel := some 0, st := .dormant }).modCore 0 (fun c => { c with inbox := [] }) |>.drained 0 done) = true := by
  decide +kernel

-- the owner's PREEMPTK and RESUME; contexts that PREEMPTK has saved, whose images are there and pass, and one that is not there
set_option maxRecDepth 100000 in
theorem witness_KernelProgress_taken :
    let i : CtxId := { core := 0, ctx := 1 }
    let v : KSave := { saving with taken := [i] }
    let s := savingState none
    let owner := { s with ev := { s.ev with flag := false } }
    let saved := (savingState (some v)).setCtxAt i { kernel := some 0, st := .saved, image := some (0x300000, false) }
    (owner.ev.flag = false ∧ owner.ev.who = .outside 1 ∧ owner.ownedBy (.outside 1) = true ∧ partV (owner.part 0) = true)
    ∧ saved.saveEnding 0 (savedKernel (some v)) = true ∧ (saved.ctxAt i).st = .saved ∧ (saved.ctxAt i).image = some (0x300000, false)
    ∧ (withWords saved [(0x300000, 1)]).imageReady i = true ∧ saved.imageReady i = false
    ∧ ((savedKernel (some v)).cores.all fun r => saved.coreMapped r.core) = true := by decide +kernel

/-- A Preempted kernel whose save area has the format of a save, and its RESUME. -/
def preempted : Kernel :=
  { placedKernel with state := .preempted, save := some { area := 0x200000, notice := [] } }

def resumeState : State :=
  withWords ({ byOwner base { cmd := ⟨5, 0x200000, 0, 0⟩, flag := true } with kernels := [(0, preempted)] } : State) [(0x200000, 1)]

theorem witness_KernelProgress_resume :
    preempted.blockSize = 68224 ∧ resumeState.readImage 0 false 0x200000 68224 = some (resumeState.readBytes 0x200000 68224)
    ∧ field (wordAt (resumeState.readBytes 0x200000 68224) 0) 15 0 = 1
    ∧ (resumeState.kernelOf 0 0 = some (0, preempted) ∧ preempted.nodeOut 0 = none ∧ (preempted.cores.map (·.core)).Nodup
      ∧ preempted.regbase + preempted.regsize ≤ 2 ^ 20) := by
  refine ⟨?_, readImage_hbm _ 0 ?_ ?_ _ 0x200000 ?_, ?_, ?_⟩ <;> decide +kernel

-- a child's contribution at the root of a tree of two: with the root's own and without it, ordinary, persistent and paused
theorem witness_KernelProgress_tree :
    let x : Contrib := { word := 0, count := 1, first := 0, firstCore := 1, last := 0, lastCore := 1, final := false }
    let k : Kernel := { placedKernel with
      cores := [{ core := 0, ovf := 0, nctx := 1 }, { core := 1, ovf := 0, nctx := 1 }], tree := [(0, { kids := [(1, x)] }), (1, { out := some x })] }
    let own : Kernel := { k with tree := k.tree.put 0 { own := some x, kids := [(1, x)] } }
    (k.tree.get {} 1).out = some x ∧ k.nodeOut 0 = none ∧ (own.nodeOut 0).isSome = true ∧ own.paused = false ∧ own.pers = false
    ∧ ({ own with save := some { area := 0, notice := [] } } : Kernel).paused = true
    ∧ (({ own with pers := true } : Kernel).nodeOut 0).map (·.final) = some false := by decide +kernel

/-- The heap with a Kiln command at the head of the queue of die 0. -/
def kilnCmd (op r : Nat) : Cmd4 :=
  ⟨at_ 46 r ||| at_ 0 op, 0, 0, 0⟩

def kilnState : State :=
  ({ heapState with ev := { cmd := kilnCmd 1 2 } } : State).modDie 0 fun d => { d with kilnQ := [kilnCmd 1 2] }

/-- The same with region 2 as the destination of region 1, which holds one object, and region 3 Evacuated. -/
def evacState : State :=
  withWords kilnState [(0x20040, 0x4C00000080000000), (0x20048, 0x0010000000000040), (0x20050, BitVec.ofNat 64 (heapBase + 0x30000)),
    (0x20080, 0x4800000000000000), (0x200C0, 0x2000000000000000)]

-- commands for the Active region 1, the Free region 2 and the Evacuated region 3, a form that is none, a plan and none, a pinned object
theorem witness_KilnCommands :
    let plans := fun (s : State) => match s.planEvac (.core 0) 1 0x123 0 with
      | .ok (some _) => some true
      | .ok none => some false
      | .error _ => none
    let held := ({ kilnState with pins := [(1, 2 ^ 26 + 0x14, 0x40)] } : State)
    Enabled (withG kilnState [(1, 1)]) h0 [gs 1, gs 2]
    ∧ (kilnState.die 0).kilnQ = [kilnCmd 1 2] ∧ kilnFormOk (kilnCmd 1 2) = true ∧ kilnFormOk (kilnCmd 6 2) = false ∧ kilnOp (kilnCmd 5 1) = 5
    ∧ wordB (kilnState.regionWord (.die 0) 2 0) (fun w => decide (rgHome w = 0 ∧ rgState w = 0)) = true
    ∧ wordB (kilnState.regionWord (.die 0) 1 0) (fun w => decide (rgHome w = 0 ∧ rgState w = 1)) = true
    ∧ wordB (evacState.regionWord (.die 0) 3 0) (fun w => decide (rgHome w = 0 ∧ rgState w = 4)) = true
    ∧ okB (kilnState.setRegionWord (.die 0) 2 0 (rgTo 0 1 1)) = true ∧ okB (evacState.setRegionWord (.die 0) 3 2 0) = true
    ∧ plans kilnState = some false ∧ plans evacState = some true ∧ kilnState.pins = []
    ∧ spaceSid (held.die 0).space = 1 ∧ (2 ^ 26 + 0x14) / 2 ^ 26 = 1 ∧ held.pinnedSize (.die 0) (2 ^ 26 + 0x14) 0x40 ≠ none := by
  refine ⟨enabled_of ?_, ?_⟩ <;> decide +kernel

theorem witness_KilnWork :
    let s := heapState.modDie 0 fun d => { d with
      marks := [{ sid := 1, region := 1, cmd := ⟨0, 0, 0, 0⟩, seen := [], fresh := [] }]
      evacs := [{ sid := 1, region := 1, fwd := heapBase + 0x30000, tag := 0, core := 0, todo := [0], left := [0], moved := 0, stayed := 0, sent := false }] }
    let planned := { s with ev := { sub := 1 } }
    -- region 1 Evacuating, the entry of its first object COPYING to the start of region 2
    let moving := { withWords s [(0x20040, 0x5C00000080000000), (0x20050, BitVec.ofNat 64 (heapBase + 0x30000)), (0x30000, mkFwd 2 0 (2 ^ 27))] with ev := { unit := 1, sub := 0, flag := true } }
    s.kilnAgent 0 1 = .die 0 ∧ okB (s.markRegion 0 { sid := 1, region := 1, cmd := ⟨0, 0, 0, 0⟩, seen := [], fresh := [] }) = true
    ∧ ((planned.die 0).evacs.find? fun x => x.region == 1).isSome = true ∧ wordB (planned.vread (.die 0) (heapBase + 0x30000)) (fun w => decide (fwdState w ≠ 1)) = true
    ∧ wordB (moving.regionWord (.die 0) 1 2) (fun w => decide (fwdAddr w 0 = heapBase + 0x30000)) = true
    ∧ wordB (moving.vread (.die 0) (heapBase + 0x30000)) (fun w => decide (fwdState w = 2)) = true
    ∧ okB (moving.moveObject (.die 0) 1 0) = true := by decide +kernel

theorem witness_KilnWork_sparks :
    let c : Context := { kernel := some 0, st := .dormant }
    let s := ((heapRun.setCtxAt { core := 0, ctx := 6 } c).setCtxAt { core := 0, ctx := 7 } c).modCore 0 fun k => { k with sparge := [obj 0, obj 0x40] }
    let claim : Claim := { handle := obj 0x40, op := 0 }
    s.sparkCtx 0 = some 7 ∧ (s.core 0).sparge = [obj 0, obj 0x40] ∧ kindB s (obj 0) 0 = true ∧ kindB s (obj 0x40) 1 = true
    ∧ trapsB (s.barrier (.core 0) 0) = true
    ∧ (let t := s.modCtx fun c => { c with stall := some .eval, chain := [.claim claim] }
      (t.ctxAt t.evId).stall = some .eval ∧ (t.ctxAt t.evId).chain = [.claim claim]) := by decide +kernel

-- a walk with its leaf, a leaf in the cluster's cache, and a migration of the page
theorem witness_TranslationAndMigration :
    let cmd : Cmd4 := ⟨0x1000000000001, 0x600000, 0, 0⟩
    let q : Migration := { cmd, leafAt := 0, leaf := 0, phase := 0, poison := false }
    let s := pageState.modDie 0 fun d => { d with migs := [q] }
    let e : TlbEnt := { sid := 1, page := 0x100000000, bits := 16, pte := 0xF810000000500000 }
    let unsettled := s.modDie 0 fun d => { d with redirs := [(0x40, 0x50)] }
    (s.die 0).migs.contains q = true ∧ migFormOk cmd = true ∧ (s.spaceOf 0 (migSid cmd)).isSome = true ∧ s.spaceOf 0 2 = none
    ∧ (match s.spaceOf 0 1 with
      | some space => match s.walk 0 space (migPage cmd * 0x10000) with
        | .ok l => decide (l.bits = 16 ∧ ptePn l.pte = false ∧ pteMig l.pte = false ∧ l.at_ = 0x14000 ∧ pteAddr l.pte / 0x10000 = 0x50)
        | .error _ => false
      | none => false) = true
    ∧ isHbm (migDest cmd * 0x10000) = true ∧ migDest cmd ≠ 0x50 ∧ s.frameBusy (migDest cmd) = false ∧ s.frameUnsettled 0x50 = false
    ∧ unsettled.frameUnsettled 0x50 = true
    ∧ leafFor ((s.core 0).tlb) 1 0x1000000000000 = none ∧ leafFor (s.clusters.get [] 0) 1 0x1000000000000 = none
    ∧ leafFor [e] 1 0x1000000000000 = some e ∧ okB (s.walk 0 (s.coreSpace 0) 0x1000000000000) = true ∧ okB (s.walk 0 (s.coreSpace 0) 0) = false := by
  decide +kernel

-- a page that has been streamed: as it was, with a poisoned line, and with a leaf that software has changed; its queue; and the end
theorem witness_TranslationAndMigration_stream :
    let cmd : Cmd4 := ⟨0x1000000000001, 0x600000, 0, 0⟩
    let m : Migration := { cmd, leafAt := 0x14000, leaf := 0xF810000000500000, phase := 1, poison := false }
    let p : Passage := { sid := 1, page := 0x100000000, level := 1, pte := m.leaf }
    let i : CtxId := { core := 0, ctx := 0 }
    let r : FrameHold := { dest := 0x60, streaming := true, queue := [{ asker := .ctx i, p }] }
    let s := ({ withWords pageState [(0x14000, 0xF810000000500000 ||| bitAt 57 true)] with frames := [(0x50, r)] } : State).modDie 0 fun d => { d with migs := [m] }
    let t := s.modCtx fun c => { c with stall := some (.migration 0x50 p) }
    let m' : Migration := { m with cmd := ⟨0x1000000000001, 0x700000, 0, 0⟩ }
    m' ∈ ((s.modDie 0 fun d => { d with migs := [m, m'] }).die 0).migs ∧ m'.phase = 1 ∧ m'.leafAt = m.leafAt ∧ m' ≠ m ∧ s.migOf 0 (migDest cmd) = some m ∧ s.readWord m.leafAt = m.leaf ||| bitAt 57 true ∧ s.poison = []
    ∧ ({ s with poison := [(0x500000 / 8, true)] } : State).poisoned (pteAddr m.leaf + 8 * 0) = true
    ∧ (withWords s [(0x14000, 0)]).readWord m.leafAt ≠ m.leaf ||| bitAt 57 true
    ∧ s.frames.find? 0x50 = some r ∧ (t.ctxAt i).stall = some (.migration 0x50 p)
    ∧ (s.modDie 0 fun d => { d with migs := [{ m with phase := 2 }] }).migOf 0 (migDest cmd) = some { m with phase := 2 } := by decide +kernel

-- values at the ends of their ranges and just beyond
theorem witness_ManagementWrites :
    let s := byOwner State.reset { unit := 0, w0 := 40 }
    s.ownedBy (.outside 1) = true ∧ s.ownedBy (.outside 2) = false ∧ s.ev.flag = false ∧ coreExists 0 = true ∧ (10 ≤ 40 ∧ 40 ≤ 40) ∧ ¬ (41 ≤ 40)
    ∧ field (at_ 36 250 ||| at_ 8 85) 47 36 = 250 ∧ 250 % 125 = 0 ∧ field (at_ 36 250 ||| at_ 8 85) 1 0 ≠ 3 ∧ s.dieHolds 0 = false
    ∧ (base.setDie 0 (base.die 0)).dieHolds 0 = true ∧ s.shuttleFree 0 = true ∧ (s.die 0).ringLoad = none ∧ (s.ringTable 1).isNone = true
    ∧ s.mgmt.owner = 1 ∧ State.reset.mgmt.owner = 0 := by decide +kernel

-- entries 8 and 9 of die 0: kept, moved without a move, moved after one, made valid at a position in use
theorem witness_CoreTableAndSpares :
    let w0 : Word32 := State.reset.tableEntry 8
    let to_ : Word32 := w0 ^^^ (8 ^^^ 0x3FF)
    let pair := fun (x : Word32) => (State.reset.tableEntry 9).zeroExtend 64 <<< 32 ||| x.zeroExtend 64
    let s := byOwner State.reset { unit := 0, sub := 4, w0 := pair w0 }
    let moved := (s.modDie 0 fun d => { d with moved := d.moved.put 8 { pos := 0x3FF, core := {}, pad := [] } })
    s.ownedBy (.outside 1) = true ∧ entryPos w0 = 8 ∧ entryPos to_ = 0x3FF ∧ (pair w0).extractLsb' 0 32 = w0
    ∧ (pair w0).extractLsb' 32 32 = s.tableEntry 9 ∧ s.coreActive 8 = false ∧ (s.die 0).moved.find? 8 = none
    ∧ (moved.die 0).moved.find? 8 = some { pos := 0x3FF, core := {}, pad := [] } ∧ FMap.wf memDefault ([] : FMap Byte) = true
    ∧ s.positionUsed 0 8 0x3FF = false ∧ s.positionUsed 0 8 9 = true ∧ entryV w0 = true := by decide +kernel

theorem witness_CoreTableAndSpares_spmove :
    let s := byOwner State.reset { unit := 0, sub := 0, w0 := bitAt 63 true ||| spRegister false 0 1 8 }
    let held := s.modDie 0 fun d => { d with table := d.table.put 8 (s.tableEntry 8 ||| 0x40000000) }
    let moving := held.modDie 0 fun d => { d with spmove := spRegister true 0 1 8 }
    let slot : Slot := { msg := codeMsg [], arrival := 0, level := 0, since := 0, entry := 0, kernel := 0, bound := false, ecc := [2] }
    spBusy (s.die 0).spmove = false ∧ s.ev.w0.getLsbD 63 = true ∧ field s.ev.w0 58 22 = 0 ∧ field s.ev.w0 15 13 = 0 ∧ spSpare s.ev.w0 = 1
    ∧ spCore s.ev.w0 = 8 ∧ coreDie 8 = 0 ∧ s.coreMapped 8 = true
    ∧ held.coreHeld 8 = true ∧ held.coreActive 8 = false ∧ (held.core 8).deque = [] ∧ (held.core 8).copies = [] ∧ s.coreHeld 8 = false
    ∧ spBusy (moving.die 0).spmove = true ∧ spCore (moving.die 0).spmove = 8 ∧ moving.poison = [] ∧ (moving.core 8).inbox = []
    ∧ ({ moving with poison := [(spadBase 8 / 8, true)] } : State).poisoned (spadBase 8 + 8 * 0) = true ∧ slot.ecc ≠ [] := by
  decide +kernel

-- phases, the report index, a register of a core, a partition's request, an error of each kind, a die that runs and one that stopped
theorem witness_BootAndErrors :
    let s := byOwner State.reset { w0 := 1, unit := 0 }
    let run := { s with mgmt := { s.mgmt with phase := 3, parts := [] } }
    let part := { base with kernels := [(0, placedKernel)], ev := { w0 := 0x011002000110, unit := 0 } }
    s.mgmt.phase = 0 ∧ run.mgmt.phase = 3 ∧ (∀ p, p < 8 → partV (run.part p) = false) ∧ s.ownedBy (.outside 1) = true
    ∧ s.mgmt.attIndex < 2 ^ 20 ∧ coreExists 8 = true ∧ (0x011002000110 : Word).toNat = 0x011002000000 + 0 * 0x1000 + 0x110
    ∧ part.partOwns 0 (mregOf 0) = false ∧ part.partOwns 0 (mregOf (0x011002000000 + 0x110)) = true
    ∧ (base.die 0).stopped = false ∧ ((base.modDie 0 fun d => { d with stopped := true }).die 0).stopped = true := by decide +kernel

-- one valid partition, with no image and with an object; a BAR of a device whose port carries nothing; a temperature at TLIM and above;
-- a context of die 1 that waits for the save of one of die 0
theorem witness_BootAndErrors_partition :
    let s := { byOwner objectState {} with mgmt := { (byOwner objectState {}).mgmt with phase := 3, bhImg := [(0, 0x200000)] } }
    let i : CtxId := { core := 0x400, ctx := 0 }
    let asked := (base.setCtxAt i { st := .running, stall := some (.save h0 5) }).setCtxAt { core := 0, ctx := 1 }
      { st := .saving, saveReq := some { image := 0, asker := some i } }
    (∀ q, q < 8 → (partV (s.part q) = true ↔ q = 0)) ∧ s.ev.flag = false ∧ s.objectSize 0 = 0 ∧ s.objectSize 0x200000 ≠ 0
    ∧ s.rawOk 0x200000 (s.objectSize 0x200000 + 2500) = true
    ∧ (match ({ s with kernels := [], cores := [] } : State).load 0 0 0x200000 0x1000000400000 0 with
      | .made u kid => (u.kernels.find? kid).isSome
      | .status _ _ => false
      | .hold _ _ => false) = true
    ∧ (mregOf 0x011080000000 = .bar 0x011080000000 ∧ (s.port 9).carries = false ∧ s.brought 9 0x011080000000 = none)
    ∧ ((base.setPort 8 { state := .up }).port 8).hears = true ∧ (base.port 8).hears = false
    ∧ ¬ (base.island 0).tlim < 105 ∧ (base.island 0).tlim < 106
    ∧ i ∈ asked.saveAskers 0 ∧ coreDie i.core ≠ 0 ∧ (asked.ctxAt i).stall = some (.save h0 5) ∧ base.cur ∉ asked.saveAskers 0 := by
  decide +kernel

-- R407: SHAKE256 of the empty string begins 46 B9 DD 2B (the value that FIPS 202's own examples give)
set_option maxRecDepth 100000 in
theorem test_shake256_empty : (shake256 []).take 4 = [0x46, 0xB9, 0xDD, 0x2B] := by decide +kernel

-- R224: g5 of context 0 is poisoned: ADD of g5 traps UNCORRECTABLE_ECC, and a write of g5 clears it
theorem test_register_poison :
    let s := run .eccUncorrectable { base with ev := { unit := 0, sub := 0, num := 5, w0 := 1 } }
    field (run (.add h0 6 5 1) s).ctx.trapCause 8 0 = 0x160 ∧ (run (.add h0 5 1 1) s).ctx.ecc = [] := by decide +kernel

/-! The whole machine. -/

theorem witness_InvariantKept :
    MemOk State.reset ∧ AgendaOk State.reset ∧ MemOk padState ∧ AgendaOk padState
    ∧ (match step State.reset with | .next t => Memory.wf t.mem && t.agenda.all (fun x => isEvent x.row) | .fault _ => false | .refused _ => false) = true := by
  unfold MemOk AgendaOk
  decide +kernel

theorem witness_StepsGoOn :
    AgendaOk padState ∧ (∃ x, ({ base with agenda := [{ at_ := 0, row := .nop }] } : State).nextDue = some x ∧ isEvent x.row = false) :=
  ⟨by unfold AgendaOk; decide +kernel, { at_ := 0, row := .nop }, by decide +kernel, by decide⟩

theorem witness_DecodingInvertsEncoding :
    WellFormed (.add ⟨7, 7⟩ 63 55 0) ∧ decodeWords 0x20005187 0 = some (.add h0 5 6 7) ∧ isHint (.add h0 5 6 7) = false := by decide

/-- Context 0 of core 0 about to issue: bytes of a code message, and the same in resident code that a page of the HBM window holds. -/
def fetchState (bytes : List Byte) : State :=
  State.reset.withCode bytes

def residentState : State :=
  let s := withWords pageState [(0x500000, 0x0600000020005187)]
  let s := s.setCtxAt { core := 0, ctx := 0 } { kernel := some 0, st := .ready, pc := 0x1000000000000, slot := none }
  { s with issued := [], late := false, kernels := [(0, { placedKernel with codeBase := 0x1000000000000, codeSize := 8 })] }

theorem witness_StepRunsTheDecodedInstruction :
    let s := fetchState [0x87, 0x51, 0x00, 0x20]
    let i : CtxId := { core := 0, ctx := 0 }
    let u := s.select i
    let r := residentState.select i
    s.nextDue = none ∧ s.nextIssue = some i ∧ u.codeLen i = some 4 ∧ u.ctx.pc.toNat % 4 = 0 ∧ u.ctx.frame = none
    ∧ (match u.slotOf i with | some m => decide (decode ((m.msg.payload.take 4).drop 0) = some (.add h0 5 6 7, [])) | none => false) = true
    ∧ residentState.nextIssue = some i ∧ residentState.nextDue = none ∧ r.codeLen i = none ∧ (windowOf r.ctx.pc.toNat).paged = true
    ∧ (match r.translate 0 0x1000000000000 with
      | .ok x => permits x.pte .fetch && !pteMig x.pte && r.dieServes 0 x.pa && !r.poisoned x.pa && decide (x.pa = 0x500000)
      | .error _ => false) = true
    ∧ r.codeOf i = (0x1000000000000, 8) ∧ decode (r.readBytes 0x500000 4) = some (.add h0 5 6 7, []) := by decide +kernel

-- an address that is no multiple of four, a payload that ends, a word that is none, a page that is not there, code that ends
theorem witness_FetchFaults :
    let i : CtxId := { core := 0, ctx := 0 }
    let at_ := fun (s : State) (pc : Word) => s.modCore 0 fun k => k.setCtx 0 { k.ctx 0 with pc := pc }
    let s := fetchState (List.replicate 8 0)
    (at_ s 2).nextIssue = some i ∧ ((at_ s 2).select i).ctx.pc.toNat % 4 ≠ 0 ∧ ((at_ s 8).select i).codeLen i = some 8 ∧ 8 < 8 + 4
    ∧ twoWords (BitVec.ofNat 32 0) = false ∧ decodeWords 0 0 = none ∧ twoWords 0xF0000000 = true ∧ decodeWords 0xFFFFFFFF 0xFFFFFFFF = none
    ∧ (match ((at_ residentState 0x1000000010000).select i).translate 0 0x1000000010000 with | .ok _ => false | .error _ => true) = true
    ∧ ((at_ residentState 0x1000000000008).select i).codeOf i = (0x1000000000000, 8) := by decide +kernel

-- a management access over I3C waits for one over PCIe; with none due, a core issues; with none left, the cycle ends
theorem witness_EventsAndCycles :
    let early : Due := { at_ := 0, row := .wake }
    let vdm : Due := { at_ := 0, row := .mgmtVdmRequest }
    let i3c : Due := { at_ := 0, row := .i3cTransfer }
    let gone : Due := { at_ := 0, row := .matrixJobStart }
    let drain : Due := { at_ := 0, row := .kernelDrainDone }
    let s := { base with agenda := [drain, i3c, early, vdm], issued := [{ core := 0, ctx := 0 }] }
    let off := ({ base with agenda := [gone] } : State).modDie 0 fun d => { d with stopped := true }
    s.nextDue.isSome = true ∧ isEvent early.row = true ∧ i3c.fromI3c = true ∧ off.nextDue = some gone ∧ off.stopped gone = true
    ∧ ({ s with agenda := [drain] } : State).nextDue = none ∧ ({ s with agenda := [drain] } : State).nextIssue = none
    ∧ ({ s with agenda := [drain] } : State).nextLate = some drain ∧ ({ s with agenda := [drain, i3c] } : State).nextDue = none
    ∧ ({ s with agenda := [drain, i3c, vdm] } : State).nextLate = some vdm ∧ ({ s with agenda := [drain, i3c] } : State).nextLate = some i3c ∧ lateRow drain.row = true
    ∧ (fetchState []).nextIssue = some { core := 0, ctx := 0 } ∧ State.reset.nextDue = none ∧ State.reset.nextIssue = none := by decide +kernel

-- BARWAIT 5 with the token in g4, BARARVW 5, GBWAIT 1: a generation that has passed, and one that has not (R358)
theorem witness_ContextsAreSavedAndDisposed_waits :
    let i : CtxId := { core := 0, ctx := 0 }
    let at_ (w : List Byte) (gen : BitVec 16) (amask : BitVec 8) : State :=
      (fetchState w).modCore 0 fun k =>
        { k with bars := k.bars.put 5 { gen, amask }, views := k.views.put 0 { gbar := [(1, { gen })] } }
    let c (s : State) : Context := { (s.ctxAt i).setReg .g 4 (ofWord 7) with st := .waiting }
    let after (s : State) : CtxState := match s.enterRestored i (c s) false with | .ok t => (t.ctxAt i).st | .error _ => .free
    let barwait : List Byte := [0x05, 0x01, 0x00, 0xC6]
    let bararvw : List Byte := [0x05, 0x00, 0x00, 0xC8]
    let gbwait : List Byte := [0x01, 0x01, 0x00, 0xC9]
    (at_ barwait 7 0).fetch i = .instr (.barwait h0 4 5) 4 ∧ after (at_ barwait 7 0) = .waiting ∧ after (at_ barwait 8 0) = .ready
    ∧ (at_ bararvw 7 0).fetch i = .instr (.bararvw h0 5) 4 ∧ after (at_ bararvw 7 1) = .waiting ∧ after (at_ bararvw 7 2) = .ready
    ∧ (at_ gbwait 7 0).fetch i = .instr (.gbwait h0 4 1) 4 ∧ after (at_ gbwait 7 0) = .waiting ∧ after (at_ gbwait 8 0) = .ready := by
  decide +kernel

end Sys2Proof.Tests
end

section
/-!
SUPPORT. The results of the scalar instructions: the arithmetic of the model's value functions, the law that carries a value
to `Writes`, and the statements that they settle.
-/

namespace Sys2Proof.Machine

open Sys2Proof Sys2Proof.Safety

/-! ### Values -/

/-- MIN.u (R278): the operands compared as natural numbers. -/
theorem minWord_unsigned (x y : Word) : minWord true x y = BitVec.ofNat 64 (min x.toNat y.toNat) := by
  rw [min_comm, min_def_lt, apply_ite (BitVec.ofNat 64)]
  simp [minWord, ltWord, BitVec.ult_eq_decide]

/-- MIN (R278): the operands compared as integers. -/
theorem minWord_signed (x y : Word) : minWord false x y = BitVec.ofInt 64 (min x.toInt y.toInt) := by
  rw [min_comm, min_def_lt, apply_ite (BitVec.ofInt 64)]
  simp [minWord, ltWord, BitVec.slt_eq_decide]

/-- MAX.u (R278). -/
theorem maxWord_unsigned (x y : Word) : maxWord true x y = BitVec.ofNat 64 (max x.toNat y.toNat) := by
  rw [max_def_lt, apply_ite (BitVec.ofNat 64)]
  simp [maxWord, ltWord, BitVec.ult_eq_decide]

/-- MAX (R278). -/
theorem maxWord_signed (x y : Word) : maxWord false x y = BitVec.ofInt 64 (max x.toInt y.toInt) := by
  rw [max_def_lt, apply_ite (BitVec.ofInt 64)]
  simp [maxWord, ltWord, BitVec.slt_eq_decide]

/-- The 128-bit concatenation as a number. -/
theorem toNat_append_word (x y : Word) : (x ++ y).toNat = x.toNat * 2 ^ 64 + y.toNat := by
  rw [BitVec.toNat_append, ← Nat.shiftLeft_add_eq_or_of_lt y.isLt, Nat.shiftLeft_eq]

/-- FSHL (R282): the high half, shifted as a number; what leaves bit 127 does not reach it. -/
theorem fshlWord_eq (x y : Word) (n : Nat) :
    fshlWord x y n = BitVec.ofNat 64 ((x.toNat * 2 ^ 64 + y.toNat) * 2 ^ n / 2 ^ 64) := by
  apply BitVec.eq_of_toNat_eq
  have hhalf (v : Nat) : v % 2 ^ (64 + 64) / 2 ^ 64 = v / 2 ^ 64 % 2 ^ 64 := by
    rw [pow_add, Nat.mod_mul_right_div_self]
  rw [fshlWord, BitVec.extractLsb'_toNat, BitVec.toNat_shiftLeft, toNat_append_word, Nat.shiftLeft_eq,
    Nat.shiftRight_eq_div_pow, hhalf, Nat.mod_mod, BitVec.toNat_ofNat]

/-- FSHR (R282): the low half. -/
theorem fshrWord_eq (x y : Word) (n : Nat) :
    fshrWord x y n = BitVec.ofNat 64 ((x.toNat * 2 ^ 64 + y.toNat) / 2 ^ n) := by
  apply BitVec.eq_of_toNat_eq
  rw [fshrWord, BitVec.extractLsb'_toNat, BitVec.toNat_ushiftRight, toNat_append_word, Nat.shiftRight_zero,
    Nat.shiftRight_eq_div_pow, BitVec.toNat_ofNat]

/-- LOP3 (R280), at any width: bit `k` is the entry of the table that the three bits select. -/
theorem getLsbD_lop3 {n : Nat} (tt : BitVec 8) (x y z : BitVec n) {k : Nat} (hk : k < n) :
    (lop3 tt x y z).getLsbD k =
      tt.getLsbD (4 * (x.getLsbD k).toNat + 2 * (y.getLsbD k).toNat + (z.getLsbD k).toNat) := by
  have hentry (j : Nat) (v : BitVec n) : (if tt.getLsbD j then v else 0).getLsbD k = (tt.getLsbD j && v.getLsbD k) := by
    cases tt.getLsbD j <;> simp
  simp only [lop3, BitVec.getLsbD_or, hentry, BitVec.getLsbD_and, BitVec.getLsbD_not, hk, decide_true, Bool.true_and]
  cases x.getLsbD k <;> cases y.getLsbD k <;> cases z.getLsbD k <;> simp

/-- The bits of the field that INS writes (R284). -/
theorem getLsbD_fieldMask (pos w : Nat) {k : Nat} (hk : k < 64) :
    (BitVec.ofNat 64 (2 ^ w - 1) <<< pos).getLsbD k = decide (pos ≤ k ∧ k < pos + w) := by
  rw [BitVec.getLsbD_shiftLeft, BitVec.getLsbD_ofNat, Nat.testBit_two_pow_sub_one, Bool.eq_iff_iff]
  simp only [Bool.and_eq_true, Bool.not_eq_true', decide_eq_true_eq, decide_eq_false_iff_not]
  omega

/-- INS (R284): the field from the source, the rest from the old value. -/
theorem getLsbD_insWord (old x : Word) (pos w : Nat) {k : Nat} (hk : k < 64) :
    (insWord old x pos w).getLsbD k = if pos ≤ k ∧ k < pos + w then x.getLsbD (k - pos) else old.getLsbD k := by
  simp only [insWord, BitVec.getLsbD_or, BitVec.getLsbD_and, BitVec.getLsbD_not, getLsbD_fieldMask pos w hk, hk,
    decide_true, Bool.true_and]
  split
  · next h => simp [-BitVec.getLsbD_eq_getElem, h, BitVec.getLsbD_shiftLeft, hk, Nat.not_lt.2 h.1]
  · next h => simp [h]

/-! ### From a value to the register -/

/-- With an active lane and readable sources, an instruction is what it does after its checks (R233, R273). -/
theorem State.guarded_of_enabled {s : State} {h : Hdr} {srcs : List (Cls × Fld)} (he : Enabled s h srcs) (len : Nat)
    (res : Option (Cls × Fld)) (act : State → State) : s.guarded h len res srcs act = act s := by
  simp only [State.guarded, State.guardedBy, he.pred, he.lanes, he.reads, if_false]

/-- An instruction of the scalar shape that computes the word `r` writes it to gd (R273). -/
theorem writes_of_scalar {i : Instr} {s : State} {h : Hdr} {len : Nat} {lat : Lat} {d : Fld} {srcs : List (Cls × Fld)}
    {f : Context → Word} {r : Word} (hd : dstOk .g d = true) (he : Enabled s h srcs)
    (hi : exec i s = .next (s.scalar h len lat .g d srcs fun c => ofWord (f c))) (hr : f s.ctx = r) :
    Writes i s h len .g d (ofWord r) := by
  have hw := State.scalar_wrote (len := len) (lat := lat) (f := fun c => ofWord (f c)) hd he
  rw [cut_ofWord, hr] at hw
  exact ⟨_, hi, hw⟩

/-- What LEAW does once its checks have passed: the window of the base, then that of the exact signed sum (R289). -/
theorem exec_leaw_of_enabled {s : State} {h : Hdr} {a b : Fld} (he : Enabled s h [gs a, gs b]) (sc : Size) (d : Fld)
    {x : Word} {r : Int} (hx : s.ctx.srcG a = x) (hr : x.toNat + (s.ctx.srcG b).toInt * (Size.bytes sc : Nat) = r) :
    exec (.leaw h sc d a b) s = .next
      (if windowOf x.toNat = .none then s.trap { code := 0x040, addr := x }
        else if r < 0 ∨ windowOf r.toNat ≠ windowOf x.toNat then s.trap { code := 0x041, addr := BitVec.ofInt 64 r }
        else s.scalar h oneWord (.fixed 2) .g d [gs a, gs b] fun _ => ofWord (BitVec.ofInt 64 r)) := by
  subst hx hr
  simp only [State.scalar, State.guarded_of_enabled he]
  exact congrArg Host.Outcome.next (State.guarded_of_enabled he ..)

/-! ### The statements -/

/-- Settles O1: each instruction has the scalar shape, with the value that the statement names. -/
theorem scalarTwoSourceResults : Obligations.ScalarTwoSourceResults := by
  intro s h d a b hd he x y writes
  have of_value (i : Instr) (lat : Lat) (f : Word → Word → Word) {r : Word}
      (hi : exec i s = .next (s.scalar h oneWord lat .g d [gs a, gs b] fun c => ofWord (f (c.srcG a) (c.srcG b))))
      (hr : f x y = r) : writes i r :=
    writes_of_scalar hd he hi hr
  exact ⟨of_value (.add h d a b) _ (· + ·) rfl rfl, of_value (.sub h d a b) _ (· - ·) rfl rfl,
    of_value (.mul h d a b) _ (· * ·) rfl rfl, of_value (.mulh h true d a b) _ (mulHigh true) rfl rfl,
    of_value (.mulh h false d a b) _ (mulHigh false) rfl rfl, of_value (.div h true d a b) _ (divWord true) rfl rfl,
    of_value (.div h false d a b) _ (divWord false) rfl rfl, of_value (.rem h true d a b) _ (remWord true) rfl rfl,
    of_value (.rem h false d a b) _ (remWord false) rfl rfl,
    of_value (.min h true d a b) _ (minWord true) rfl (minWord_unsigned x y),
    of_value (.min h false d a b) _ (minWord false) rfl (minWord_signed x y),
    of_value (.max h true d a b) _ (maxWord true) rfl (maxWord_unsigned x y),
    of_value (.max h false d a b) _ (maxWord false) rfl (maxWord_signed x y),
    of_value (.and h d a b) _ (· &&& ·) rfl rfl, of_value (.or h d a b) _ (· ||| ·) rfl rfl,
    of_value (.xor h d a b) _ (· ^^^ ·) rfl rfl, of_value (.andn h d a b) _ (fun x y => x &&& ~~~y) rfl rfl,
    of_value (.shl h d a b) _ (fun x y => x <<< amount y) rfl rfl,
    of_value (.shr h d a b) _ (fun x y => x >>> amount y) rfl rfl,
    of_value (.sar h d a b) _ (fun x y => x.sshiftRight (amount y)) rfl rfl,
    of_value (.rol h d a b) _ (fun x y => rolWord x (amount y)) rfl rfl,
    fun sc => of_value (.lea h sc d a b) _ (scaled · · sc) rfl rfl⟩

/-- Settles O3: the three-source forms and INS have the scalar shape, their values taken bit by bit; LEAW by the outcome of its
two window checks. -/
theorem scalarThreeSourceResults : Obligations.ScalarThreeSourceResults := by
  refine ⟨fun s h d a b c hd => ⟨fun he => ⟨?fshl, ?fshr, fun tt => ?lop3⟩, fun _ he => ?sel, fun pos w1 _ _ he => ?ins⟩,
    fun s h sc d a b hd he => ?leaw⟩
  case fshl => exact writes_of_scalar hd he rfl (fshlWord_eq _ _ _)
  case fshr => exact writes_of_scalar hd he rfl (fshrWord_eq _ _ _)
  case lop3 => exact ⟨_, writes_of_scalar hd he rfl rfl, fun k hk => getLsbD_lop3 tt _ _ _ hk⟩
  case sel => exact writes_of_scalar hd he rfl rfl
  case ins =>
    refine ⟨_, writes_of_scalar hd he rfl rfl, fun k hk => ?_⟩
    rw [getLsbD_insWord _ _ _ _ hk]
    simp only [← Nat.add_assoc, Nat.lt_succ_iff]
  case leaw =>
    have hleaw := exec_leaw_of_enabled he sc d rfl rfl
    refine ⟨fun hbase hnonneg hsame => ?_, fun hbase => ?_, fun hbase hout => ?_⟩
    · rw [if_neg hbase, if_neg (not_or.2 ⟨not_lt.2 hnonneg, not_not.2 hsame⟩)] at hleaw
      exact writes_of_scalar hd he hleaw rfl
    · rw [hleaw, if_pos hbase]
    · rw [hleaw, if_neg hbase, if_pos hout]

end Sys2Proof.Machine
end

section
/-!
SUPPORT. The results of the integer vector instructions: the arithmetic of the lanes, the laws that carry a lane function to
`WritesLanes`, one per shape of sources, and the statement that they settle.
-/

namespace Sys2Proof.Machine

open Sys2Proof Sys2Proof.Safety

/-! ### Lane values -/

/-- The bounds of R300, as the numbers that the rule's powers stand for. -/
theorem satLane_eq (t : Bool) (v : Int) :
    satLane t v = (BitVec.ofInt 32 (if t then max (-2147483648) (min 2147483647 v) else v), 0) := by
  norm_num [satLane]

/-- A concatenation of two equal widths as a number, the first the high half. -/
theorem toNat_append_halves {w : Nat} (x y : BitVec w) : (x ++ y).toNat = x.toNat * 2 ^ w + y.toNat := by
  rw [BitVec.toNat_append, ← Nat.shiftLeft_add_eq_or_of_lt y.isLt, Nat.shiftLeft_eq]

/-- A left funnel shift at any width: the high half; what leaves the top bit does not reach it. -/
theorem highHalf_shiftLeft {w : Nat} (x y : BitVec w) (n : Nat) :
    ((x ++ y) <<< n).extractLsb' w w = BitVec.ofNat w ((x.toNat * 2 ^ w + y.toNat) * 2 ^ n / 2 ^ w) := by
  apply BitVec.eq_of_toNat_eq
  rw [BitVec.extractLsb'_toNat, BitVec.toNat_shiftLeft, toNat_append_halves, Nat.shiftLeft_eq,
    Nat.shiftRight_eq_div_pow, pow_add, Nat.mod_mul_right_div_self, Nat.mod_mod, BitVec.toNat_ofNat]

/-- A right funnel shift at any width: the low half. -/
theorem lowHalf_shiftRight {w : Nat} (x y : BitVec w) (n : Nat) :
    ((x ++ y) >>> n).extractLsb' 0 w = BitVec.ofNat w ((x.toNat * 2 ^ w + y.toNat) / 2 ^ n) := by
  apply BitVec.eq_of_toNat_eq
  rw [BitVec.extractLsb'_toNat, BitVec.toNat_ushiftRight, toNat_append_halves, Nat.shiftRight_zero,
    Nat.shiftRight_eq_div_pow, BitVec.toNat_ofNat]

/-- The 1 bits that `popcount` adds up, counted by their positions. -/
theorem popcount_eq_countP (v n : Nat) : popcount v n = List.countP (fun k => v.testBit k) (List.range n) := by
  induction n generalizing v with
  | zero => rfl
  | succ n ih =>
    have hlow : v % 2 = if v.testBit 0 then 1 else 0 := by
      rcases Nat.mod_two_eq_zero_or_one v with h | h <;> simp [h]
    have hrest : List.countP (fun k => v.testBit k) ((List.range n).map Nat.succ) = popcount (v / 2) n := by
      rw [List.countP_map, ih]
      exact congrArg (List.countP · _) (funext (Nat.testBit_succ v))
    rw [popcount, List.range_succ_eq_map, List.countP_cons, hrest, hlow, Nat.add_comm]

/-! ### From a lane function to the lanes of the block -/

section Shapes

variable {i : Instr} {s : State} {h : Hdr} {lat : Lat} {bk : Block} {d a b c : Fld} {l : List Fld} {g : Nat → LaneFn}

/-- An instruction of the per-lane shape whose sources are the blocks of the fields `l` writes what its lane function gives
(R291). -/
theorem writesLanes_of_vlanes {srcs : List (Cls × Fld)} {f : Context → Nat → LaneFn} (hd : blockAt bk d = true)
    (he : Readable s h (l.flatMap (blockSrcs bk))) (hl : l.flatMap (blockSrcs bk) = srcs)
    (hi : exec i s = .next (s.vlanes h lat bk d srcs f)) (hg : ∀ r n, f s.ctx r n = g r n) : WritesLanes i s h bk d g := by
  obtain rfl : f s.ctx = g := funext fun r => funext (hg r)
  subst hl
  exact ⟨_, hi, State.vlanes_wrote hd he⟩

/-- One source. -/
theorem writesLanes_of_vlane1 {f : Context → Word32 → Word32 × Flags} (hd : blockAt bk d = true)
    (he : Readable s h ([a].flatMap (blockSrcs bk))) (hi : exec i s = .next (s.vlane1 h lat bk d a f))
    (hg : ∀ r n, f s.ctx (lane (s.ctx.srcV (blockFld bk a r)) n) = g r n) : WritesLanes i s h bk d g :=
  writesLanes_of_vlanes hd he (by simp) hi hg

/-- Two sources. -/
theorem writesLanes_of_vlane2 {f : Context → Word32 → Word32 → Word32 × Flags} (hd : blockAt bk d = true)
    (he : Readable s h ([a, b].flatMap (blockSrcs bk))) (hi : exec i s = .next (s.vlane2 h lat bk d a b f))
    (hg : ∀ r n, f s.ctx (lane (s.ctx.srcV (blockFld bk a r)) n) (lane (s.ctx.srcV (blockFld bk b r)) n) = g r n) :
    WritesLanes i s h bk d g :=
  writesLanes_of_vlanes hd he (by simp) hi hg

/-- Two sources and the destination, read as a third. -/
theorem writesLanes_of_vlane2d {f : Context → Word32 → Word32 → Word32 → Word32 × Flags} (hd : blockAt bk d = true)
    (he : Readable s h ([a, b, d].flatMap (blockSrcs bk))) (hi : exec i s = .next (s.vlane2d h lat bk d a b f))
    (hg : ∀ r n, f s.ctx (lane (s.ctx.srcV (blockFld bk a r)) n) (lane (s.ctx.srcV (blockFld bk b r)) n)
      (lane (s.ctx.srcV (blockFld bk d r)) n) = g r n) :
    WritesLanes i s h bk d g :=
  writesLanes_of_vlanes hd he (by simp) hi hg

/-- Three sources; such an instruction raises no flag. -/
theorem writesLanes_of_vlane3 {f : Word32 → Word32 → Word32 → Word32} (hd : blockAt bk d = true)
    (he : Readable s h ([a, b, c].flatMap (blockSrcs bk))) (hi : exec i s = .next (s.vlane3 h lat bk d a b c f))
    (hg : ∀ r n, (f (lane (s.ctx.srcV (blockFld bk a r)) n) (lane (s.ctx.srcV (blockFld bk b r)) n)
      (lane (s.ctx.srcV (blockFld bk c r)) n), 0) = g r n) :
    WritesLanes i s h bk d g :=
  writesLanes_of_vlanes hd he (by simp) hi hg

end Shapes

/-! ### The statement -/

/-- The destination of a three-operand form keeps its block in the grid (R234). -/
theorem blockAt_of_vBlk3 {bk : Block} {d a b : Fld} (h : vBlk3 bk d a b = true) : blockAt bk d = true := by
  simp only [vBlk3, vBlk2, Bool.and_eq_true] at h
  obtain ⟨⟨⟨-, hd⟩, -⟩, -⟩ := h
  exact hd

/-- Settles O5: each instruction has a per-lane shape, with the lane function that the statement names; the clamp, the funnel
shifts and the bit count are the lane values above. -/
theorem vectorIntegerResults : Obligations.VectorIntegerResults := by
  intro s h bk d a b c hblk _
  have hd : blockAt bk d = true := blockAt_of_vBlk3 hblk
  refine ⟨fun t => ⟨?viadd, ?visub, ?vimul, ?vimad⟩, ?vand, ?vor, ?vxor, ?vshl, ?vshr, ?vfshl, ?vfshr, ?vpopc, ?vmov, ?vperm,
    fun hbk tt => ?vlop3⟩ <;> intro he
  case viadd | visub | vimul => exact writesLanes_of_vlane2 hd he rfl fun _ _ => satLane_eq t _
  case vimad => exact writesLanes_of_vlane2d hd he rfl fun _ _ => satLane_eq t _
  case vand | vor | vxor | vshl | vshr => exact writesLanes_of_vlane2 hd he rfl fun _ _ => rfl
  case vfshl => exact writesLanes_of_vlane3 hd he rfl fun _ _ => congrArg (·, 0) (highHalf_shiftLeft _ _ _)
  case vfshr => exact writesLanes_of_vlane3 hd he rfl fun _ _ => congrArg (·, 0) (lowHalf_shiftRight _ _ _)
  case vpopc =>
    exact writesLanes_of_vlane1 hd he rfl fun _ _ => congrArg (BitVec.ofNat 32 ·, 0) (popcount_eq_countP _ 32)
  case vmov => exact writesLanes_of_vlane1 hd he rfl fun _ _ => rfl
  case vperm => exact writesLanes_of_vlanes hd he (by simp) rfl fun _ _ => rfl
  case vlop3 =>
    subst hbk
    exact writesLanes_of_vlane3 hd he rfl fun _ _ => rfl

end Sys2Proof.Machine
end
